-- ==== Sys2Proof/Word.lean ====
section
/-! DEFINITION. The word types of the NLX-3216 and their plainest arithmetic (spec/00_scope.md R4, R8). -/

namespace Sys2Proof

/-- A 64-bit register, address or doubleword. -/
abbrev Word := BitVec 64

/-- One byte of memory. -/
abbrev Byte := BitVec 8

/-- One 32-bit vector lane, tile element or instruction word. -/
abbrev Lane := BitVec 32

/-- A v register: 64 lanes of 32 bits (R61, R77). -/
abbrev VWord := BitVec 2048

/-- The bits `[lo + n - 1 : lo]` of `x`, as a number (R4). -/
def bits (x lo n : Nat) : Nat := x / 2 ^ lo % 2 ^ n

/-- The bits `[lo + n - 1 : lo]` of a 64-bit word, as a number. -/
def Word.bits (x : Word) (lo n : Nat) : Nat := Sys2Proof.bits x.toNat lo n

/-- A number kept to 64 bits. -/
def word (n : Nat) : Word := BitVec.ofNat 64 n

/-- 1 when the condition holds, else 0 (R93, BOOL). -/
def boolWord (b : Bool) : Word := if b then 1#64 else 0#64

/-- The integer that an n-bit pattern denotes in two's complement. -/
def signedOf (n x : Nat) : Int := if 2 * x < 2 ^ n then (x : Int) else (x : Int) - (2 : Int) ^ n

/-- An integer kept to its low n bits. -/
def wrapInt (n : Nat) (x : Int) : Nat := (x % ((2 : Int) ^ n)).toNat

/-- SAT of R8. -/
def satInt (x lo hi : Int) : Int := if x < lo then lo else if x > hi then hi else x

/-- The little-endian bytes of a number, lowest first (R4). -/
def leBytes : Nat → Nat → List Byte
  | 0, _ => []
  | n + 1, x => BitVec.ofNat 8 x :: leBytes n (x / 256)

/-- The number whose little-endian bytes are given (R4). -/
def ofLeBytes : List Byte → Nat
  | [] => 0
  | b :: t => b.toNat + 256 * ofLeBytes t

/-- The numbers `a, a+1, ..., a+n-1`. -/
def rangeFrom (a : Nat) : Nat → List Nat
  | 0 => []
  | n + 1 => a :: rangeFrom (a + 1) n

/-- `x` rounded up to a multiple of `n`, divided by `n`. -/
def ceilDiv (x n : Nat) : Nat := (x + n - 1) / n

end Sys2Proof
end

