-- ==== Sys2Proof/Syntax.lean ====
section
/-! DEFINITION. The instruction set as syntax: every row of spec/opcode_table.json is one constructor of Instr. -/

namespace Sys2Proof

/-- A g register number (R34). -/
abbrev GReg := Fin 32
/-- A v register number. -/
abbrev VReg := Fin 16
/-- A k register number. -/
abbrev KReg := Fin 8
/-- An even-odd pair of g registers g(2i), g(2i+1) (R237). -/
abbrev GPair := Fin 16
/-- An even-odd pair of v registers v(2i), v(2i+1) (R167, R378). -/
abbrev VPair := Fin 8
/-- The lookahead field la (R37). -/
abbrev La := Fin 16
/-- The access size code: 2^sz bytes (R47). -/
abbrev Size := Fin 4

/-- Rounding mode rm (R46, R62). -/
inductive Rm where
  | rne | rtz | rup | rdn
deriving DecidableEq, Repr

/-- Ordering scope (R47, R222). -/
inductive Scope where
  | core | clu | pot | mod | sys
deriving DecidableEq, Repr

/-- Element width of VINT (R160). -/
inductive Width where
  | b | h | w
deriving DecidableEq, Repr

/-- Operand type of VCMP (R161). -/
inductive CmpType where
  | f | i | u
deriving DecidableEq, Repr

/-- Condition of VCMP (R161). -/
inductive Cond where
  | eq | ne | lt | le | gt | ge | unord
deriving DecidableEq, Repr

/-- A range of another module's launch that names this module's memory (R208). -/
structure RemoteRange where
  /-- Fabric number of the asking module. -/
  source : Nat
  /-- Gang number at the asking module, which the release names again. -/
  gang : Nat
  base : Word
  length : Nat
  secure : Bool
  asid : Nat
deriving DecidableEq, Repr

/-- The report of a member of a blend to the tray of rank 0 (R309, R285): its rank and SIZE, world and address space, whether its record was refused, its first pot, its member cores, and its blend-window ranges by pot, offset and length. -/
structure BlendReport where
  rank : Nat
  size : Nat
  secure : Bool := false
  asid : Nat := 0
  refused : Bool := false
  potbase : Nat := 0
  cores : List Nat := []
  wins : List (Nat × Nat × Nat) := []
deriving DecidableEq, Repr

/-- What the samovar brings to a member of a blend (R309, R298, R330): the news of rank 0's tray or of a peer; and to the tray of rank 0 a member's report. -/
inductive BlendNews where
  /-- A member of the blend of this BLENDID reports. -/
  | report (blendid : Nat) (r : BlendReport)
  /-- Every rank has reported and R285 holds. -/
  | start
  /-- The blend is refused with this CODE (0x30-0x33, R303). -/
  | refuse (code : Nat)
  /-- The peer of this rank has finished or detached (R319). -/
  | peerDone (rank : Nat)
  /-- The peer of this rank was discarded or ended (R298, R330). -/
  | peerGone (rank : Nat)
  /-- A BARB episode: every thread of this rank has arrived (R328). -/
  | peerArrived (rank : Nat)
deriving DecidableEq, Repr

/-- A request of a host port (R416). -/
inductive HostReq where
  | read (addr : Word) (asid : Nat) (n : Nat) (acq : Bool)
  | write (addr : Word) (asid : Nat) (data : List Byte) (rel : Bool)
  /-- An aligned atomic of the host port: the operation code of R236, its width in bytes, operand and compare value, and its marks (R416). -/
  | atomic (addr : Word) (asid : Nat) (op n b c : Nat) (acq rel : Bool)
deriving DecidableEq, Repr

/-- What the boot steps find (R419, R420): every byte of the boot flash, which holds the firmware image from its first byte on, and how the PUF's error correction and the links' training went. -/
structure BootImage where
  flash : List Byte
  /-- The PUF response passed its error correction (R420 step 4). -/
  pufOk : Bool
  /-- The UCIe links trained (R420 step 6). -/
  ucieOk : Bool
  /-- Links, by number, that failed to train and are left out of the routes (R420 step 6). -/
  linksDown : List Nat
deriving DecidableEq, Repr

/-- Where an error strikes (R152, R425). -/
inductive SoftErr where
  /-- A corrected error in a core's register file or in data delivered to it (R400, ECCCORR). -/
  | correctedCore (core : Nat)
  /-- A corrected error in SRAM, F/E bits or a context store that no core receives. -/
  | correctedSram
  /-- A corrected error in HBM or the second tier that no core receives. -/
  | correctedHbm
  /-- Uncorrectable data in the granule of this memory location. -/
  | granule (loc : Nat)
  /-- Uncorrectable context, tile, latch or engine state of the gang on this core. -/
  | gangState (core : Nat)
  /-- An uncorrectable error in a v register, or where `k` a k register, of the thread bound in this slot (R155). -/
  | register (core slot : Nat) (k : Bool) (r : Nat)
deriving DecidableEq, Repr


/-- One constructor per row of spec/opcode_table.json: the 252 encoded instructions, which act for the acting thread, and the 88 whole steps of the part that have no encoding (spec/95_what_each_step_holds.md). -/
inductive Instr where
  /-- ADD (R97). -/
  | add (rd : GReg) (ra : GReg) (rb : GReg)
  /-- SUB (R97). -/
  | sub (rd : GReg) (ra : GReg) (rb : GReg)
  /-- ADDW (R97). -/
  | addw (rd : GReg) (ra : GReg) (rb : GReg)
  /-- SUBW (R97). -/
  | subw (rd : GReg) (ra : GReg) (rb : GReg)
  /-- AND (R97). -/
  | and (rd : GReg) (ra : GReg) (rb : GReg)
  /-- OR (R97). -/
  | or (rd : GReg) (ra : GReg) (rb : GReg)
  /-- XOR (R97). -/
  | xor (rd : GReg) (ra : GReg) (rb : GReg)
  /-- ANDN (R97). -/
  | andn (rd : GReg) (ra : GReg) (rb : GReg)
  /-- ORN (R97). -/
  | orn (rd : GReg) (ra : GReg) (rb : GReg)
  /-- XNOR (R97). -/
  | xnor (rd : GReg) (ra : GReg) (rb : GReg)
  /-- SHL (R98). -/
  | shl (rd : GReg) (ra : GReg) (rb : GReg)
  /-- SHR (R98). -/
  | shr (rd : GReg) (ra : GReg) (rb : GReg)
  /-- SRA (R98). -/
  | sra (rd : GReg) (ra : GReg) (rb : GReg)
  /-- ROL (R98). -/
  | rol (rd : GReg) (ra : GReg) (rb : GReg)
  /-- ROR (R98). -/
  | ror (rd : GReg) (ra : GReg) (rb : GReg)
  /-- SLT (R99). -/
  | slt (rd : GReg) (ra : GReg) (rb : GReg)
  /-- SLTU (R99). -/
  | sltu (rd : GReg) (ra : GReg) (rb : GReg)
  /-- SEQ (R99). -/
  | seq (rd : GReg) (ra : GReg) (rb : GReg)
  /-- SNE (R99). -/
  | sne (rd : GReg) (ra : GReg) (rb : GReg)
  /-- MIN (R99). -/
  | min (rd : GReg) (ra : GReg) (rb : GReg)
  /-- MAX (R99). -/
  | max (rd : GReg) (ra : GReg) (rb : GReg)
  /-- MINU (R99). -/
  | minu (rd : GReg) (ra : GReg) (rb : GReg)
  /-- MAXU (R99). -/
  | maxu (rd : GReg) (ra : GReg) (rb : GReg)
  /-- SELNZ (R100). -/
  | selnz (rd : GReg) (ra : GReg) (rb : GReg)
  /-- SELZ (R100). -/
  | selz (rd : GReg) (ra : GReg) (rb : GReg)
  /-- SHADD1 (R97). -/
  | shadd1 (rd : GReg) (ra : GReg) (rb : GReg)
  /-- SHADD2 (R97). -/
  | shadd2 (rd : GReg) (ra : GReg) (rb : GReg)
  /-- SHADD3 (R97). -/
  | shadd3 (rd : GReg) (ra : GReg) (rb : GReg)
  /-- SHADD4 (R97). -/
  | shadd4 (rd : GReg) (ra : GReg) (rb : GReg)
  /-- MUL (R101). -/
  | mul (rd : GReg) (ra : GReg) (rb : GReg)
  /-- MULH (R101). -/
  | mulh (rd : GReg) (ra : GReg) (rb : GReg)
  /-- MULHU (R101). -/
  | mulhu (rd : GReg) (ra : GReg) (rb : GReg)
  /-- MULW (R101). -/
  | mulw (rd : GReg) (ra : GReg) (rb : GReg)
  /-- DIV (R102). -/
  | div (rd : GReg) (ra : GReg) (rb : GReg) (la : La)
  /-- DIVU (R102). -/
  | divu (rd : GReg) (ra : GReg) (rb : GReg) (la : La)
  /-- REM (R102). -/
  | rem (rd : GReg) (ra : GReg) (rb : GReg) (la : La)
  /-- REMU (R102). -/
  | remu (rd : GReg) (ra : GReg) (rb : GReg) (la : La)
  /-- CLZ (R103). -/
  | clz (rd : GReg) (ra : GReg)
  /-- CTZ (R103). -/
  | ctz (rd : GReg) (ra : GReg)
  /-- POPC (R103). -/
  | popc (rd : GReg) (ra : GReg)
  /-- BREV (R103). -/
  | brev (rd : GReg) (ra : GReg)
  /-- BSWAP (R103). -/
  | bswap (rd : GReg) (ra : GReg)
  /-- SEXTB (R103). -/
  | sextb (rd : GReg) (ra : GReg)
  /-- SEXTH (R103). -/
  | sexth (rd : GReg) (ra : GReg)
  /-- SEXTW (R103). -/
  | sextw (rd : GReg) (ra : GReg)
  /-- ZEXTW (R103). -/
  | zextw (rd : GReg) (ra : GReg)
  /-- ADDI (R105). -/
  | addi (rd : GReg) (ra : GReg) (imm : BitVec 16)
  /-- ANDI (R105). -/
  | andi (rd : GReg) (ra : GReg) (imm : BitVec 16)
  /-- ORI (R105). -/
  | ori (rd : GReg) (ra : GReg) (imm : BitVec 16)
  /-- XORI (R105). -/
  | xori (rd : GReg) (ra : GReg) (imm : BitVec 16)
  /-- SLTI (R105). -/
  | slti (rd : GReg) (ra : GReg) (imm : BitVec 16)
  /-- SLTIU (R105). -/
  | sltiu (rd : GReg) (ra : GReg) (imm : BitVec 16)
  /-- MULI (R105). -/
  | muli (rd : GReg) (ra : GReg) (imm : BitVec 16)
  /-- SHLI (R106). -/
  | shli (rd : GReg) (ra : GReg) (c : Fin 64)
  /-- SHRI (R106). -/
  | shri (rd : GReg) (ra : GReg) (c : Fin 64)
  /-- SRAI (R106). -/
  | srai (rd : GReg) (ra : GReg) (c : Fin 64)
  /-- RORI (R106). -/
  | rori (rd : GReg) (ra : GReg) (c : Fin 64)
  /-- INSH (R107). -/
  | insh (rd : GReg) (q : Fin 4) (imm : BitVec 16)
  /-- BEQ (R109). -/
  | beq (ra : GReg) (rb : GReg) (off : BitVec 13)
  /-- BNE (R109). -/
  | bne (ra : GReg) (rb : GReg) (off : BitVec 13)
  /-- BLT (R109). -/
  | blt (ra : GReg) (rb : GReg) (off : BitVec 13)
  /-- BGE (R109). -/
  | bge (ra : GReg) (rb : GReg) (off : BitVec 13)
  /-- BLTU (R109). -/
  | bltu (ra : GReg) (rb : GReg) (off : BitVec 13)
  /-- BGEU (R109). -/
  | bgeu (ra : GReg) (rb : GReg) (off : BitVec 13)
  /-- JAL (R111). -/
  | jal (rd : GReg) (off : BitVec 21)
  /-- JALR (R112). -/
  | jalr (rd : GReg) (ra : GReg)
  /-- FADD (R116). -/
  | fadd (rd : GReg) (ra : GReg) (rb : GReg) (rm : Rm)
  /-- FSUB (R116). -/
  | fsub (rd : GReg) (ra : GReg) (rb : GReg) (rm : Rm)
  /-- FMUL (R116). -/
  | fmul (rd : GReg) (ra : GReg) (rb : GReg) (rm : Rm)
  /-- FMAC (R116). -/
  | fmac (rd : GReg) (ra : GReg) (rb : GReg) (rm : Rm)
  /-- FDIV (R116). -/
  | fdiv (rd : GReg) (ra : GReg) (rb : GReg) (la : La) (rm : Rm)
  /-- FSQRT (R116). -/
  | fsqrt (rd : GReg) (ra : GReg) (la : La) (rm : Rm)
  /-- FMIN (R117). -/
  | fmin (rd : GReg) (ra : GReg) (rb : GReg)
  /-- FMAX (R117). -/
  | fmax (rd : GReg) (ra : GReg) (rb : GReg)
  /-- FABS (R117). -/
  | fabs (rd : GReg) (ra : GReg)
  /-- FNEG (R117). -/
  | fneg (rd : GReg) (ra : GReg)
  /-- FEQ (R118). -/
  | feq (rd : GReg) (ra : GReg) (rb : GReg)
  /-- FLT (R118). -/
  | flt (rd : GReg) (ra : GReg) (rb : GReg)
  /-- FLE (R118). -/
  | fle (rd : GReg) (ra : GReg) (rb : GReg)
  /-- FCLASS (R119). -/
  | fclass (rd : GReg) (ra : GReg)
  /-- FCVT_S_L (R120). -/
  | fcvtSL (rd : GReg) (ra : GReg) (rm : Rm)
  /-- FCVT_S_LU (R120). -/
  | fcvtSLU (rd : GReg) (ra : GReg) (rm : Rm)
  /-- FCVT_L_S (R120). -/
  | fcvtLS (rd : GReg) (ra : GReg) (rm : Rm)
  /-- FCVT_LU_S (R120). -/
  | fcvtLUS (rd : GReg) (ra : GReg) (rm : Rm)
  /-- FCVT_S_H (R120). -/
  | fcvtSH (rd : GReg) (ra : GReg)
  /-- FCVT_H_S (R120). -/
  | fcvtHS (rd : GReg) (ra : GReg) (rm : Rm)
  /-- FCVT_S_BF (R120). -/
  | fcvtSBF (rd : GReg) (ra : GReg)
  /-- FCVT_BF_S (R120). -/
  | fcvtBFS (rd : GReg) (ra : GReg) (rm : Rm)
  /-- LD (R127). -/
  | ld (rd : GReg) (ra : GReg) (la : La) (sz : Size) (s : Bool) (disp : BitVec 7)
  /-- LD_ACQ (R232). -/
  | ldAcq (rd : GReg) (ra : GReg) (la : La) (sz : Size) (c : Scope) (disp : BitVec 7)
  /-- ST (R128). -/
  | st (rd : GReg) (ra : GReg) (sz : Size) (disp : BitVec 7)
  /-- STF (R240). -/
  | stf (rd : GReg) (ra : GReg) (sz : Size) (disp : BitVec 7)
  /-- ST_REL (R233). -/
  | stRel (rd : GReg) (ra : GReg) (sz : Size) (c : Scope) (disp : BitVec 7)
  /-- LDS (R241). -/
  | lds (rd : GReg) (ra : GReg) (la : La) (sz : Size) (c : Bool) (disp : BitVec 7)
  /-- LDF (R133). -/
  | ldf (rd : GReg) (ra : GReg) (sz : Size) (disp : BitVec 7)
  /-- VLD (R129). -/
  | vld (rd : VReg) (ra : GReg) (la : La) (k : KReg) (disp : BitVec 7)
  /-- VST (R129). -/
  | vst (rd : VReg) (ra : GReg) (k : KReg) (disp : BitVec 7)
  /-- VLDS (R131). -/
  | vlds (rd : VReg) (ra : GReg) (rb : GReg) (la : La) (k : KReg)
  /-- VSTS (R131). -/
  | vsts (rd : VReg) (ra : GReg) (rb : GReg) (k : KReg)
  /-- VLDI (R131). -/
  | vldi (rd : VReg) (ra : GReg) (rb : VReg) (la : La) (k : KReg)
  /-- VSTI (R132). -/
  | vsti (rd : VReg) (ra : GReg) (rb : VReg) (k : KReg)
  /-- ASWAP_W (R236). -/
  | aswapW (rd : GReg) (ra : GReg) (rb : GReg) (la : La) (c : Scope)
  /-- ASWAP_D (R236). -/
  | aswapD (rd : GReg) (ra : GReg) (rb : GReg) (la : La) (c : Scope)
  /-- ASWAP_Q (R237). -/
  | aswapQ (rd : GPair) (ra : GReg) (rb : GPair) (la : La) (c : Scope)
  /-- AADD_W (R236). -/
  | aaddW (rd : GReg) (ra : GReg) (rb : GReg) (la : La) (c : Scope)
  /-- AADD_D (R236). -/
  | aaddD (rd : GReg) (ra : GReg) (rb : GReg) (la : La) (c : Scope)
  /-- AAND_W (R236). -/
  | aandW (rd : GReg) (ra : GReg) (rb : GReg) (la : La) (c : Scope)
  /-- AAND_D (R236). -/
  | aandD (rd : GReg) (ra : GReg) (rb : GReg) (la : La) (c : Scope)
  /-- AOR_W (R236). -/
  | aorW (rd : GReg) (ra : GReg) (rb : GReg) (la : La) (c : Scope)
  /-- AOR_D (R236). -/
  | aorD (rd : GReg) (ra : GReg) (rb : GReg) (la : La) (c : Scope)
  /-- AXOR_W (R236). -/
  | axorW (rd : GReg) (ra : GReg) (rb : GReg) (la : La) (c : Scope)
  /-- AXOR_D (R236). -/
  | axorD (rd : GReg) (ra : GReg) (rb : GReg) (la : La) (c : Scope)
  /-- AMIN_W (R236). -/
  | aminW (rd : GReg) (ra : GReg) (rb : GReg) (la : La) (c : Scope)
  /-- AMIN_D (R236). -/
  | aminD (rd : GReg) (ra : GReg) (rb : GReg) (la : La) (c : Scope)
  /-- AMAX_W (R236). -/
  | amaxW (rd : GReg) (ra : GReg) (rb : GReg) (la : La) (c : Scope)
  /-- AMAX_D (R236). -/
  | amaxD (rd : GReg) (ra : GReg) (rb : GReg) (la : La) (c : Scope)
  /-- AMINU_W (R236). -/
  | aminuW (rd : GReg) (ra : GReg) (rb : GReg) (la : La) (c : Scope)
  /-- AMINU_D (R236). -/
  | aminuD (rd : GReg) (ra : GReg) (rb : GReg) (la : La) (c : Scope)
  /-- AMAXU_W (R236). -/
  | amaxuW (rd : GReg) (ra : GReg) (rb : GReg) (la : La) (c : Scope)
  /-- AMAXU_D (R236). -/
  | amaxuD (rd : GReg) (ra : GReg) (rb : GReg) (la : La) (c : Scope)
  /-- AFADD (R236). -/
  | afadd (rd : GReg) (ra : GReg) (rb : GReg) (la : La) (c : Scope)
  /-- ACAS_W (R236). -/
  | acasW (rd : GReg) (ra : GReg) (rb : GReg) (la : La) (c : Scope)
  /-- ACAS_D (R236). -/
  | acasD (rd : GReg) (ra : GReg) (rb : GReg) (la : La) (c : Scope)
  /-- ACAS_Q (R237). -/
  | acasQ (rd : GPair) (ra : GReg) (rb : GPair) (la : La) (c : Scope)
  /-- FENCE (R244). -/
  | fence (c : Scope)
  /-- FECLR (R243). -/
  | feclr (rd : GReg) (ra : GReg)
  /-- FSET (R246). -/
  | fset (ra : GReg) (n : Fin 1024)
  /-- FCLR (R246). -/
  | fclr (ra : GReg) (n : Fin 1024)
  /-- FTST (R246). -/
  | ftst (rd : GReg) (ra : GReg) (n : Fin 1024)
  /-- FWAIT (R247). -/
  | fwait (ra : GReg) (c : Bool) (n : Fin 1024)
  /-- VFADD (R158). -/
  | vfadd (rd : VReg) (ra : VReg) (rb : VReg) (k : KReg) (la : La) (rm : Rm)
  /-- VFSUB (R158). -/
  | vfsub (rd : VReg) (ra : VReg) (rb : VReg) (k : KReg) (la : La) (rm : Rm)
  /-- VFMUL (R158). -/
  | vfmul (rd : VReg) (ra : VReg) (rb : VReg) (k : KReg) (la : La) (rm : Rm)
  /-- VFMA (R158). -/
  | vfma (rd : VReg) (ra : VReg) (rb : VReg) (k : KReg) (la : La) (rm : Rm)
  /-- VFMIN (R158). -/
  | vfmin (rd : VReg) (ra : VReg) (rb : VReg) (k : KReg) (la : La)
  /-- VFMAX (R158). -/
  | vfmax (rd : VReg) (ra : VReg) (rb : VReg) (k : KReg) (la : La)
  /-- VFABS (R158). -/
  | vfabs (rd : VReg) (ra : VReg) (k : KReg) (la : La)
  /-- VFNEG (R158). -/
  | vfneg (rd : VReg) (ra : VReg) (k : KReg) (la : La)
  /-- VFDIV (R158). -/
  | vfdiv (rd : VReg) (ra : VReg) (rb : VReg) (k : KReg) (la : La) (rm : Rm)
  /-- VFSQRT (R158). -/
  | vfsqrt (rd : VReg) (ra : VReg) (k : KReg) (la : La) (rm : Rm)
  /-- VRCP (R159). -/
  | vrcp (rd : VReg) (ra : VReg) (k : KReg) (la : La)
  /-- VRSQ (R159). -/
  | vrsq (rd : VReg) (ra : VReg) (k : KReg) (la : La)
  /-- VEXP2 (R76). -/
  | vexp2 (rd : VReg) (ra : VReg) (k : KReg) (la : La)
  /-- VADD (R160). -/
  | vadd (rd : VReg) (ra : VReg) (rb : VReg) (k : KReg) (la : La) (wd : Width)
  /-- VSUB (R160). -/
  | vsub (rd : VReg) (ra : VReg) (rb : VReg) (k : KReg) (la : La) (wd : Width)
  /-- VMUL (R160). -/
  | vmul (rd : VReg) (ra : VReg) (rb : VReg) (k : KReg) (la : La) (wd : Width)
  /-- VMIN (R160). -/
  | vmin (rd : VReg) (ra : VReg) (rb : VReg) (k : KReg) (la : La) (wd : Width)
  /-- VMAX (R160). -/
  | vmax (rd : VReg) (ra : VReg) (rb : VReg) (k : KReg) (la : La) (wd : Width)
  /-- VMINU (R160). -/
  | vminu (rd : VReg) (ra : VReg) (rb : VReg) (k : KReg) (la : La) (wd : Width)
  /-- VMAXU (R160). -/
  | vmaxu (rd : VReg) (ra : VReg) (rb : VReg) (k : KReg) (la : La) (wd : Width)
  /-- VAND (R160). -/
  | vand (rd : VReg) (ra : VReg) (rb : VReg) (k : KReg) (la : La) (wd : Width)
  /-- VOR (R160). -/
  | vor (rd : VReg) (ra : VReg) (rb : VReg) (k : KReg) (la : La) (wd : Width)
  /-- VXOR (R160). -/
  | vxor (rd : VReg) (ra : VReg) (rb : VReg) (k : KReg) (la : La) (wd : Width)
  /-- VSHL (R160). -/
  | vshl (rd : VReg) (ra : VReg) (rb : VReg) (k : KReg) (la : La) (wd : Width)
  /-- VSHR (R160). -/
  | vshr (rd : VReg) (ra : VReg) (rb : VReg) (k : KReg) (la : La) (wd : Width)
  /-- VSRA (R160). -/
  | vsra (rd : VReg) (ra : VReg) (rb : VReg) (k : KReg) (la : La) (wd : Width)
  /-- VADDS (R160). -/
  | vadds (rd : VReg) (ra : VReg) (rb : VReg) (k : KReg) (la : La) (wd : Width)
  /-- VSUBS (R160). -/
  | vsubs (rd : VReg) (ra : VReg) (rb : VReg) (k : KReg) (la : La) (wd : Width)
  /-- VADDUS (R160). -/
  | vaddus (rd : VReg) (ra : VReg) (rb : VReg) (k : KReg) (la : La) (wd : Width)
  /-- VSUBUS (R160). -/
  | vsubus (rd : VReg) (ra : VReg) (rb : VReg) (k : KReg) (la : La) (wd : Width)
  /-- VABS (R160). -/
  | vabs (rd : VReg) (ra : VReg) (k : KReg) (la : La) (wd : Width)
  /-- VCMP (R161). -/
  | vcmp (rd : KReg) (ra : VReg) (rb : VReg) (k : KReg) (la : La) (t : CmpType) (c : Cond)
  /-- VCVT (R164). -/
  | vcvt (rd : VReg) (ra : VReg) (p : Fin 4) (k : KReg) (la : La) (rm : Rm) (c : Fin 32)
  /-- VPERM (R165). -/
  | vperm (rd : VReg) (ra : VReg) (rb : VReg) (k : KReg) (la : La)
  /-- VSEL (R165). -/
  | vsel (rd : VReg) (ra : VReg) (rb : VReg) (k : KReg) (la : La)
  /-- VZIP (R165). -/
  | vzip (rd : VReg) (ra : VReg) (rb : VReg) (k : KReg) (la : La)
  /-- VUNZIP (R165). -/
  | vunzip (rd : VReg) (ra : VReg) (rb : VReg) (k : KReg) (la : La)
  /-- VCOMPRESS (R165). -/
  | vcompress (rd : VReg) (ra : VReg) (k : KReg) (la : La)
  /-- VEXPAND (R165). -/
  | vexpand (rd : VReg) (ra : VReg) (k : KReg) (la : La)
  /-- VREDADD (R166). -/
  | vredadd (rd : VReg) (ra : VReg) (k : KReg) (la : La)
  /-- VREDMAX (R166). -/
  | vredmax (rd : VReg) (ra : VReg) (k : KReg) (la : La)
  /-- VREDMIN (R166). -/
  | vredmin (rd : VReg) (ra : VReg) (k : KReg) (la : La)
  /-- VREDADDI (R166). -/
  | vredaddi (rd : VReg) (ra : VReg) (k : KReg) (la : La)
  /-- VREDMAXI (R166). -/
  | vredmaxi (rd : VReg) (ra : VReg) (k : KReg) (la : La)
  /-- VREDMINI (R166). -/
  | vredmini (rd : VReg) (ra : VReg) (k : KReg) (la : La)
  /-- VREDAND (R166). -/
  | vredand (rd : VReg) (ra : VReg) (k : KReg) (la : La)
  /-- VREDOR (R166). -/
  | vredor (rd : VReg) (ra : VReg) (k : KReg) (la : La)
  /-- VREDXOR (R166). -/
  | vredxor (rd : VReg) (ra : VReg) (k : KReg) (la : La)
  /-- VSORT (R168). -/
  | vsort (rd : VPair) (ra : VReg) (k : KReg) (la : La) (x : Bool)
  /-- VSELK (R169). -/
  | vselk (rd : VPair) (ra : VReg) (rb : VReg) (k : KReg) (la : La) (x : Bool)
  /-- VMERGEK (R169). -/
  | vmergek (rd : VPair) (ra : VPair) (rb : VReg) (k : KReg) (la : La) (x : Bool)
  /-- VBCAST (R163). -/
  | vbcast (rd : VReg) (ra : GReg) (la : La)
  /-- VINS (R163). -/
  | vins (rd : VReg) (ra : GReg) (rb : GReg) (la : La)
  /-- VEXT (R163). -/
  | vext (rd : GReg) (ra : VReg) (rb : GReg) (la : La)
  /-- KMOVGK (R163). -/
  | kmovgk (rd : KReg) (ra : GReg) (la : La)
  /-- KMOVKG (R163). -/
  | kmovkg (rd : GReg) (ra : KReg) (la : La)
  /-- KPOPC (R163). -/
  | kpopc (rd : GReg) (ra : KReg) (la : La)
  /-- KAND (R162). -/
  | kand (rd : KReg) (ra : KReg) (rb : KReg) (la : La)
  /-- KOR (R162). -/
  | kor (rd : KReg) (ra : KReg) (rb : KReg) (la : La)
  /-- KXOR (R162). -/
  | kxor (rd : KReg) (ra : KReg) (rb : KReg) (la : La)
  /-- KANDN (R162). -/
  | kandn (rd : KReg) (ra : KReg) (rb : KReg) (la : La)
  /-- KNOT (R162). -/
  | knot (rd : KReg) (ra : KReg) (la : La)
  /-- MCLAIM (R182). -/
  | mclaim (zt : Fin 8)
  /-- MFREE (R182). -/
  | mfree (zt : Fin 8)
  /-- MLDA (R183). -/
  | mlda (fmt : Fin 16) (ra : GReg) (rh : GReg)
  /-- MLDB (R183). -/
  | mldb (fmt : Fin 16) (ra : GReg) (rh : GReg)
  /-- RPASS (R184). -/
  | rpass (rh : GReg)
  /-- MMA (R185). -/
  | mma (zt : Fin 8) (fmt : Fin 16) (rh : GReg)
  /-- MMAB (R186). -/
  | mmab (y : Fin 2) (fmt : Fin 16) (rh : GReg)
  /-- MMAI (R186). -/
  | mmai (y : Fin 2) (fmt : Fin 16) (ra : GReg) (rh : GReg)
  /-- MSCA (R187). -/
  | msca (zt : Fin 8) (k : Fin 8) (u : Fin 2) (ra : GReg) (rh : GReg)
  /-- MZERO (R188). -/
  | mzero (zt : Fin 8) (rh : GReg)
  /-- MDRAIN (R189). -/
  | mdrain (zt : Fin 8) (fmt : Fin 16) (ra : GReg) (rh : GReg)
  /-- MTWIN (R190). -/
  | mtwin (on : Bool)
  /-- XPUSH (R256). -/
  | xpush (rd : GReg) (ra : GReg) (n : Fin 4)
  /-- XPUSHR (R257). -/
  | xpushr (rd : GReg) (ra : GReg) (n : Fin 4)
  /-- XWAIT (R259). -/
  | xwait (ra : GReg) (n : Fin 4)
  /-- EXPECT (R405). -/
  | expect (rd : GReg) (ra : GReg)
  /-- TRAY_GATHER (R264). -/
  | trayGather (rd : GReg) (ra : GReg) (off : Bool) (p : Fin 32)
  /-- TRAY_SCATTER (R264). -/
  | trayScatter (rd : GReg) (ra : GReg) (off : Bool) (p : Fin 32)
  /-- TRAY_REDUCE (R265). -/
  | trayReduce (rd : GReg) (ra : GReg) (off : Bool) (p : Fin 32)
  /-- TRAY_SUB (R266). -/
  | traySub (rd : GReg) (ra : GReg) (off : Bool) (p : Fin 32)
  /-- TRAY_UNSUB (R267). -/
  | trayUnsub (rd : GReg) (ra : GReg) (off : Bool) (p : Fin 32)
  /-- MBW (R84). -/
  | mbw (ra : GReg) (n : Fin 4)
  /-- MBR (R84). -/
  | mbr (rd : GReg) (n : Fin 4)
  /-- DLD (R271). -/
  | dld (ra : GReg) (sz : Size)
  /-- DPOP (R271). -/
  | dpop (rd : GReg)
  /-- PPUSH (R271). -/
  | ppush (ra : GReg)
  /-- PST (R271). -/
  | pst (ra : GReg) (sz : Size)
  /-- QCNT (R272). -/
  | qcnt (rd : GReg) (q : Bool)
  /-- ALLRED (R295). -/
  | allred (rd : GReg) (ra : GReg) (off : Fin 4)
  /-- ALLGATH (R296). -/
  | allgath (rd : GReg) (ra : GReg)
  /-- WADDR (R287). -/
  | waddr (rd : GReg) (ra : GReg) (k : GReg)
  /-- WRES (R288). -/
  | wres (rd : GReg) (ra : GReg) (s : Bool)
  /-- STVEC (R380). -/
  | stvec (rd : GReg) (ra : GReg) (c : Fin 64)
  /-- LDNEAR (R381). -/
  | ldnear (rd : GReg) (ra : GReg) (v : VPair) (c : Fin 64)
  /-- IXDEL (R382). -/
  | ixdel (rd : GReg) (ra : GReg) (c : Fin 64)
  /-- IXSNAP (R383). -/
  | ixsnap (rd : GReg) (ra : GReg) (v : VReg) (c : Fin 64)
  /-- SEND (R346). -/
  | send (rd : GReg) (ra : GReg) (k : Bool)
  /-- RECV (R347). -/
  | recv (rd : GReg) (ra : GReg) (off : Bool)
  /-- RQN (R348). -/
  | rqn (rd : GReg) (s : Fin 4)
  /-- TSTART (R332). -/
  | tstart (rd : GReg) (ra : GReg) (p : Fin 128) (rg : GReg)
  /-- PRIO (R335). -/
  | prio (rd : GReg) (ra : GReg)
  /-- MIGR (R361). -/
  | migr (rd : GReg) (ra : GReg)
  /-- HTEST (R396). -/
  | htest (rd : GReg) (ra : GReg)
  /-- HPASS (R396). -/
  | hpass (rd : GReg) (ra : GReg)
  /-- HCANCEL (R396). -/
  | hcancel (ra : GReg)
  /-- CRD (R407). -/
  | crd (rd : GReg) (n : Fin 4096)
  /-- TMARK (R413). -/
  | tmark (ra : GReg) (k : Fin 4)
  /-- SRD (R147). -/
  | srd (rd : GReg) (n : Fin 4096)
  /-- SWR (R147). -/
  | swr (ra : GReg) (n : Fin 4096)
  /-- ICINV (R149). -/
  | icinv (ra : GReg)
  /-- ICINV_G (R149). -/
  | icinvG (rd : GReg) (ra : GReg)
  /-- BRK (R53). -/
  | brk (c : BitVec 26)
  /-- NOP (R113). -/
  | nop
  /-- XFENCE (R245). -/
  | xfence
  /-- TEXIT (R333). -/
  | texit
  /-- YIELD (R334). -/
  | yield
  /-- BARC (R336). -/
  | barc
  /-- BARG (R336). -/
  | barg
  /-- BARB (R336). -/
  | barb
  /-- ERET (R148). -/
  | eret
  /-- ILLEGAL_WORD (R52): An issued word that is no instruction raises ILLEGAL. Selected by: x (Lane). -/
  | illegalWord
  /-- TRAP_ENTRY (R143): After pending bits clear, records the cause and enters the handler at s.tvec in supervisor mode. Selected by: core (Nat), ctx (Nat). -/
  | trapEntry
  /-- RESULT_WRITE (R37): A long-latency result arrives, is written and clears its pending bits, ORing its flags. Selected by: core (Nat), n (Nat), ecc (Bool). -/
  | resultWrite
  /-- MAILBOX_MOVE (R84): At position 15 one word moves each direction from a full sending half to an empty receiving half. Selected by: core (Nat). -/
  | mailboxMove
  /-- ROTATION_END (R403): At the end of each rotation READYk counts the positions issued. Selected by: core (Nat). -/
  | rotationEnd
  /-- VECTOR_UNIT_ACCEPT (R153): A slot's head vector command enters its free unit by round-robin. Selected by: core (Nat), unit (Nat). -/
  | vectorUnitAccept
  /-- MATRIX_STREAM_ACCEPT (R173): The engine takes one slot-queue head into its command stream. Selected by: core (Nat). -/
  | matrixStreamAccept
  /-- MATRIX_COMMAND_FINISH (R175): A matrix command finishes its latch, tile or memory work in stream order. Selected by: core (Nat). -/
  | matrixCommandFinish
  /-- RING_MOVE (R179): A ready RPASS chain moves bl0 tiles into the next cores' bl1. Selected by: core (Nat). -/
  | ringMove
  /-- HANDLE_RESOLUTION (R395): Four cycles after completion a handle-table entry resolves, clearing or keeping handle-pending bits. Selected by: cmd (Nat). -/
  | handleResolution
  /-- DEPART (R215): An entry leaves its egress for a channel when its ordering conditions hold. Selected by: e (Nat). -/
  | depart
  /-- ARRIVE (R216): An entry moves from its channel into the target ingress or receive queue. Selected by: e (Nat). -/
  | arrive
  /-- RNR_RETRY (R282): After the back-off delay expires the source resends a refused entry. Selected by: e (Nat). -/
  | rnrRetry
  /-- PERFORM (R217): An ingress entry performs a byte, or an aligned atomic all its bytes, at the bank group. Selected by: e (Nat), i (Nat). -/
  | perform
  /-- LDS_PERFORM (R219): A waiting LDS performs all its bytes once its granules are full. Selected by: e (Nat). -/
  | ldsPerform
  /-- ECHO (R221): A probe answers once its thread's earlier entries at the bank group have left. Selected by: e (Nat). -/
  | echo
  /-- REPLY (R220): A reply or echo reaches its thread; a load completes when all pieces replied. Selected by: e (Nat). -/
  | reply
  /-- ENGINE (R227): An engine places read and write pieces of a command in its egress. Selected by: cmd (Nat). -/
  | engine
  /-- BLOCK_READ_RETURN (R250): The parameter block read returns and the command's remaining checks run. Selected by: cmd (Nat). -/
  | blockReadReturn
  /-- COPY_CHANNEL_TAKE (R254): A free channel takes the push at the head of a slot's copy queue. Selected by: core (Nat), ch (Nat). -/
  | copyChannelTake
  /-- ENGINE_COMMAND_COMPLETE (R252): After every write performs, landings, flags and s.xdone take effect. Selected by: cmd (Nat). -/
  | engineCommandComplete
  /-- TRAY_DEPART (R260): A tray, collective or caddy command leaves its slot queue toward its tray. Selected by: core (Nat). -/
  | trayDepart
  /-- TRAY_COMMAND_START (R260): A gather-scatter or reduction engine starts its next command in arrival order. Selected by: pot (Nat), red (Bool). -/
  | trayCommandStart
  /-- SUBSCRIPTION_TILE_LOAD (R266): Once a slot's last granule is empty the engine loads the next tile into it. Selected by: cmd (Nat). -/
  | subscriptionTileLoad
  /-- SUBSCRIPTION_TILE_STORE (R266): Once a slot's last granule is full the engine stores it to its tile and clears the slot. Selected by: cmd (Nat). -/
  | subscriptionTileStore
  /-- SUBSCRIPTION_END (R267): A subscription ends, writes STATUS, sets FLAG and resolves its handle. Selected by: cmd (Nat). -/
  | subscriptionEnd
  /-- DLD_REPLY (R271): A DLD's reply fills its draw-queue entry. Selected by: e (Nat). -/
  | dldReply
  /-- COLL_JOIN (R294): A collective command joins its tray's join list and is accepted when all participants joined. Selected by: cmd (Nat), peers (Input). -/
  | collJoin
  /-- COLL_COMPLETE (R297): A participant's destination writes perform, STATUS is written and FLAG is set. Selected by: cmd (Nat). -/
  | collComplete
  /-- CADDY_HOME_ARRIVAL (R372): The home tray reads the command's vector and forwards it to its shards. Selected by: cmd (Nat). -/
  | caddyHomeArrival
  /-- CADDY_SHARD_COMMAND (R373): A shard runs its next command to the end, committing inserts or deletions. Selected by: pot (Nat), ecc (Bool). -/
  | caddyShardCommand
  /-- CADDY_MERGE (R375): The home tray merges shard answers and completes the command. Selected by: cmd (Nat). -/
  | caddyMerge
  /-- CADDY_CLEAR_APPLY (R363): A shard applies the clearing of V between two commands. Selected by: part (Nat), c (Nat), shard (Nat). -/
  | caddyClearApply
  /-- FLIT_CRC_FAIL (R278): A flit fails its CRC and the receiver requests replay from it. Selected by: link (Nat). -/
  | flitCrcFail
  /-- RESIDENCY_BROADCAST (R286): A NOT-RESIDENT or RESIDENT broadcast reaches a member core and changes RES. Selected by: core (Nat), rank (Nat), res (Bool). -/
  | residencyBroadcast
  /-- LAUNCH_RECORD_TAKE (R301): The launch engine takes a record from an active queue. Selected by: part (Nat), q (Nat). -/
  | launchRecordTake
  /-- DEPENDENCY_MET (R305): A pooled record's dependency signals all read DONE, or one fails. Selected by: part (Nat), i (Nat). -/
  | dependencyMet
  /-- GANG_DISPATCH (R308): Once cores are free the launch engine installs a gang and fans out its starts. Selected by: gang (Nat). -/
  | gangDispatch
  /-- RESIDENCY_REQUEST (R208): A target launch engine makes a remote range resident or refuses it; its answer reaches the asking one. Selected by: r (RemoteRange), or gang + 1 (Nat), range number (Nat) and the answer (Bool). -/
  | residencyRequest
  /-- BLEND_REPORT (R309): A member's report reaches rank 0's tray, which starts or refuses the blend when all reported. Selected by: gang, or first pot for a report (Nat), r (BlendNews). -/
  | blendReport
  /-- START_MESSAGE_ARRIVAL (R310): A start or TSTART message creates a READY context on its core, spilling if needed. Selected by: e (Nat). -/
  | startMessageArrival
  /-- SPILL_RETURN (R312): A spilled READY context returns to the store after its move. Selected by: core (Nat), ctx (Nat). -/
  | spillReturn
  /-- BIND (R313): A free slot binds the highest-priority earliest READY context. Selected by: core (Nat). -/
  | bind
  /-- PARK (R316): A blocked bound thread parks as WAITING when a ready context waits. Selected by: core (Nat), slot (Nat). -/
  | park
  /-- AGING_STEP (R315): After 2^20 cycles unbound a READY context's priority rises by one. Selected by: core (Nat), ctx (Nat). -/
  | agingStep
  /-- MESSAGE_ARRIVAL (R341): A message is refused, discarded, orphaned or delivered at its target core. Selected by: e (Nat). -/
  | messageArrival
  /-- SACHET_ARRIVAL (R354): An owner core discards, bounces, refuses or accepts an arriving sachet. Selected by: e (Nat). -/
  | sachetArrival
  /-- MIGR_ANSWER (R353): The acceptance or bounce reaches the origin, retiring or trapping the thread. Selected by: core (Nat), ctx (Nat). -/
  | migrAnswer
  /-- BARRIER_ARRIVAL (R328): After its echoes return a thread's arrival is counted, possibly completing the episode. Selected by: core (Nat), ctx (Nat). -/
  | barrierArrival
  /-- BARRIER_COMPLETION (R329): An episode's completion reaches a waiter as an acquire. Selected by: core (Nat), ctx (Nat). -/
  | barrierCompletion
  /-- GANG_DETACH (R319): A finished gang detaches once its peers and commands allow, writing DONE. Selected by: gang (Nat). -/
  | gangDetach
  /-- HOST_INTERRUPT (R417): After the signal write performs an interrupt vector goes to the host. Selected by: part (Nat). -/
  | hostInterrupt
  /-- GANG_END (R320): A fatal fault stops every thread and frees the cores, writing FAULTED. Selected by: core (Nat), code (Nat). -/
  | gangEnd
  /-- DRAIN (R325): Stops taking records from a queue and lets dispatched gangs run out. Selected by: part (Nat). -/
  | drain
  /-- ABORT (R326): Discards a queue's gangs and records, completing them ABORTED. Selected by: part (Nat). -/
  | abort
  /-- PREEMPT (R321): Stops, saves and detaches one gang. Selected by: part (Nat). -/
  | preempt
  /-- RESUME (R323): Makes a pre-empted gang eligible for restore. Selected by: part (Nat). -/
  | resume
  /-- FORCE (R319): Releases a finished gang from the blend hold. Selected by: part (Nat). -/
  | force
  /-- REOPEN (R301): Sets a stopped queue active and clears OVERRUN. Selected by: part (Nat). -/
  | reopen
  /-- GANG_RESTORE (R323): Once its cores are free a resumed gang's state is written back and RESIDENT broadcast. Selected by: gang (Nat). -/
  | gangRestore
  /-- TLB_WALK (R387): A walk for a missed page completes and fills the owner's TLB. Selected by: owner (Nat). -/
  | tlbWalk
  /-- PTE (R389): The owner writes a page-table entry in one move. Selected by: part (Nat). -/
  | pte
  /-- INVAL (R390): Invalidates translations of a page range at an owner. Selected by: part (Nat). -/
  | inval
  /-- REVOKE (R393): Removes a lease range from a running gang. Selected by: part (Nat). -/
  | revoke
  /-- BUFREG (R397): Registers a buffer name in a tray. Selected by: part (Nat). -/
  | bufreg
  /-- BUFDEL (R397): Deletes a buffer name from a tray. Selected by: part (Nat). -/
  | bufdel
  /-- CADDY (R363): Writes a caddy descriptor through the table port. Selected by: part (Nat). -/
  | caddy
  /-- ICINV_ACK (R398): A cluster acknowledges an ICINV.G once no stale fetched word remains. Selected by: cmd (Nat), cluster (Nat). -/
  | icinvAck
  /-- TRACE_RECORD_WRITE (R411): The launch engine writes a trace record to the ring or drops it. Selected by: part (Nat). -/
  | traceRecordWrite
  /-- PC_SAMPLE (R412): Every 2^SHIFT cycles the sampler records one position. Selected by: part (Nat). -/
  | pcSample
  /-- HOST_REQUEST (R416): A UCIe request from a host port enters the ordering machine or gets an error response. Selected by: part (Nat), r (HostReq). -/
  | hostRequest
  /-- RESET (R420): Module reset verifies the image, configures and trains links. Selected by: img (BootImage). -/
  | reset
  /-- ATTREQ (R423): Setting ATTREQ makes the management core write a signed attestation report. -/
  | attreq
  /-- FREEZE (R426): The freeze input stops every clock of the module. -/
  | freeze
  /-- FREEZECMD (R426): Writing the freeze key to FREEZECMD asserts freeze. -/
  | freezecmd
  /-- THERMAL_TRIP (R429): A die reaching 105 °C asserts freeze with cause thermal. Selected by: temp (Nat), in units of 0.1 °C. -/
  | thermalTrip
  /-- POWER_SAMPLE (R429): Each 1 ms the management core measures power and lowers the clock above the cap. Selected by: watts (Nat), temp (Nat). -/
  | powerSample
  /-- CLOCK_STEP_UP (R429): After 10 ms below 90 % of the cap the clock rises one step. -/
  | clockStepUp
  /-- STOP (R427): Debugger stop of a named thread, copying its context to DBGBUF. -/
  | stop
  /-- DBGCTL_RESUME (R427): Debugger resume of a stopped thread from DBGBUF. -/
  | dbgctlResume
  /-- REGISTER_WRITE (R424): A host write to a management or control register with no row of its own. Selected by: off (Nat), value (Word). -/
  | registerWrite
  /-- POSITION (R402): A position 0-14 whose bound thread does not issue passes unused, and the core counts its class and sub-reason. Selected by: core (Nat). -/
  | position
  /-- CYCLE (R85): Each cycle s.time advances by one, and the per-cycle counts of the capture window and aging advance with it. -/
  | cycle
  /-- SOFT_ERROR (R425): An error strikes SRAM, HBM, a register file or gang state, and it is counted, logged, or ends the owning gang. Selected by: err (SoftErr). -/
  | softError
  /-- PAGE_MOVE (R390): The launch engine begins moving a leased page by setting MOVE and invalidating, so that later arrivals are refused. Selected by: owner (Nat), asid (Nat), page (Nat). -/
  | pageMove
  /-- PAGE_MOVE_END (R390): The frame copy finishes, and the page entry takes the new frame with MOVE cleared, so refused requests can arrive. Selected by: owner (Nat), asid (Nat), page (Nat), frame (Nat). -/
  | pageMoveEnd
  /-- RETRAINING_END (R279): A link's retraining finishes, either resuming the link or declaring it failed. Selected by: link (Nat), ok (Bool). -/
  | retrainingEnd
  /-- RESIDENCY_RELEASE (R208): A target launch engine receives the release of a remote range and stops holding its pages and world. Selected by: r (RemoteRange). -/
  | residencyRelease
deriving DecidableEq, Repr

end Sys2Proof
end

