-- ==== Sys2Proof/WellFormed.lean ====
section
/-! DEFINITION. The checks on an instruction's operands that its encoding fields alone do not make (R45-R50 and the entries): a word whose instruction fails one raises ILLEGAL (R52). -/

namespace Sys2Proof

/-- The system register numbers of R141. -/
def sysRegs : List Nat :=
  [0x000, 0x001, 0x002, 0x003, 0x004, 0x005, 0x006, 0x007, 0x008,
   0x010, 0x011, 0x012, 0x013, 0x014, 0x015, 0x018, 0x019, 0x01A, 0x01B, 0x020, 0x021, 0x022, 0x023]

/-- The system registers that SWR may write (the Write column of R141). -/
def writableSysRegs : List Nat :=
  [0x000, 0x001, 0x002, 0x003, 0x004, 0x010, 0x011, 0x012, 0x013, 0x014, 0x015, 0x018, 0x019, 0x01A, 0x01B]

/-- The counter numbers of R400. -/
def counterNumbers : List Nat :=
  rangeFrom 0x000 4 ++ rangeFrom 0x010 4 ++ rangeFrom 0x018 5 ++ rangeFrom 0x020 16 ++ rangeFrom 0x030 6 ++ rangeFrom 0x040 5

/-- The conditions of R164 on a VCVT of code `c`: the rounding mode, the part, the mask and the register pairs. -/
def vcvtOk (rd ra : VReg) (p : Fin 4) (k : KReg) (rm : Rm) (c : Nat) : Bool :=
  decide (c < 19)
    && (!(decide (8 ≤ c ∧ c ≤ 12) || c == 15 || c == 16) || rm == .rne)
    && (if c == 0 || c == 1 || c == 8 || c == 9 then decide (p.val < 2) else if c == 13 || c == 14 then p.val == 0 else true)
    && (c == 13 || c == 14 || k.val == 0)
    && (!(c == 4 || c == 7) || ra.val % 2 == 0)
    && (!(c == 12) || rd.val % 2 == 0)

/-- A v register that is neither of the pair `d` (R169). -/
def notInPair (d : VPair) (b : VReg) : Bool := b.val != 2 * d.val && b.val != 2 * d.val + 1

/-- The instruction is one that R44-R50 and its entry admit. -/
def wf : Instr → Bool
  | .ld _ _ _ sz s _ => !(sz.val == 3 && s)
  | .vcmp _ _ _ _ _ t c => !(c == .unord) || t == .f
  | .vcvt rd ra p k _ rm c => vcvtOk rd ra p k rm c.val
  | .vselk rd _ rb _ _ _ => notInPair rd rb
  | .vmergek rd _ rb _ _ _ => notInPair rd rb
  | .mlda fmt _ _ => decide (fmt.val ≤ 5) || fmt.val == 7
  | .mldb fmt _ _ => decide (fmt.val ≤ 5) || fmt.val == 7
  | .mma _ fmt _ => decide (fmt.val ≤ 3)
  | .mmab _ fmt _ => decide (2 ≤ fmt.val ∧ fmt.val ≤ 4)
  | .mmai _ fmt _ _ => fmt.val == 5 || fmt.val == 7
  | .msca _ k _ _ _ => decide (k.val ≤ 1)
  | .mdrain _ fmt _ _ => decide (fmt.val ≤ 3) || fmt.val == 8 || fmt.val == 9
  | .trayGather _ _ o p => !o || p.val == 0
  | .trayScatter _ _ o p => !o || p.val == 0
  | .trayReduce _ _ o p => !o || p.val == 0
  | .traySub _ _ o p => !o || p.val == 0
  | .trayUnsub _ _ o p => !o || p.val == 0
  | .allred _ _ off => off.val != 3
  | .wres _ ra s => !s || ra.val == 0
  | .send _ ra _ => decide (ra.val < 29)
  | .recv rd ra _ =>
    decide (ra.val < 29) && (ra.val == 0 || !decide (ra.val ≤ rd.val ∧ rd.val ≤ ra.val + 3))
  | .rqn _ s => s.val != 3
  | .crd _ n => counterNumbers.contains n.val
  | .tmark _ k => k.val != 3
  | .srd _ n => sysRegs.contains n.val
  | .swr _ n => writableSysRegs.contains n.val
  | _ => true

end Sys2Proof
end

