-- ==== Sys2Proof/Decode.lean ====
section
/-! DEFINITION. Decoding of instruction words and block headers, and the encoder, both from the encoding tables of spec/02_encoding.md (R24-R52) and the entries' own layouts. -/

namespace Sys2Proof

/-- The code of a rounding mode (R46). -/
def Rm.code : Rm → Nat
  | .rne => 0 | .rtz => 1 | .rup => 2 | .rdn => 3

/-- The rounding mode of a 2-bit code. -/
def Rm.ofCode (n : Nat) : Rm :=
  if n = 0 then .rne else if n = 1 then .rtz else if n = 2 then .rup else .rdn

/-- The code of a scope (R47). -/
def Scope.code : Scope → Nat
  | .core => 0 | .clu => 1 | .pot => 2 | .mod => 3 | .sys => 4

/-- The scope of a code; 5-7 are reserved. -/
def Scope.ofCode? (n : Nat) : Option Scope :=
  if n = 0 then some .core else if n = 1 then some .clu else if n = 2 then some .pot
  else if n = 3 then some .mod else if n = 4 then some .sys else none

/-- The code of an element width (R48). -/
def Width.code : Width → Nat
  | .b => 0 | .h => 1 | .w => 2

/-- The width of a code; 3 is reserved. -/
def Width.ofCode? (n : Nat) : Option Width :=
  if n = 0 then some .b else if n = 1 then some .h else if n = 2 then some .w else none

/-- The code of a compare type (R161). -/
def CmpType.code : CmpType → Nat
  | .f => 0 | .i => 1 | .u => 2

/-- The compare type of a code; 3 is reserved. -/
def CmpType.ofCode? (n : Nat) : Option CmpType :=
  if n = 0 then some .f else if n = 1 then some .i else if n = 2 then some .u else none

/-- The code of a condition (R161). -/
def Cond.code : Cond → Nat
  | .eq => 0 | .ne => 1 | .lt => 2 | .le => 3 | .gt => 4 | .ge => 5 | .unord => 6

/-- The condition of a code; 7-31 are reserved. -/
def Cond.ofCode? (n : Nat) : Option Cond :=
  if n = 0 then some .eq else if n = 1 then some .ne else if n = 2 then some .lt else if n = 3 then some .le
  else if n = 4 then some .gt else if n = 5 then some .ge else if n = 6 then some .unord else none

/-- The sum of a base word and field values placed at their low bits (R33). -/
def enc (base : Nat) : List (Nat × Nat) → Nat
  | [] => base
  | (x, lo) :: t => enc base t + 2 ^ lo * x


/-- The 32-bit word of an instruction (R33, R44-R50); none for a step that has no encoding. -/
def encodeNat : Instr → Option Nat
  | .add rd ra rb => some (enc 0x10000000 [(rd.val, 21), (ra.val, 16), (rb.val, 11)])
  | .sub rd ra rb => some (enc 0x10000001 [(rd.val, 21), (ra.val, 16), (rb.val, 11)])
  | .addw rd ra rb => some (enc 0x10000002 [(rd.val, 21), (ra.val, 16), (rb.val, 11)])
  | .subw rd ra rb => some (enc 0x10000003 [(rd.val, 21), (ra.val, 16), (rb.val, 11)])
  | .and rd ra rb => some (enc 0x10000004 [(rd.val, 21), (ra.val, 16), (rb.val, 11)])
  | .or rd ra rb => some (enc 0x10000005 [(rd.val, 21), (ra.val, 16), (rb.val, 11)])
  | .xor rd ra rb => some (enc 0x10000006 [(rd.val, 21), (ra.val, 16), (rb.val, 11)])
  | .andn rd ra rb => some (enc 0x10000007 [(rd.val, 21), (ra.val, 16), (rb.val, 11)])
  | .orn rd ra rb => some (enc 0x10000008 [(rd.val, 21), (ra.val, 16), (rb.val, 11)])
  | .xnor rd ra rb => some (enc 0x10000009 [(rd.val, 21), (ra.val, 16), (rb.val, 11)])
  | .shl rd ra rb => some (enc 0x1000000A [(rd.val, 21), (ra.val, 16), (rb.val, 11)])
  | .shr rd ra rb => some (enc 0x1000000B [(rd.val, 21), (ra.val, 16), (rb.val, 11)])
  | .sra rd ra rb => some (enc 0x1000000C [(rd.val, 21), (ra.val, 16), (rb.val, 11)])
  | .rol rd ra rb => some (enc 0x1000000D [(rd.val, 21), (ra.val, 16), (rb.val, 11)])
  | .ror rd ra rb => some (enc 0x1000000E [(rd.val, 21), (ra.val, 16), (rb.val, 11)])
  | .slt rd ra rb => some (enc 0x10000010 [(rd.val, 21), (ra.val, 16), (rb.val, 11)])
  | .sltu rd ra rb => some (enc 0x10000011 [(rd.val, 21), (ra.val, 16), (rb.val, 11)])
  | .seq rd ra rb => some (enc 0x10000012 [(rd.val, 21), (ra.val, 16), (rb.val, 11)])
  | .sne rd ra rb => some (enc 0x10000013 [(rd.val, 21), (ra.val, 16), (rb.val, 11)])
  | .min rd ra rb => some (enc 0x10000014 [(rd.val, 21), (ra.val, 16), (rb.val, 11)])
  | .max rd ra rb => some (enc 0x10000015 [(rd.val, 21), (ra.val, 16), (rb.val, 11)])
  | .minu rd ra rb => some (enc 0x10000016 [(rd.val, 21), (ra.val, 16), (rb.val, 11)])
  | .maxu rd ra rb => some (enc 0x10000017 [(rd.val, 21), (ra.val, 16), (rb.val, 11)])
  | .selnz rd ra rb => some (enc 0x10000018 [(rd.val, 21), (ra.val, 16), (rb.val, 11)])
  | .selz rd ra rb => some (enc 0x10000019 [(rd.val, 21), (ra.val, 16), (rb.val, 11)])
  | .shadd1 rd ra rb => some (enc 0x1000001A [(rd.val, 21), (ra.val, 16), (rb.val, 11)])
  | .shadd2 rd ra rb => some (enc 0x1000001B [(rd.val, 21), (ra.val, 16), (rb.val, 11)])
  | .shadd3 rd ra rb => some (enc 0x1000001C [(rd.val, 21), (ra.val, 16), (rb.val, 11)])
  | .shadd4 rd ra rb => some (enc 0x1000001D [(rd.val, 21), (ra.val, 16), (rb.val, 11)])
  | .mul rd ra rb => some (enc 0x10000020 [(rd.val, 21), (ra.val, 16), (rb.val, 11)])
  | .mulh rd ra rb => some (enc 0x10000021 [(rd.val, 21), (ra.val, 16), (rb.val, 11)])
  | .mulhu rd ra rb => some (enc 0x10000022 [(rd.val, 21), (ra.val, 16), (rb.val, 11)])
  | .mulw rd ra rb => some (enc 0x10000023 [(rd.val, 21), (ra.val, 16), (rb.val, 11)])
  | .div rd ra rb la => some (enc 0x10000028 [(rd.val, 21), (ra.val, 16), (rb.val, 11), (la.val, 7)])
  | .divu rd ra rb la => some (enc 0x10000029 [(rd.val, 21), (ra.val, 16), (rb.val, 11), (la.val, 7)])
  | .rem rd ra rb la => some (enc 0x1000002A [(rd.val, 21), (ra.val, 16), (rb.val, 11), (la.val, 7)])
  | .remu rd ra rb la => some (enc 0x1000002B [(rd.val, 21), (ra.val, 16), (rb.val, 11), (la.val, 7)])
  | .clz rd ra => some (enc 0x10000030 [(rd.val, 21), (ra.val, 16)])
  | .ctz rd ra => some (enc 0x10000031 [(rd.val, 21), (ra.val, 16)])
  | .popc rd ra => some (enc 0x10000032 [(rd.val, 21), (ra.val, 16)])
  | .brev rd ra => some (enc 0x10000033 [(rd.val, 21), (ra.val, 16)])
  | .bswap rd ra => some (enc 0x10000034 [(rd.val, 21), (ra.val, 16)])
  | .sextb rd ra => some (enc 0x10000035 [(rd.val, 21), (ra.val, 16)])
  | .sexth rd ra => some (enc 0x10000036 [(rd.val, 21), (ra.val, 16)])
  | .sextw rd ra => some (enc 0x10000037 [(rd.val, 21), (ra.val, 16)])
  | .zextw rd ra => some (enc 0x10000038 [(rd.val, 21), (ra.val, 16)])
  | .addi rd ra imm => some (enc 0x14000000 [(rd.val, 21), (ra.val, 16), (imm.toNat, 0)])
  | .andi rd ra imm => some (enc 0x18000000 [(rd.val, 21), (ra.val, 16), (imm.toNat, 0)])
  | .ori rd ra imm => some (enc 0x1C000000 [(rd.val, 21), (ra.val, 16), (imm.toNat, 0)])
  | .xori rd ra imm => some (enc 0x20000000 [(rd.val, 21), (ra.val, 16), (imm.toNat, 0)])
  | .slti rd ra imm => some (enc 0x24000000 [(rd.val, 21), (ra.val, 16), (imm.toNat, 0)])
  | .sltiu rd ra imm => some (enc 0x28000000 [(rd.val, 21), (ra.val, 16), (imm.toNat, 0)])
  | .muli rd ra imm => some (enc 0x2C000000 [(rd.val, 21), (ra.val, 16), (imm.toNat, 0)])
  | .shli rd ra c => some (enc 0x30000000 [(rd.val, 21), (ra.val, 16), (c.val, 0)])
  | .shri rd ra c => some (enc 0x30000040 [(rd.val, 21), (ra.val, 16), (c.val, 0)])
  | .srai rd ra c => some (enc 0x30000080 [(rd.val, 21), (ra.val, 16), (c.val, 0)])
  | .rori rd ra c => some (enc 0x300000C0 [(rd.val, 21), (ra.val, 16), (c.val, 0)])
  | .insh rd q imm => some (enc 0x34000000 [(rd.val, 21), (q.val, 16), (imm.toNat, 0)])
  | .beq ra rb off => some (enc 0x04000000 [(ra.val, 21), (rb.val, 16), (off.toNat, 0)])
  | .bne ra rb off => some (enc 0x04002000 [(ra.val, 21), (rb.val, 16), (off.toNat, 0)])
  | .blt ra rb off => some (enc 0x04004000 [(ra.val, 21), (rb.val, 16), (off.toNat, 0)])
  | .bge ra rb off => some (enc 0x04006000 [(ra.val, 21), (rb.val, 16), (off.toNat, 0)])
  | .bltu ra rb off => some (enc 0x04008000 [(ra.val, 21), (rb.val, 16), (off.toNat, 0)])
  | .bgeu ra rb off => some (enc 0x0400A000 [(ra.val, 21), (rb.val, 16), (off.toNat, 0)])
  | .jal rd off => some (enc 0x08000000 [(rd.val, 21), (off.toNat, 0)])
  | .jalr rd ra => some (enc 0x0C000000 [(rd.val, 21), (ra.val, 16)])
  | .fadd rd ra rb rm => some (enc 0x40000000 [(rd.val, 21), (ra.val, 16), (rb.val, 11), (rm.code, 5)])
  | .fsub rd ra rb rm => some (enc 0x40000001 [(rd.val, 21), (ra.val, 16), (rb.val, 11), (rm.code, 5)])
  | .fmul rd ra rb rm => some (enc 0x40000002 [(rd.val, 21), (ra.val, 16), (rb.val, 11), (rm.code, 5)])
  | .fmac rd ra rb rm => some (enc 0x40000003 [(rd.val, 21), (ra.val, 16), (rb.val, 11), (rm.code, 5)])
  | .fdiv rd ra rb la rm => some (enc 0x40000004 [(rd.val, 21), (ra.val, 16), (rb.val, 11), (la.val, 7), (rm.code, 5)])
  | .fsqrt rd ra la rm => some (enc 0x40000005 [(rd.val, 21), (ra.val, 16), (la.val, 7), (rm.code, 5)])
  | .fmin rd ra rb => some (enc 0x40000006 [(rd.val, 21), (ra.val, 16), (rb.val, 11)])
  | .fmax rd ra rb => some (enc 0x40000007 [(rd.val, 21), (ra.val, 16), (rb.val, 11)])
  | .fabs rd ra => some (enc 0x40000008 [(rd.val, 21), (ra.val, 16)])
  | .fneg rd ra => some (enc 0x40000009 [(rd.val, 21), (ra.val, 16)])
  | .feq rd ra rb => some (enc 0x4000000A [(rd.val, 21), (ra.val, 16), (rb.val, 11)])
  | .flt rd ra rb => some (enc 0x4000000B [(rd.val, 21), (ra.val, 16), (rb.val, 11)])
  | .fle rd ra rb => some (enc 0x4000000C [(rd.val, 21), (ra.val, 16), (rb.val, 11)])
  | .fclass rd ra => some (enc 0x4000000D [(rd.val, 21), (ra.val, 16)])
  | .fcvtSL rd ra rm => some (enc 0x4000000E [(rd.val, 21), (ra.val, 16), (rm.code, 5)])
  | .fcvtSLU rd ra rm => some (enc 0x4000000F [(rd.val, 21), (ra.val, 16), (rm.code, 5)])
  | .fcvtLS rd ra rm => some (enc 0x40000010 [(rd.val, 21), (ra.val, 16), (rm.code, 5)])
  | .fcvtLUS rd ra rm => some (enc 0x40000011 [(rd.val, 21), (ra.val, 16), (rm.code, 5)])
  | .fcvtSH rd ra => some (enc 0x40000012 [(rd.val, 21), (ra.val, 16)])
  | .fcvtHS rd ra rm => some (enc 0x40000013 [(rd.val, 21), (ra.val, 16), (rm.code, 5)])
  | .fcvtSBF rd ra => some (enc 0x40000014 [(rd.val, 21), (ra.val, 16)])
  | .fcvtBFS rd ra rm => some (enc 0x40000015 [(rd.val, 21), (ra.val, 16), (rm.code, 5)])
  | .ld rd ra la sz s disp => some (enc 0x50000000 [(rd.val, 21), (ra.val, 16), (la.val, 12), (sz.val, 10), (s.toNat, 7), (disp.toNat, 0)])
  | .ldAcq rd ra la sz c disp => some (enc 0x54000000 [(rd.val, 21), (ra.val, 16), (la.val, 12), (sz.val, 10), (c.code, 7), (disp.toNat, 0)])
  | .st rd ra sz disp => some (enc 0x58000000 [(rd.val, 21), (ra.val, 16), (sz.val, 10), (disp.toNat, 0)])
  | .stf rd ra sz disp => some (enc 0x58000080 [(rd.val, 21), (ra.val, 16), (sz.val, 10), (disp.toNat, 0)])
  | .stRel rd ra sz c disp => some (enc 0x5C000000 [(rd.val, 21), (ra.val, 16), (sz.val, 10), (c.code, 7), (disp.toNat, 0)])
  | .lds rd ra la sz c disp => some (enc 0x60000000 [(rd.val, 21), (ra.val, 16), (la.val, 12), (sz.val, 10), (c.toNat, 7), (disp.toNat, 0)])
  | .ldf rd ra sz disp => some (enc 0x64000000 [(rd.val, 21), (ra.val, 16), (sz.val, 10), (disp.toNat, 0)])
  | .vld rd ra la k disp => some (enc 0x68000800 [(rd.val, 21), (ra.val, 16), (la.val, 12), (k.val, 7), (disp.toNat, 0)])
  | .vst rd ra k disp => some (enc 0x70000800 [(rd.val, 21), (ra.val, 16), (k.val, 7), (disp.toNat, 0)])
  | .vlds rd ra rb la k => some (enc 0x6C000008 [(rd.val, 21), (ra.val, 16), (rb.val, 11), (la.val, 7), (k.val, 4)])
  | .vsts rd ra rb k => some (enc 0x6C000009 [(rd.val, 21), (ra.val, 16), (rb.val, 11), (k.val, 4)])
  | .vldi rd ra rb la k => some (enc 0x6C00000A [(rd.val, 21), (ra.val, 16), (rb.val, 11), (la.val, 7), (k.val, 4)])
  | .vsti rd ra rb k => some (enc 0x6C00000B [(rd.val, 21), (ra.val, 16), (rb.val, 11), (k.val, 4)])
  | .aswapW rd ra rb la c => some (enc 0x78000000 [(rd.val, 21), (ra.val, 16), (rb.val, 11), (la.val, 7), (c.code, 4)])
  | .aswapD rd ra rb la c => some (enc 0x7C000000 [(rd.val, 21), (ra.val, 16), (rb.val, 11), (la.val, 7), (c.code, 4)])
  | .aswapQ rd ra rb la c => some (enc 0x80000000 [(rd.val, 22), (ra.val, 16), (rb.val, 12), (la.val, 7), (c.code, 4)])
  | .aaddW rd ra rb la c => some (enc 0x78000001 [(rd.val, 21), (ra.val, 16), (rb.val, 11), (la.val, 7), (c.code, 4)])
  | .aaddD rd ra rb la c => some (enc 0x7C000001 [(rd.val, 21), (ra.val, 16), (rb.val, 11), (la.val, 7), (c.code, 4)])
  | .aandW rd ra rb la c => some (enc 0x78000002 [(rd.val, 21), (ra.val, 16), (rb.val, 11), (la.val, 7), (c.code, 4)])
  | .aandD rd ra rb la c => some (enc 0x7C000002 [(rd.val, 21), (ra.val, 16), (rb.val, 11), (la.val, 7), (c.code, 4)])
  | .aorW rd ra rb la c => some (enc 0x78000003 [(rd.val, 21), (ra.val, 16), (rb.val, 11), (la.val, 7), (c.code, 4)])
  | .aorD rd ra rb la c => some (enc 0x7C000003 [(rd.val, 21), (ra.val, 16), (rb.val, 11), (la.val, 7), (c.code, 4)])
  | .axorW rd ra rb la c => some (enc 0x78000004 [(rd.val, 21), (ra.val, 16), (rb.val, 11), (la.val, 7), (c.code, 4)])
  | .axorD rd ra rb la c => some (enc 0x7C000004 [(rd.val, 21), (ra.val, 16), (rb.val, 11), (la.val, 7), (c.code, 4)])
  | .aminW rd ra rb la c => some (enc 0x78000005 [(rd.val, 21), (ra.val, 16), (rb.val, 11), (la.val, 7), (c.code, 4)])
  | .aminD rd ra rb la c => some (enc 0x7C000005 [(rd.val, 21), (ra.val, 16), (rb.val, 11), (la.val, 7), (c.code, 4)])
  | .amaxW rd ra rb la c => some (enc 0x78000006 [(rd.val, 21), (ra.val, 16), (rb.val, 11), (la.val, 7), (c.code, 4)])
  | .amaxD rd ra rb la c => some (enc 0x7C000006 [(rd.val, 21), (ra.val, 16), (rb.val, 11), (la.val, 7), (c.code, 4)])
  | .aminuW rd ra rb la c => some (enc 0x78000007 [(rd.val, 21), (ra.val, 16), (rb.val, 11), (la.val, 7), (c.code, 4)])
  | .aminuD rd ra rb la c => some (enc 0x7C000007 [(rd.val, 21), (ra.val, 16), (rb.val, 11), (la.val, 7), (c.code, 4)])
  | .amaxuW rd ra rb la c => some (enc 0x78000008 [(rd.val, 21), (ra.val, 16), (rb.val, 11), (la.val, 7), (c.code, 4)])
  | .amaxuD rd ra rb la c => some (enc 0x7C000008 [(rd.val, 21), (ra.val, 16), (rb.val, 11), (la.val, 7), (c.code, 4)])
  | .afadd rd ra rb la c => some (enc 0x78000009 [(rd.val, 21), (ra.val, 16), (rb.val, 11), (la.val, 7), (c.code, 4)])
  | .acasW rd ra rb la c => some (enc 0x7800000A [(rd.val, 21), (ra.val, 16), (rb.val, 11), (la.val, 7), (c.code, 4)])
  | .acasD rd ra rb la c => some (enc 0x7C00000A [(rd.val, 21), (ra.val, 16), (rb.val, 11), (la.val, 7), (c.code, 4)])
  | .acasQ rd ra rb la c => some (enc 0x8000000A [(rd.val, 22), (ra.val, 16), (rb.val, 12), (la.val, 7), (c.code, 4)])
  | .fence c => some (enc 0x84000000 [(c.code, 4)])
  | .feclr rd ra => some (enc 0x84000002 [(rd.val, 21), (ra.val, 16)])
  | .fset ra n => some (enc 0x88000000 [(ra.val, 16), (n.val, 4)])
  | .fclr ra n => some (enc 0x88000001 [(ra.val, 16), (n.val, 4)])
  | .ftst rd ra n => some (enc 0x88000002 [(rd.val, 21), (ra.val, 16), (n.val, 4)])
  | .fwait ra c n => some (enc 0x88000003 [(ra.val, 16), (c.toNat, 14), (n.val, 4)])
  | .vfadd rd ra rb k la rm => some (enc 0x90000000 [(rd.val, 22), (ra.val, 18), (rb.val, 14), (k.val, 11), (la.val, 7), (rm.code, 5)])
  | .vfsub rd ra rb k la rm => some (enc 0x90000001 [(rd.val, 22), (ra.val, 18), (rb.val, 14), (k.val, 11), (la.val, 7), (rm.code, 5)])
  | .vfmul rd ra rb k la rm => some (enc 0x90000002 [(rd.val, 22), (ra.val, 18), (rb.val, 14), (k.val, 11), (la.val, 7), (rm.code, 5)])
  | .vfma rd ra rb k la rm => some (enc 0x90000003 [(rd.val, 22), (ra.val, 18), (rb.val, 14), (k.val, 11), (la.val, 7), (rm.code, 5)])
  | .vfmin rd ra rb k la => some (enc 0x90000004 [(rd.val, 22), (ra.val, 18), (rb.val, 14), (k.val, 11), (la.val, 7)])
  | .vfmax rd ra rb k la => some (enc 0x90000005 [(rd.val, 22), (ra.val, 18), (rb.val, 14), (k.val, 11), (la.val, 7)])
  | .vfabs rd ra k la => some (enc 0x90000006 [(rd.val, 22), (ra.val, 18), (k.val, 11), (la.val, 7)])
  | .vfneg rd ra k la => some (enc 0x90000007 [(rd.val, 22), (ra.val, 18), (k.val, 11), (la.val, 7)])
  | .vfdiv rd ra rb k la rm => some (enc 0x90000008 [(rd.val, 22), (ra.val, 18), (rb.val, 14), (k.val, 11), (la.val, 7), (rm.code, 5)])
  | .vfsqrt rd ra k la rm => some (enc 0x90000009 [(rd.val, 22), (ra.val, 18), (k.val, 11), (la.val, 7), (rm.code, 5)])
  | .vrcp rd ra k la => some (enc 0x9000000A [(rd.val, 22), (ra.val, 18), (k.val, 11), (la.val, 7)])
  | .vrsq rd ra k la => some (enc 0x9000000B [(rd.val, 22), (ra.val, 18), (k.val, 11), (la.val, 7)])
  | .vexp2 rd ra k la => some (enc 0x9000000C [(rd.val, 22), (ra.val, 18), (k.val, 11), (la.val, 7)])
  | .vadd rd ra rb k la wd => some (enc 0x94000000 [(rd.val, 22), (ra.val, 18), (rb.val, 14), (k.val, 11), (la.val, 7), (wd.code, 5)])
  | .vsub rd ra rb k la wd => some (enc 0x94000001 [(rd.val, 22), (ra.val, 18), (rb.val, 14), (k.val, 11), (la.val, 7), (wd.code, 5)])
  | .vmul rd ra rb k la wd => some (enc 0x94000002 [(rd.val, 22), (ra.val, 18), (rb.val, 14), (k.val, 11), (la.val, 7), (wd.code, 5)])
  | .vmin rd ra rb k la wd => some (enc 0x94000003 [(rd.val, 22), (ra.val, 18), (rb.val, 14), (k.val, 11), (la.val, 7), (wd.code, 5)])
  | .vmax rd ra rb k la wd => some (enc 0x94000004 [(rd.val, 22), (ra.val, 18), (rb.val, 14), (k.val, 11), (la.val, 7), (wd.code, 5)])
  | .vminu rd ra rb k la wd => some (enc 0x94000005 [(rd.val, 22), (ra.val, 18), (rb.val, 14), (k.val, 11), (la.val, 7), (wd.code, 5)])
  | .vmaxu rd ra rb k la wd => some (enc 0x94000006 [(rd.val, 22), (ra.val, 18), (rb.val, 14), (k.val, 11), (la.val, 7), (wd.code, 5)])
  | .vand rd ra rb k la wd => some (enc 0x94000007 [(rd.val, 22), (ra.val, 18), (rb.val, 14), (k.val, 11), (la.val, 7), (wd.code, 5)])
  | .vor rd ra rb k la wd => some (enc 0x94000008 [(rd.val, 22), (ra.val, 18), (rb.val, 14), (k.val, 11), (la.val, 7), (wd.code, 5)])
  | .vxor rd ra rb k la wd => some (enc 0x94000009 [(rd.val, 22), (ra.val, 18), (rb.val, 14), (k.val, 11), (la.val, 7), (wd.code, 5)])
  | .vshl rd ra rb k la wd => some (enc 0x9400000A [(rd.val, 22), (ra.val, 18), (rb.val, 14), (k.val, 11), (la.val, 7), (wd.code, 5)])
  | .vshr rd ra rb k la wd => some (enc 0x9400000B [(rd.val, 22), (ra.val, 18), (rb.val, 14), (k.val, 11), (la.val, 7), (wd.code, 5)])
  | .vsra rd ra rb k la wd => some (enc 0x9400000C [(rd.val, 22), (ra.val, 18), (rb.val, 14), (k.val, 11), (la.val, 7), (wd.code, 5)])
  | .vadds rd ra rb k la wd => some (enc 0x9400000D [(rd.val, 22), (ra.val, 18), (rb.val, 14), (k.val, 11), (la.val, 7), (wd.code, 5)])
  | .vsubs rd ra rb k la wd => some (enc 0x9400000E [(rd.val, 22), (ra.val, 18), (rb.val, 14), (k.val, 11), (la.val, 7), (wd.code, 5)])
  | .vaddus rd ra rb k la wd => some (enc 0x9400000F [(rd.val, 22), (ra.val, 18), (rb.val, 14), (k.val, 11), (la.val, 7), (wd.code, 5)])
  | .vsubus rd ra rb k la wd => some (enc 0x94000010 [(rd.val, 22), (ra.val, 18), (rb.val, 14), (k.val, 11), (la.val, 7), (wd.code, 5)])
  | .vabs rd ra k la wd => some (enc 0x94000011 [(rd.val, 22), (ra.val, 18), (k.val, 11), (la.val, 7), (wd.code, 5)])
  | .vcmp rd ra rb k la t c => some (enc 0x98000000 [(rd.val, 22), (ra.val, 18), (rb.val, 14), (k.val, 11), (la.val, 7), (t.code, 5), (c.code, 0)])
  | .vcvt rd ra p k la rm c => some (enc 0x9C000000 [(rd.val, 22), (ra.val, 18), (p.val, 14), (k.val, 11), (la.val, 7), (rm.code, 5), (c.val, 0)])
  | .vperm rd ra rb k la => some (enc 0xA0000000 [(rd.val, 22), (ra.val, 18), (rb.val, 14), (k.val, 11), (la.val, 7)])
  | .vsel rd ra rb k la => some (enc 0xA0000001 [(rd.val, 22), (ra.val, 18), (rb.val, 14), (k.val, 11), (la.val, 7)])
  | .vzip rd ra rb k la => some (enc 0xA0000002 [(rd.val, 22), (ra.val, 18), (rb.val, 14), (k.val, 11), (la.val, 7)])
  | .vunzip rd ra rb k la => some (enc 0xA0000003 [(rd.val, 22), (ra.val, 18), (rb.val, 14), (k.val, 11), (la.val, 7)])
  | .vcompress rd ra k la => some (enc 0xA0000004 [(rd.val, 22), (ra.val, 18), (k.val, 11), (la.val, 7)])
  | .vexpand rd ra k la => some (enc 0xA0000005 [(rd.val, 22), (ra.val, 18), (k.val, 11), (la.val, 7)])
  | .vredadd rd ra k la => some (enc 0xA4000000 [(rd.val, 22), (ra.val, 18), (k.val, 11), (la.val, 7)])
  | .vredmax rd ra k la => some (enc 0xA4000001 [(rd.val, 22), (ra.val, 18), (k.val, 11), (la.val, 7)])
  | .vredmin rd ra k la => some (enc 0xA4000002 [(rd.val, 22), (ra.val, 18), (k.val, 11), (la.val, 7)])
  | .vredaddi rd ra k la => some (enc 0xA4000003 [(rd.val, 22), (ra.val, 18), (k.val, 11), (la.val, 7)])
  | .vredmaxi rd ra k la => some (enc 0xA4000004 [(rd.val, 22), (ra.val, 18), (k.val, 11), (la.val, 7)])
  | .vredmini rd ra k la => some (enc 0xA4000005 [(rd.val, 22), (ra.val, 18), (k.val, 11), (la.val, 7)])
  | .vredand rd ra k la => some (enc 0xA4000006 [(rd.val, 22), (ra.val, 18), (k.val, 11), (la.val, 7)])
  | .vredor rd ra k la => some (enc 0xA4000007 [(rd.val, 22), (ra.val, 18), (k.val, 11), (la.val, 7)])
  | .vredxor rd ra k la => some (enc 0xA4000008 [(rd.val, 22), (ra.val, 18), (k.val, 11), (la.val, 7)])
  | .vsort rd ra k la x => some (enc 0xA8000000 [(rd.val, 23), (ra.val, 18), (k.val, 11), (la.val, 7), (x.toNat, 0)])
  | .vselk rd ra rb k la x => some (enc 0xA8000002 [(rd.val, 23), (ra.val, 18), (rb.val, 14), (k.val, 11), (la.val, 7), (x.toNat, 0)])
  | .vmergek rd ra rb k la x => some (enc 0xA8000004 [(rd.val, 23), (ra.val, 19), (rb.val, 14), (k.val, 11), (la.val, 7), (x.toNat, 0)])
  | .vbcast rd ra la => some (enc 0xAC000000 [(rd.val, 21), (ra.val, 16), (la.val, 7)])
  | .vins rd ra rb la => some (enc 0xAC000001 [(rd.val, 21), (ra.val, 16), (rb.val, 11), (la.val, 7)])
  | .vext rd ra rb la => some (enc 0xAC000002 [(rd.val, 21), (ra.val, 16), (rb.val, 11), (la.val, 7)])
  | .kmovgk rd ra la => some (enc 0xAC000003 [(rd.val, 21), (ra.val, 16), (la.val, 7)])
  | .kmovkg rd ra la => some (enc 0xAC000004 [(rd.val, 21), (ra.val, 16), (la.val, 7)])
  | .kpopc rd ra la => some (enc 0xAC000005 [(rd.val, 21), (ra.val, 16), (la.val, 7)])
  | .kand rd ra rb la => some (enc 0xB0000000 [(rd.val, 22), (ra.val, 18), (rb.val, 14), (la.val, 7)])
  | .kor rd ra rb la => some (enc 0xB0000001 [(rd.val, 22), (ra.val, 18), (rb.val, 14), (la.val, 7)])
  | .kxor rd ra rb la => some (enc 0xB0000002 [(rd.val, 22), (ra.val, 18), (rb.val, 14), (la.val, 7)])
  | .kandn rd ra rb la => some (enc 0xB0000003 [(rd.val, 22), (ra.val, 18), (rb.val, 14), (la.val, 7)])
  | .knot rd ra la => some (enc 0xB0000004 [(rd.val, 22), (ra.val, 18), (la.val, 7)])
  | .mclaim zt => some (enc 0xC0000000 [(zt.val, 23)])
  | .mfree zt => some (enc 0xC0000001 [(zt.val, 23)])
  | .mlda fmt ra rh => some (enc 0xC0000002 [(fmt.val, 19), (ra.val, 14), (rh.val, 9)])
  | .mldb fmt ra rh => some (enc 0xC0000003 [(fmt.val, 19), (ra.val, 14), (rh.val, 9)])
  | .rpass rh => some (enc 0xC0000004 [(rh.val, 9)])
  | .mma zt fmt rh => some (enc 0xC0000005 [(zt.val, 23), (fmt.val, 19), (rh.val, 9)])
  | .mmab y fmt rh => some (enc 0xC0000006 [(y.val, 23), (fmt.val, 19), (rh.val, 9)])
  | .mmai y fmt ra rh => some (enc 0xC0000007 [(y.val, 23), (fmt.val, 19), (ra.val, 14), (rh.val, 9)])
  | .msca zt k u ra rh => some (enc 0xC0000008 [(zt.val, 23), (k.val, 20), (u.val, 19), (ra.val, 14), (rh.val, 9)])
  | .mzero zt rh => some (enc 0xC0000009 [(zt.val, 23), (rh.val, 9)])
  | .mdrain zt fmt ra rh => some (enc 0xC000000A [(zt.val, 23), (fmt.val, 19), (ra.val, 14), (rh.val, 9)])
  | .mtwin on => some (enc 0xC000000B [(on.toNat, 14)])
  | .xpush rd ra n => some (enc 0xC8000000 [(rd.val, 21), (ra.val, 16), (n.val, 4)])
  | .xpushr rd ra n => some (enc 0xC8000001 [(rd.val, 21), (ra.val, 16), (n.val, 4)])
  | .xwait ra n => some (enc 0xC8000002 [(ra.val, 16), (n.val, 4)])
  | .expect rd ra => some (enc 0xC8000003 [(rd.val, 21), (ra.val, 16)])
  | .trayGather rd ra off p => some (enc 0xCC000000 [(rd.val, 21), (ra.val, 16), (off.toNat, 9), (p.val, 4)])
  | .trayScatter rd ra off p => some (enc 0xCC000001 [(rd.val, 21), (ra.val, 16), (off.toNat, 9), (p.val, 4)])
  | .trayReduce rd ra off p => some (enc 0xCC000002 [(rd.val, 21), (ra.val, 16), (off.toNat, 9), (p.val, 4)])
  | .traySub rd ra off p => some (enc 0xCC000003 [(rd.val, 21), (ra.val, 16), (off.toNat, 9), (p.val, 4)])
  | .trayUnsub rd ra off p => some (enc 0xCC000004 [(rd.val, 21), (ra.val, 16), (off.toNat, 9), (p.val, 4)])
  | .mbw ra n => some (enc 0xD0000000 [(ra.val, 16), (n.val, 4)])
  | .mbr rd n => some (enc 0xD0000001 [(rd.val, 21), (n.val, 4)])
  | .dld ra sz => some (enc 0xD0000002 [(ra.val, 16), (sz.val, 4)])
  | .dpop rd => some (enc 0xD0000003 [(rd.val, 21)])
  | .ppush ra => some (enc 0xD0000004 [(ra.val, 16)])
  | .pst ra sz => some (enc 0xD0000005 [(ra.val, 16), (sz.val, 4)])
  | .qcnt rd q => some (enc 0xD0000006 [(rd.val, 21), (q.toNat, 4)])
  | .allred rd ra off => some (enc 0xD4000000 [(rd.val, 21), (ra.val, 16), (off.val, 4)])
  | .allgath rd ra => some (enc 0xD4000001 [(rd.val, 21), (ra.val, 16)])
  | .waddr rd ra k => some (enc 0xD4000002 [(rd.val, 21), (ra.val, 16), (k.val, 4)])
  | .wres rd ra s => some (enc 0xD4000003 [(rd.val, 21), (ra.val, 16), (s.toNat, 4)])
  | .stvec rd ra c => some (enc 0xD8000000 [(rd.val, 21), (ra.val, 16), (c.val, 4)])
  | .ldnear rd ra v c => some (enc 0xD8000001 [(rd.val, 21), (ra.val, 16), (v.val, 11), (c.val, 4)])
  | .ixdel rd ra c => some (enc 0xD8000002 [(rd.val, 21), (ra.val, 16), (c.val, 4)])
  | .ixsnap rd ra v c => some (enc 0xD8000003 [(rd.val, 21), (ra.val, 16), (v.val, 10), (c.val, 4)])
  | .send rd ra k => some (enc 0xE0000000 [(rd.val, 21), (ra.val, 16), (k.toNat, 4)])
  | .recv rd ra off => some (enc 0xE0000001 [(rd.val, 21), (ra.val, 16), (off.toNat, 4)])
  | .rqn rd s => some (enc 0xE0000002 [(rd.val, 21), (s.val, 4)])
  | .tstart rd ra p rg => some (enc 0xE0000003 [(rd.val, 21), (ra.val, 16), (p.val, 9), (rg.val, 4)])
  | .prio rd ra => some (enc 0xE0000006 [(rd.val, 21), (ra.val, 16)])
  | .migr rd ra => some (enc 0xE0000007 [(rd.val, 21), (ra.val, 16)])
  | .htest rd ra => some (enc 0xE4000000 [(rd.val, 21), (ra.val, 16)])
  | .hpass rd ra => some (enc 0xE4000001 [(rd.val, 21), (ra.val, 16)])
  | .hcancel ra => some (enc 0xE4000002 [(ra.val, 16)])
  | .crd rd n => some (enc 0xE8000000 [(rd.val, 21), (n.val, 4)])
  | .tmark ra k => some (enc 0xE8000001 [(ra.val, 16), (k.val, 4)])
  | .srd rd n => some (enc 0xF0000000 [(rd.val, 21), (n.val, 4)])
  | .swr ra n => some (enc 0xF0000001 [(ra.val, 16), (n.val, 4)])
  | .icinv ra => some (enc 0xF0000003 [(ra.val, 16)])
  | .icinvG rd ra => some (enc 0xF0000004 [(rd.val, 21), (ra.val, 16)])
  | .brk c => some (enc 0xFC000000 [(c.toNat, 0)])
  | .nop => some (enc 0x0C000001 [])
  | .xfence => some (enc 0x84000001 [])
  | .texit => some (enc 0xE0000004 [])
  | .yield => some (enc 0xE0000005 [])
  | .barc => some (enc 0xE0000008 [])
  | .barg => some (enc 0xE0000009 [])
  | .barb => some (enc 0xE000000A [])
  | .eret => some (enc 0xF0000002 [])
  | .illegalWord => none
  | .trapEntry => none
  | .resultWrite => none
  | .mailboxMove => none
  | .rotationEnd => none
  | .vectorUnitAccept => none
  | .matrixStreamAccept => none
  | .matrixCommandFinish => none
  | .ringMove => none
  | .handleResolution => none
  | .depart => none
  | .arrive => none
  | .rnrRetry => none
  | .perform => none
  | .ldsPerform => none
  | .echo => none
  | .reply => none
  | .engine => none
  | .blockReadReturn => none
  | .copyChannelTake => none
  | .engineCommandComplete => none
  | .trayDepart => none
  | .trayCommandStart => none
  | .subscriptionTileLoad => none
  | .subscriptionTileStore => none
  | .subscriptionEnd => none
  | .dldReply => none
  | .collJoin => none
  | .collComplete => none
  | .caddyHomeArrival => none
  | .caddyShardCommand => none
  | .caddyMerge => none
  | .caddyClearApply => none
  | .flitCrcFail => none
  | .residencyBroadcast => none
  | .launchRecordTake => none
  | .dependencyMet => none
  | .gangDispatch => none
  | .residencyRequest => none
  | .blendReport => none
  | .startMessageArrival => none
  | .spillReturn => none
  | .bind => none
  | .park => none
  | .agingStep => none
  | .messageArrival => none
  | .sachetArrival => none
  | .migrAnswer => none
  | .barrierArrival => none
  | .barrierCompletion => none
  | .gangDetach => none
  | .hostInterrupt => none
  | .gangEnd => none
  | .drain => none
  | .abort => none
  | .preempt => none
  | .resume => none
  | .force => none
  | .reopen => none
  | .gangRestore => none
  | .tlbWalk => none
  | .pte => none
  | .inval => none
  | .revoke => none
  | .bufreg => none
  | .bufdel => none
  | .caddy => none
  | .icinvAck => none
  | .traceRecordWrite => none
  | .pcSample => none
  | .hostRequest => none
  | .reset => none
  | .attreq => none
  | .freeze => none
  | .freezecmd => none
  | .thermalTrip => none
  | .powerSample => none
  | .clockStepUp => none
  | .stop => none
  | .dbgctlResume => none
  | .registerWrite => none
  | .position => none
  | .cycle => none
  | .softError => none
  | .pageMove => none
  | .pageMoveEnd => none
  | .retrainingEnd => none
  | .residencyRelease => none

/-- Major opcode 0x01 (R44): BEQ, BNE, BLT, BGE, BLTU, BGEU. -/
def decodeOp01 (w : Nat) : Option Instr :=
  if bits w 13 3 = 0 then some (.beq (Fin.ofNat 32 (bits w 21 5)) (Fin.ofNat 32 (bits w 16 5)) (BitVec.ofNat 13 (bits w 0 13)))
  else if bits w 13 3 = 1 then some (.bne (Fin.ofNat 32 (bits w 21 5)) (Fin.ofNat 32 (bits w 16 5)) (BitVec.ofNat 13 (bits w 0 13)))
  else if bits w 13 3 = 2 then some (.blt (Fin.ofNat 32 (bits w 21 5)) (Fin.ofNat 32 (bits w 16 5)) (BitVec.ofNat 13 (bits w 0 13)))
  else if bits w 13 3 = 3 then some (.bge (Fin.ofNat 32 (bits w 21 5)) (Fin.ofNat 32 (bits w 16 5)) (BitVec.ofNat 13 (bits w 0 13)))
  else if bits w 13 3 = 4 then some (.bltu (Fin.ofNat 32 (bits w 21 5)) (Fin.ofNat 32 (bits w 16 5)) (BitVec.ofNat 13 (bits w 0 13)))
  else if bits w 13 3 = 5 then some (.bgeu (Fin.ofNat 32 (bits w 21 5)) (Fin.ofNat 32 (bits w 16 5)) (BitVec.ofNat 13 (bits w 0 13)))
  else none

/-- Major opcode 0x02 (R44): JAL. -/
def decodeOp02 (w : Nat) : Option Instr :=
  some (.jal (Fin.ofNat 32 (bits w 21 5)) (BitVec.ofNat 21 (bits w 0 21)))

/-- Major opcode 0x03 (R44): JALR, NOP. -/
def decodeOp03 (w : Nat) : Option Instr :=
  if bits w 0 16 = 0 then some (.jalr (Fin.ofNat 32 (bits w 21 5)) (Fin.ofNat 32 (bits w 16 5)))
  else if bits w 0 26 = 1 then some (.nop)
  else none

/-- Major opcode 0x04 (R44): ADD, SUB, ADDW, SUBW, AND, OR, XOR, ANDN, ORN, XNOR, SHL, SHR, SRA, ROL, ROR, SLT, SLTU, SEQ, SNE, MIN, MAX, MINU, MAXU, SELNZ, SELZ, SHADD1, SHADD2, SHADD3, SHADD4, MUL, MULH, MULHU, MULW, DIV, DIVU, REM, REMU, CLZ, CTZ, POPC, BREV, BSWAP, SEXTB, SEXTH, SEXTW, ZEXTW. -/
def decodeOp04 (w : Nat) : Option Instr :=
  if bits w 0 11 = 0 then some (.add (Fin.ofNat 32 (bits w 21 5)) (Fin.ofNat 32 (bits w 16 5)) (Fin.ofNat 32 (bits w 11 5)))
  else if bits w 0 11 = 1 then some (.sub (Fin.ofNat 32 (bits w 21 5)) (Fin.ofNat 32 (bits w 16 5)) (Fin.ofNat 32 (bits w 11 5)))
  else if bits w 0 11 = 2 then some (.addw (Fin.ofNat 32 (bits w 21 5)) (Fin.ofNat 32 (bits w 16 5)) (Fin.ofNat 32 (bits w 11 5)))
  else if bits w 0 11 = 3 then some (.subw (Fin.ofNat 32 (bits w 21 5)) (Fin.ofNat 32 (bits w 16 5)) (Fin.ofNat 32 (bits w 11 5)))
  else if bits w 0 11 = 4 then some (.and (Fin.ofNat 32 (bits w 21 5)) (Fin.ofNat 32 (bits w 16 5)) (Fin.ofNat 32 (bits w 11 5)))
  else if bits w 0 11 = 5 then some (.or (Fin.ofNat 32 (bits w 21 5)) (Fin.ofNat 32 (bits w 16 5)) (Fin.ofNat 32 (bits w 11 5)))
  else if bits w 0 11 = 6 then some (.xor (Fin.ofNat 32 (bits w 21 5)) (Fin.ofNat 32 (bits w 16 5)) (Fin.ofNat 32 (bits w 11 5)))
  else if bits w 0 11 = 7 then some (.andn (Fin.ofNat 32 (bits w 21 5)) (Fin.ofNat 32 (bits w 16 5)) (Fin.ofNat 32 (bits w 11 5)))
  else if bits w 0 11 = 8 then some (.orn (Fin.ofNat 32 (bits w 21 5)) (Fin.ofNat 32 (bits w 16 5)) (Fin.ofNat 32 (bits w 11 5)))
  else if bits w 0 11 = 9 then some (.xnor (Fin.ofNat 32 (bits w 21 5)) (Fin.ofNat 32 (bits w 16 5)) (Fin.ofNat 32 (bits w 11 5)))
  else if bits w 0 11 = 10 then some (.shl (Fin.ofNat 32 (bits w 21 5)) (Fin.ofNat 32 (bits w 16 5)) (Fin.ofNat 32 (bits w 11 5)))
  else if bits w 0 11 = 11 then some (.shr (Fin.ofNat 32 (bits w 21 5)) (Fin.ofNat 32 (bits w 16 5)) (Fin.ofNat 32 (bits w 11 5)))
  else if bits w 0 11 = 12 then some (.sra (Fin.ofNat 32 (bits w 21 5)) (Fin.ofNat 32 (bits w 16 5)) (Fin.ofNat 32 (bits w 11 5)))
  else if bits w 0 11 = 13 then some (.rol (Fin.ofNat 32 (bits w 21 5)) (Fin.ofNat 32 (bits w 16 5)) (Fin.ofNat 32 (bits w 11 5)))
  else if bits w 0 11 = 14 then some (.ror (Fin.ofNat 32 (bits w 21 5)) (Fin.ofNat 32 (bits w 16 5)) (Fin.ofNat 32 (bits w 11 5)))
  else if bits w 0 11 = 16 then some (.slt (Fin.ofNat 32 (bits w 21 5)) (Fin.ofNat 32 (bits w 16 5)) (Fin.ofNat 32 (bits w 11 5)))
  else if bits w 0 11 = 17 then some (.sltu (Fin.ofNat 32 (bits w 21 5)) (Fin.ofNat 32 (bits w 16 5)) (Fin.ofNat 32 (bits w 11 5)))
  else if bits w 0 11 = 18 then some (.seq (Fin.ofNat 32 (bits w 21 5)) (Fin.ofNat 32 (bits w 16 5)) (Fin.ofNat 32 (bits w 11 5)))
  else if bits w 0 11 = 19 then some (.sne (Fin.ofNat 32 (bits w 21 5)) (Fin.ofNat 32 (bits w 16 5)) (Fin.ofNat 32 (bits w 11 5)))
  else if bits w 0 11 = 20 then some (.min (Fin.ofNat 32 (bits w 21 5)) (Fin.ofNat 32 (bits w 16 5)) (Fin.ofNat 32 (bits w 11 5)))
  else if bits w 0 11 = 21 then some (.max (Fin.ofNat 32 (bits w 21 5)) (Fin.ofNat 32 (bits w 16 5)) (Fin.ofNat 32 (bits w 11 5)))
  else if bits w 0 11 = 22 then some (.minu (Fin.ofNat 32 (bits w 21 5)) (Fin.ofNat 32 (bits w 16 5)) (Fin.ofNat 32 (bits w 11 5)))
  else if bits w 0 11 = 23 then some (.maxu (Fin.ofNat 32 (bits w 21 5)) (Fin.ofNat 32 (bits w 16 5)) (Fin.ofNat 32 (bits w 11 5)))
  else if bits w 0 11 = 24 then some (.selnz (Fin.ofNat 32 (bits w 21 5)) (Fin.ofNat 32 (bits w 16 5)) (Fin.ofNat 32 (bits w 11 5)))
  else if bits w 0 11 = 25 then some (.selz (Fin.ofNat 32 (bits w 21 5)) (Fin.ofNat 32 (bits w 16 5)) (Fin.ofNat 32 (bits w 11 5)))
  else if bits w 0 11 = 26 then some (.shadd1 (Fin.ofNat 32 (bits w 21 5)) (Fin.ofNat 32 (bits w 16 5)) (Fin.ofNat 32 (bits w 11 5)))
  else if bits w 0 11 = 27 then some (.shadd2 (Fin.ofNat 32 (bits w 21 5)) (Fin.ofNat 32 (bits w 16 5)) (Fin.ofNat 32 (bits w 11 5)))
  else if bits w 0 11 = 28 then some (.shadd3 (Fin.ofNat 32 (bits w 21 5)) (Fin.ofNat 32 (bits w 16 5)) (Fin.ofNat 32 (bits w 11 5)))
  else if bits w 0 11 = 29 then some (.shadd4 (Fin.ofNat 32 (bits w 21 5)) (Fin.ofNat 32 (bits w 16 5)) (Fin.ofNat 32 (bits w 11 5)))
  else if bits w 0 11 = 32 then some (.mul (Fin.ofNat 32 (bits w 21 5)) (Fin.ofNat 32 (bits w 16 5)) (Fin.ofNat 32 (bits w 11 5)))
  else if bits w 0 11 = 33 then some (.mulh (Fin.ofNat 32 (bits w 21 5)) (Fin.ofNat 32 (bits w 16 5)) (Fin.ofNat 32 (bits w 11 5)))
  else if bits w 0 11 = 34 then some (.mulhu (Fin.ofNat 32 (bits w 21 5)) (Fin.ofNat 32 (bits w 16 5)) (Fin.ofNat 32 (bits w 11 5)))
  else if bits w 0 11 = 35 then some (.mulw (Fin.ofNat 32 (bits w 21 5)) (Fin.ofNat 32 (bits w 16 5)) (Fin.ofNat 32 (bits w 11 5)))
  else if bits w 0 7 = 40 then some (.div (Fin.ofNat 32 (bits w 21 5)) (Fin.ofNat 32 (bits w 16 5)) (Fin.ofNat 32 (bits w 11 5)) (Fin.ofNat 16 (bits w 7 4)))
  else if bits w 0 7 = 41 then some (.divu (Fin.ofNat 32 (bits w 21 5)) (Fin.ofNat 32 (bits w 16 5)) (Fin.ofNat 32 (bits w 11 5)) (Fin.ofNat 16 (bits w 7 4)))
  else if bits w 0 7 = 42 then some (.rem (Fin.ofNat 32 (bits w 21 5)) (Fin.ofNat 32 (bits w 16 5)) (Fin.ofNat 32 (bits w 11 5)) (Fin.ofNat 16 (bits w 7 4)))
  else if bits w 0 7 = 43 then some (.remu (Fin.ofNat 32 (bits w 21 5)) (Fin.ofNat 32 (bits w 16 5)) (Fin.ofNat 32 (bits w 11 5)) (Fin.ofNat 16 (bits w 7 4)))
  else if bits w 0 16 = 48 then some (.clz (Fin.ofNat 32 (bits w 21 5)) (Fin.ofNat 32 (bits w 16 5)))
  else if bits w 0 16 = 49 then some (.ctz (Fin.ofNat 32 (bits w 21 5)) (Fin.ofNat 32 (bits w 16 5)))
  else if bits w 0 16 = 50 then some (.popc (Fin.ofNat 32 (bits w 21 5)) (Fin.ofNat 32 (bits w 16 5)))
  else if bits w 0 16 = 51 then some (.brev (Fin.ofNat 32 (bits w 21 5)) (Fin.ofNat 32 (bits w 16 5)))
  else if bits w 0 16 = 52 then some (.bswap (Fin.ofNat 32 (bits w 21 5)) (Fin.ofNat 32 (bits w 16 5)))
  else if bits w 0 16 = 53 then some (.sextb (Fin.ofNat 32 (bits w 21 5)) (Fin.ofNat 32 (bits w 16 5)))
  else if bits w 0 16 = 54 then some (.sexth (Fin.ofNat 32 (bits w 21 5)) (Fin.ofNat 32 (bits w 16 5)))
  else if bits w 0 16 = 55 then some (.sextw (Fin.ofNat 32 (bits w 21 5)) (Fin.ofNat 32 (bits w 16 5)))
  else if bits w 0 16 = 56 then some (.zextw (Fin.ofNat 32 (bits w 21 5)) (Fin.ofNat 32 (bits w 16 5)))
  else none

/-- Major opcode 0x05 (R44): ADDI. -/
def decodeOp05 (w : Nat) : Option Instr :=
  some (.addi (Fin.ofNat 32 (bits w 21 5)) (Fin.ofNat 32 (bits w 16 5)) (BitVec.ofNat 16 (bits w 0 16)))

/-- Major opcode 0x06 (R44): ANDI. -/
def decodeOp06 (w : Nat) : Option Instr :=
  some (.andi (Fin.ofNat 32 (bits w 21 5)) (Fin.ofNat 32 (bits w 16 5)) (BitVec.ofNat 16 (bits w 0 16)))

/-- Major opcode 0x07 (R44): ORI. -/
def decodeOp07 (w : Nat) : Option Instr :=
  some (.ori (Fin.ofNat 32 (bits w 21 5)) (Fin.ofNat 32 (bits w 16 5)) (BitVec.ofNat 16 (bits w 0 16)))

/-- Major opcode 0x08 (R44): XORI. -/
def decodeOp08 (w : Nat) : Option Instr :=
  some (.xori (Fin.ofNat 32 (bits w 21 5)) (Fin.ofNat 32 (bits w 16 5)) (BitVec.ofNat 16 (bits w 0 16)))

/-- Major opcode 0x09 (R44): SLTI. -/
def decodeOp09 (w : Nat) : Option Instr :=
  some (.slti (Fin.ofNat 32 (bits w 21 5)) (Fin.ofNat 32 (bits w 16 5)) (BitVec.ofNat 16 (bits w 0 16)))

/-- Major opcode 0x0A (R44): SLTIU. -/
def decodeOp0A (w : Nat) : Option Instr :=
  some (.sltiu (Fin.ofNat 32 (bits w 21 5)) (Fin.ofNat 32 (bits w 16 5)) (BitVec.ofNat 16 (bits w 0 16)))

/-- Major opcode 0x0B (R44): MULI. -/
def decodeOp0B (w : Nat) : Option Instr :=
  some (.muli (Fin.ofNat 32 (bits w 21 5)) (Fin.ofNat 32 (bits w 16 5)) (BitVec.ofNat 16 (bits w 0 16)))

/-- Major opcode 0x0C (R44): SHLI, SHRI, SRAI, RORI. -/
def decodeOp0C (w : Nat) : Option Instr :=
  if bits w 6 10 = 0 then some (.shli (Fin.ofNat 32 (bits w 21 5)) (Fin.ofNat 32 (bits w 16 5)) (Fin.ofNat 64 (bits w 0 6)))
  else if bits w 6 10 = 1 then some (.shri (Fin.ofNat 32 (bits w 21 5)) (Fin.ofNat 32 (bits w 16 5)) (Fin.ofNat 64 (bits w 0 6)))
  else if bits w 6 10 = 2 then some (.srai (Fin.ofNat 32 (bits w 21 5)) (Fin.ofNat 32 (bits w 16 5)) (Fin.ofNat 64 (bits w 0 6)))
  else if bits w 6 10 = 3 then some (.rori (Fin.ofNat 32 (bits w 21 5)) (Fin.ofNat 32 (bits w 16 5)) (Fin.ofNat 64 (bits w 0 6)))
  else none

/-- Major opcode 0x0D (R44): INSH. -/
def decodeOp0D (w : Nat) : Option Instr :=
  if bits w 18 3 = 0 then some (.insh (Fin.ofNat 32 (bits w 21 5)) (Fin.ofNat 4 (bits w 16 2)) (BitVec.ofNat 16 (bits w 0 16)))
  else none

/-- Major opcode 0x10 (R44): FADD, FSUB, FMUL, FMAC, FDIV, FSQRT, FMIN, FMAX, FABS, FNEG, FEQ, FLT, FLE, FCLASS, FCVT_S_L, FCVT_S_LU, FCVT_L_S, FCVT_LU_S, FCVT_S_H, FCVT_H_S, FCVT_S_BF, FCVT_BF_S. -/
def decodeOp10 (w : Nat) : Option Instr :=
  if bits w 0 5 = 0 ∧ bits w 7 4 = 0 then some (.fadd (Fin.ofNat 32 (bits w 21 5)) (Fin.ofNat 32 (bits w 16 5)) (Fin.ofNat 32 (bits w 11 5)) (Rm.ofCode (bits w 5 2)))
  else if bits w 0 5 = 1 ∧ bits w 7 4 = 0 then some (.fsub (Fin.ofNat 32 (bits w 21 5)) (Fin.ofNat 32 (bits w 16 5)) (Fin.ofNat 32 (bits w 11 5)) (Rm.ofCode (bits w 5 2)))
  else if bits w 0 5 = 2 ∧ bits w 7 4 = 0 then some (.fmul (Fin.ofNat 32 (bits w 21 5)) (Fin.ofNat 32 (bits w 16 5)) (Fin.ofNat 32 (bits w 11 5)) (Rm.ofCode (bits w 5 2)))
  else if bits w 0 5 = 3 ∧ bits w 7 4 = 0 then some (.fmac (Fin.ofNat 32 (bits w 21 5)) (Fin.ofNat 32 (bits w 16 5)) (Fin.ofNat 32 (bits w 11 5)) (Rm.ofCode (bits w 5 2)))
  else if bits w 0 5 = 4 then some (.fdiv (Fin.ofNat 32 (bits w 21 5)) (Fin.ofNat 32 (bits w 16 5)) (Fin.ofNat 32 (bits w 11 5)) (Fin.ofNat 16 (bits w 7 4)) (Rm.ofCode (bits w 5 2)))
  else if bits w 0 5 = 5 ∧ bits w 11 5 = 0 then some (.fsqrt (Fin.ofNat 32 (bits w 21 5)) (Fin.ofNat 32 (bits w 16 5)) (Fin.ofNat 16 (bits w 7 4)) (Rm.ofCode (bits w 5 2)))
  else if bits w 0 11 = 6 then some (.fmin (Fin.ofNat 32 (bits w 21 5)) (Fin.ofNat 32 (bits w 16 5)) (Fin.ofNat 32 (bits w 11 5)))
  else if bits w 0 11 = 7 then some (.fmax (Fin.ofNat 32 (bits w 21 5)) (Fin.ofNat 32 (bits w 16 5)) (Fin.ofNat 32 (bits w 11 5)))
  else if bits w 0 16 = 8 then some (.fabs (Fin.ofNat 32 (bits w 21 5)) (Fin.ofNat 32 (bits w 16 5)))
  else if bits w 0 16 = 9 then some (.fneg (Fin.ofNat 32 (bits w 21 5)) (Fin.ofNat 32 (bits w 16 5)))
  else if bits w 0 11 = 10 then some (.feq (Fin.ofNat 32 (bits w 21 5)) (Fin.ofNat 32 (bits w 16 5)) (Fin.ofNat 32 (bits w 11 5)))
  else if bits w 0 11 = 11 then some (.flt (Fin.ofNat 32 (bits w 21 5)) (Fin.ofNat 32 (bits w 16 5)) (Fin.ofNat 32 (bits w 11 5)))
  else if bits w 0 11 = 12 then some (.fle (Fin.ofNat 32 (bits w 21 5)) (Fin.ofNat 32 (bits w 16 5)) (Fin.ofNat 32 (bits w 11 5)))
  else if bits w 0 16 = 13 then some (.fclass (Fin.ofNat 32 (bits w 21 5)) (Fin.ofNat 32 (bits w 16 5)))
  else if bits w 0 5 = 14 ∧ bits w 7 9 = 0 then some (.fcvtSL (Fin.ofNat 32 (bits w 21 5)) (Fin.ofNat 32 (bits w 16 5)) (Rm.ofCode (bits w 5 2)))
  else if bits w 0 5 = 15 ∧ bits w 7 9 = 0 then some (.fcvtSLU (Fin.ofNat 32 (bits w 21 5)) (Fin.ofNat 32 (bits w 16 5)) (Rm.ofCode (bits w 5 2)))
  else if bits w 0 5 = 16 ∧ bits w 7 9 = 0 then some (.fcvtLS (Fin.ofNat 32 (bits w 21 5)) (Fin.ofNat 32 (bits w 16 5)) (Rm.ofCode (bits w 5 2)))
  else if bits w 0 5 = 17 ∧ bits w 7 9 = 0 then some (.fcvtLUS (Fin.ofNat 32 (bits w 21 5)) (Fin.ofNat 32 (bits w 16 5)) (Rm.ofCode (bits w 5 2)))
  else if bits w 0 16 = 18 then some (.fcvtSH (Fin.ofNat 32 (bits w 21 5)) (Fin.ofNat 32 (bits w 16 5)))
  else if bits w 0 5 = 19 ∧ bits w 7 9 = 0 then some (.fcvtHS (Fin.ofNat 32 (bits w 21 5)) (Fin.ofNat 32 (bits w 16 5)) (Rm.ofCode (bits w 5 2)))
  else if bits w 0 16 = 20 then some (.fcvtSBF (Fin.ofNat 32 (bits w 21 5)) (Fin.ofNat 32 (bits w 16 5)))
  else if bits w 0 5 = 21 ∧ bits w 7 9 = 0 then some (.fcvtBFS (Fin.ofNat 32 (bits w 21 5)) (Fin.ofNat 32 (bits w 16 5)) (Rm.ofCode (bits w 5 2)))
  else none

/-- Major opcode 0x14 (R44): LD. -/
def decodeOp14 (w : Nat) : Option Instr :=
  if bits w 8 2 = 0 then some (.ld (Fin.ofNat 32 (bits w 21 5)) (Fin.ofNat 32 (bits w 16 5)) (Fin.ofNat 16 (bits w 12 4)) (Fin.ofNat 4 (bits w 10 2)) (decide (bits w 7 1 = 1)) (BitVec.ofNat 7 (bits w 0 7)))
  else none

/-- Major opcode 0x15 (R44): LD_ACQ. -/
def decodeOp15 (w : Nat) : Option Instr :=
  (Scope.ofCode? (bits w 7 3)).bind fun c => some (.ldAcq (Fin.ofNat 32 (bits w 21 5)) (Fin.ofNat 32 (bits w 16 5)) (Fin.ofNat 16 (bits w 12 4)) (Fin.ofNat 4 (bits w 10 2)) c (BitVec.ofNat 7 (bits w 0 7)))

/-- Major opcode 0x16 (R44): ST, STF. -/
def decodeOp16 (w : Nat) : Option Instr :=
  if bits w 7 3 = 0 ∧ bits w 12 4 = 0 then some (.st (Fin.ofNat 32 (bits w 21 5)) (Fin.ofNat 32 (bits w 16 5)) (Fin.ofNat 4 (bits w 10 2)) (BitVec.ofNat 7 (bits w 0 7)))
  else if bits w 7 3 = 1 ∧ bits w 12 4 = 0 then some (.stf (Fin.ofNat 32 (bits w 21 5)) (Fin.ofNat 32 (bits w 16 5)) (Fin.ofNat 4 (bits w 10 2)) (BitVec.ofNat 7 (bits w 0 7)))
  else none

/-- Major opcode 0x17 (R44): ST_REL. -/
def decodeOp17 (w : Nat) : Option Instr :=
  if bits w 12 4 = 0 then (Scope.ofCode? (bits w 7 3)).bind fun c => some (.stRel (Fin.ofNat 32 (bits w 21 5)) (Fin.ofNat 32 (bits w 16 5)) (Fin.ofNat 4 (bits w 10 2)) c (BitVec.ofNat 7 (bits w 0 7)))
  else none

/-- Major opcode 0x18 (R44): LDS. -/
def decodeOp18 (w : Nat) : Option Instr :=
  if bits w 8 2 = 0 then some (.lds (Fin.ofNat 32 (bits w 21 5)) (Fin.ofNat 32 (bits w 16 5)) (Fin.ofNat 16 (bits w 12 4)) (Fin.ofNat 4 (bits w 10 2)) (decide (bits w 7 1 = 1)) (BitVec.ofNat 7 (bits w 0 7)))
  else none

/-- Major opcode 0x19 (R44): LDF. -/
def decodeOp19 (w : Nat) : Option Instr :=
  if bits w 7 3 = 0 ∧ bits w 12 4 = 0 then some (.ldf (Fin.ofNat 32 (bits w 21 5)) (Fin.ofNat 32 (bits w 16 5)) (Fin.ofNat 4 (bits w 10 2)) (BitVec.ofNat 7 (bits w 0 7)))
  else none

/-- Major opcode 0x1A (R44): VLD. -/
def decodeOp1A (w : Nat) : Option Instr :=
  if bits w 10 2 = 2 ∧ bits w 25 1 = 0 then some (.vld (Fin.ofNat 16 (bits w 21 4)) (Fin.ofNat 32 (bits w 16 5)) (Fin.ofNat 16 (bits w 12 4)) (Fin.ofNat 8 (bits w 7 3)) (BitVec.ofNat 7 (bits w 0 7)))
  else none

/-- Major opcode 0x1B (R44): VLDS, VSTS, VLDI, VSTI. -/
def decodeOp1B (w : Nat) : Option Instr :=
  if bits w 0 4 = 8 ∧ bits w 25 1 = 0 then some (.vlds (Fin.ofNat 16 (bits w 21 4)) (Fin.ofNat 32 (bits w 16 5)) (Fin.ofNat 32 (bits w 11 5)) (Fin.ofNat 16 (bits w 7 4)) (Fin.ofNat 8 (bits w 4 3)))
  else if bits w 0 4 = 9 ∧ bits w 7 4 = 0 ∧ bits w 25 1 = 0 then some (.vsts (Fin.ofNat 16 (bits w 21 4)) (Fin.ofNat 32 (bits w 16 5)) (Fin.ofNat 32 (bits w 11 5)) (Fin.ofNat 8 (bits w 4 3)))
  else if bits w 0 4 = 10 ∧ bits w 15 1 = 0 ∧ bits w 25 1 = 0 then some (.vldi (Fin.ofNat 16 (bits w 21 4)) (Fin.ofNat 32 (bits w 16 5)) (Fin.ofNat 16 (bits w 11 4)) (Fin.ofNat 16 (bits w 7 4)) (Fin.ofNat 8 (bits w 4 3)))
  else if bits w 0 4 = 11 ∧ bits w 7 4 = 0 ∧ bits w 15 1 = 0 ∧ bits w 25 1 = 0 then some (.vsti (Fin.ofNat 16 (bits w 21 4)) (Fin.ofNat 32 (bits w 16 5)) (Fin.ofNat 16 (bits w 11 4)) (Fin.ofNat 8 (bits w 4 3)))
  else none

/-- Major opcode 0x1C (R44): VST. -/
def decodeOp1C (w : Nat) : Option Instr :=
  if bits w 10 6 = 2 ∧ bits w 25 1 = 0 then some (.vst (Fin.ofNat 16 (bits w 21 4)) (Fin.ofNat 32 (bits w 16 5)) (Fin.ofNat 8 (bits w 7 3)) (BitVec.ofNat 7 (bits w 0 7)))
  else none

/-- Major opcode 0x1E (R44): ASWAP_W, AADD_W, AAND_W, AOR_W, AXOR_W, AMIN_W, AMAX_W, AMINU_W, AMAXU_W, AFADD, ACAS_W. -/
def decodeOp1E (w : Nat) : Option Instr :=
  if bits w 0 4 = 0 then (Scope.ofCode? (bits w 4 3)).bind fun c => some (.aswapW (Fin.ofNat 32 (bits w 21 5)) (Fin.ofNat 32 (bits w 16 5)) (Fin.ofNat 32 (bits w 11 5)) (Fin.ofNat 16 (bits w 7 4)) c)
  else if bits w 0 4 = 1 then (Scope.ofCode? (bits w 4 3)).bind fun c => some (.aaddW (Fin.ofNat 32 (bits w 21 5)) (Fin.ofNat 32 (bits w 16 5)) (Fin.ofNat 32 (bits w 11 5)) (Fin.ofNat 16 (bits w 7 4)) c)
  else if bits w 0 4 = 2 then (Scope.ofCode? (bits w 4 3)).bind fun c => some (.aandW (Fin.ofNat 32 (bits w 21 5)) (Fin.ofNat 32 (bits w 16 5)) (Fin.ofNat 32 (bits w 11 5)) (Fin.ofNat 16 (bits w 7 4)) c)
  else if bits w 0 4 = 3 then (Scope.ofCode? (bits w 4 3)).bind fun c => some (.aorW (Fin.ofNat 32 (bits w 21 5)) (Fin.ofNat 32 (bits w 16 5)) (Fin.ofNat 32 (bits w 11 5)) (Fin.ofNat 16 (bits w 7 4)) c)
  else if bits w 0 4 = 4 then (Scope.ofCode? (bits w 4 3)).bind fun c => some (.axorW (Fin.ofNat 32 (bits w 21 5)) (Fin.ofNat 32 (bits w 16 5)) (Fin.ofNat 32 (bits w 11 5)) (Fin.ofNat 16 (bits w 7 4)) c)
  else if bits w 0 4 = 5 then (Scope.ofCode? (bits w 4 3)).bind fun c => some (.aminW (Fin.ofNat 32 (bits w 21 5)) (Fin.ofNat 32 (bits w 16 5)) (Fin.ofNat 32 (bits w 11 5)) (Fin.ofNat 16 (bits w 7 4)) c)
  else if bits w 0 4 = 6 then (Scope.ofCode? (bits w 4 3)).bind fun c => some (.amaxW (Fin.ofNat 32 (bits w 21 5)) (Fin.ofNat 32 (bits w 16 5)) (Fin.ofNat 32 (bits w 11 5)) (Fin.ofNat 16 (bits w 7 4)) c)
  else if bits w 0 4 = 7 then (Scope.ofCode? (bits w 4 3)).bind fun c => some (.aminuW (Fin.ofNat 32 (bits w 21 5)) (Fin.ofNat 32 (bits w 16 5)) (Fin.ofNat 32 (bits w 11 5)) (Fin.ofNat 16 (bits w 7 4)) c)
  else if bits w 0 4 = 8 then (Scope.ofCode? (bits w 4 3)).bind fun c => some (.amaxuW (Fin.ofNat 32 (bits w 21 5)) (Fin.ofNat 32 (bits w 16 5)) (Fin.ofNat 32 (bits w 11 5)) (Fin.ofNat 16 (bits w 7 4)) c)
  else if bits w 0 4 = 9 then (Scope.ofCode? (bits w 4 3)).bind fun c => some (.afadd (Fin.ofNat 32 (bits w 21 5)) (Fin.ofNat 32 (bits w 16 5)) (Fin.ofNat 32 (bits w 11 5)) (Fin.ofNat 16 (bits w 7 4)) c)
  else if bits w 0 4 = 10 then (Scope.ofCode? (bits w 4 3)).bind fun c => some (.acasW (Fin.ofNat 32 (bits w 21 5)) (Fin.ofNat 32 (bits w 16 5)) (Fin.ofNat 32 (bits w 11 5)) (Fin.ofNat 16 (bits w 7 4)) c)
  else none

/-- Major opcode 0x1F (R44): ASWAP_D, AADD_D, AAND_D, AOR_D, AXOR_D, AMIN_D, AMAX_D, AMINU_D, AMAXU_D, ACAS_D. -/
def decodeOp1F (w : Nat) : Option Instr :=
  if bits w 0 4 = 0 then (Scope.ofCode? (bits w 4 3)).bind fun c => some (.aswapD (Fin.ofNat 32 (bits w 21 5)) (Fin.ofNat 32 (bits w 16 5)) (Fin.ofNat 32 (bits w 11 5)) (Fin.ofNat 16 (bits w 7 4)) c)
  else if bits w 0 4 = 1 then (Scope.ofCode? (bits w 4 3)).bind fun c => some (.aaddD (Fin.ofNat 32 (bits w 21 5)) (Fin.ofNat 32 (bits w 16 5)) (Fin.ofNat 32 (bits w 11 5)) (Fin.ofNat 16 (bits w 7 4)) c)
  else if bits w 0 4 = 2 then (Scope.ofCode? (bits w 4 3)).bind fun c => some (.aandD (Fin.ofNat 32 (bits w 21 5)) (Fin.ofNat 32 (bits w 16 5)) (Fin.ofNat 32 (bits w 11 5)) (Fin.ofNat 16 (bits w 7 4)) c)
  else if bits w 0 4 = 3 then (Scope.ofCode? (bits w 4 3)).bind fun c => some (.aorD (Fin.ofNat 32 (bits w 21 5)) (Fin.ofNat 32 (bits w 16 5)) (Fin.ofNat 32 (bits w 11 5)) (Fin.ofNat 16 (bits w 7 4)) c)
  else if bits w 0 4 = 4 then (Scope.ofCode? (bits w 4 3)).bind fun c => some (.axorD (Fin.ofNat 32 (bits w 21 5)) (Fin.ofNat 32 (bits w 16 5)) (Fin.ofNat 32 (bits w 11 5)) (Fin.ofNat 16 (bits w 7 4)) c)
  else if bits w 0 4 = 5 then (Scope.ofCode? (bits w 4 3)).bind fun c => some (.aminD (Fin.ofNat 32 (bits w 21 5)) (Fin.ofNat 32 (bits w 16 5)) (Fin.ofNat 32 (bits w 11 5)) (Fin.ofNat 16 (bits w 7 4)) c)
  else if bits w 0 4 = 6 then (Scope.ofCode? (bits w 4 3)).bind fun c => some (.amaxD (Fin.ofNat 32 (bits w 21 5)) (Fin.ofNat 32 (bits w 16 5)) (Fin.ofNat 32 (bits w 11 5)) (Fin.ofNat 16 (bits w 7 4)) c)
  else if bits w 0 4 = 7 then (Scope.ofCode? (bits w 4 3)).bind fun c => some (.aminuD (Fin.ofNat 32 (bits w 21 5)) (Fin.ofNat 32 (bits w 16 5)) (Fin.ofNat 32 (bits w 11 5)) (Fin.ofNat 16 (bits w 7 4)) c)
  else if bits w 0 4 = 8 then (Scope.ofCode? (bits w 4 3)).bind fun c => some (.amaxuD (Fin.ofNat 32 (bits w 21 5)) (Fin.ofNat 32 (bits w 16 5)) (Fin.ofNat 32 (bits w 11 5)) (Fin.ofNat 16 (bits w 7 4)) c)
  else if bits w 0 4 = 10 then (Scope.ofCode? (bits w 4 3)).bind fun c => some (.acasD (Fin.ofNat 32 (bits w 21 5)) (Fin.ofNat 32 (bits w 16 5)) (Fin.ofNat 32 (bits w 11 5)) (Fin.ofNat 16 (bits w 7 4)) c)
  else none

/-- Major opcode 0x20 (R44): ASWAP_Q, ACAS_Q. -/
def decodeOp20 (w : Nat) : Option Instr :=
  if bits w 0 4 = 0 ∧ bits w 11 1 = 0 ∧ bits w 21 1 = 0 then (Scope.ofCode? (bits w 4 3)).bind fun c => some (.aswapQ (Fin.ofNat 16 (bits w 22 4)) (Fin.ofNat 32 (bits w 16 5)) (Fin.ofNat 16 (bits w 12 4)) (Fin.ofNat 16 (bits w 7 4)) c)
  else if bits w 0 4 = 10 ∧ bits w 11 1 = 0 ∧ bits w 21 1 = 0 then (Scope.ofCode? (bits w 4 3)).bind fun c => some (.acasQ (Fin.ofNat 16 (bits w 22 4)) (Fin.ofNat 32 (bits w 16 5)) (Fin.ofNat 16 (bits w 12 4)) (Fin.ofNat 16 (bits w 7 4)) c)
  else none

/-- Major opcode 0x21 (R44): FENCE, FECLR, XFENCE. -/
def decodeOp21 (w : Nat) : Option Instr :=
  if bits w 0 4 = 0 ∧ bits w 7 19 = 0 then (Scope.ofCode? (bits w 4 3)).bind fun c => some (.fence c)
  else if bits w 0 16 = 2 then some (.feclr (Fin.ofNat 32 (bits w 21 5)) (Fin.ofNat 32 (bits w 16 5)))
  else if bits w 0 26 = 1 then some (.xfence)
  else none

/-- Major opcode 0x22 (R44): FSET, FCLR, FTST, FWAIT. -/
def decodeOp22 (w : Nat) : Option Instr :=
  if bits w 0 4 = 0 ∧ bits w 14 2 = 0 ∧ bits w 21 5 = 0 then some (.fset (Fin.ofNat 32 (bits w 16 5)) (Fin.ofNat 1024 (bits w 4 10)))
  else if bits w 0 4 = 1 ∧ bits w 14 2 = 0 ∧ bits w 21 5 = 0 then some (.fclr (Fin.ofNat 32 (bits w 16 5)) (Fin.ofNat 1024 (bits w 4 10)))
  else if bits w 0 4 = 2 ∧ bits w 14 2 = 0 then some (.ftst (Fin.ofNat 32 (bits w 21 5)) (Fin.ofNat 32 (bits w 16 5)) (Fin.ofNat 1024 (bits w 4 10)))
  else if bits w 0 4 = 3 ∧ bits w 15 1 = 0 ∧ bits w 21 5 = 0 then some (.fwait (Fin.ofNat 32 (bits w 16 5)) (decide (bits w 14 1 = 1)) (Fin.ofNat 1024 (bits w 4 10)))
  else none

/-- Major opcode 0x24 (R44): VFADD, VFSUB, VFMUL, VFMA, VFMIN, VFMAX, VFABS, VFNEG, VFDIV, VFSQRT, VRCP, VRSQ, VEXP2. -/
def decodeOp24 (w : Nat) : Option Instr :=
  if bits w 0 5 = 0 then some (.vfadd (Fin.ofNat 16 (bits w 22 4)) (Fin.ofNat 16 (bits w 18 4)) (Fin.ofNat 16 (bits w 14 4)) (Fin.ofNat 8 (bits w 11 3)) (Fin.ofNat 16 (bits w 7 4)) (Rm.ofCode (bits w 5 2)))
  else if bits w 0 5 = 1 then some (.vfsub (Fin.ofNat 16 (bits w 22 4)) (Fin.ofNat 16 (bits w 18 4)) (Fin.ofNat 16 (bits w 14 4)) (Fin.ofNat 8 (bits w 11 3)) (Fin.ofNat 16 (bits w 7 4)) (Rm.ofCode (bits w 5 2)))
  else if bits w 0 5 = 2 then some (.vfmul (Fin.ofNat 16 (bits w 22 4)) (Fin.ofNat 16 (bits w 18 4)) (Fin.ofNat 16 (bits w 14 4)) (Fin.ofNat 8 (bits w 11 3)) (Fin.ofNat 16 (bits w 7 4)) (Rm.ofCode (bits w 5 2)))
  else if bits w 0 5 = 3 then some (.vfma (Fin.ofNat 16 (bits w 22 4)) (Fin.ofNat 16 (bits w 18 4)) (Fin.ofNat 16 (bits w 14 4)) (Fin.ofNat 8 (bits w 11 3)) (Fin.ofNat 16 (bits w 7 4)) (Rm.ofCode (bits w 5 2)))
  else if bits w 0 7 = 4 then some (.vfmin (Fin.ofNat 16 (bits w 22 4)) (Fin.ofNat 16 (bits w 18 4)) (Fin.ofNat 16 (bits w 14 4)) (Fin.ofNat 8 (bits w 11 3)) (Fin.ofNat 16 (bits w 7 4)))
  else if bits w 0 7 = 5 then some (.vfmax (Fin.ofNat 16 (bits w 22 4)) (Fin.ofNat 16 (bits w 18 4)) (Fin.ofNat 16 (bits w 14 4)) (Fin.ofNat 8 (bits w 11 3)) (Fin.ofNat 16 (bits w 7 4)))
  else if bits w 0 7 = 6 ∧ bits w 14 4 = 0 then some (.vfabs (Fin.ofNat 16 (bits w 22 4)) (Fin.ofNat 16 (bits w 18 4)) (Fin.ofNat 8 (bits w 11 3)) (Fin.ofNat 16 (bits w 7 4)))
  else if bits w 0 7 = 7 ∧ bits w 14 4 = 0 then some (.vfneg (Fin.ofNat 16 (bits w 22 4)) (Fin.ofNat 16 (bits w 18 4)) (Fin.ofNat 8 (bits w 11 3)) (Fin.ofNat 16 (bits w 7 4)))
  else if bits w 0 5 = 8 then some (.vfdiv (Fin.ofNat 16 (bits w 22 4)) (Fin.ofNat 16 (bits w 18 4)) (Fin.ofNat 16 (bits w 14 4)) (Fin.ofNat 8 (bits w 11 3)) (Fin.ofNat 16 (bits w 7 4)) (Rm.ofCode (bits w 5 2)))
  else if bits w 0 5 = 9 ∧ bits w 14 4 = 0 then some (.vfsqrt (Fin.ofNat 16 (bits w 22 4)) (Fin.ofNat 16 (bits w 18 4)) (Fin.ofNat 8 (bits w 11 3)) (Fin.ofNat 16 (bits w 7 4)) (Rm.ofCode (bits w 5 2)))
  else if bits w 0 7 = 10 ∧ bits w 14 4 = 0 then some (.vrcp (Fin.ofNat 16 (bits w 22 4)) (Fin.ofNat 16 (bits w 18 4)) (Fin.ofNat 8 (bits w 11 3)) (Fin.ofNat 16 (bits w 7 4)))
  else if bits w 0 7 = 11 ∧ bits w 14 4 = 0 then some (.vrsq (Fin.ofNat 16 (bits w 22 4)) (Fin.ofNat 16 (bits w 18 4)) (Fin.ofNat 8 (bits w 11 3)) (Fin.ofNat 16 (bits w 7 4)))
  else if bits w 0 7 = 12 ∧ bits w 14 4 = 0 then some (.vexp2 (Fin.ofNat 16 (bits w 22 4)) (Fin.ofNat 16 (bits w 18 4)) (Fin.ofNat 8 (bits w 11 3)) (Fin.ofNat 16 (bits w 7 4)))
  else none

/-- Major opcode 0x25 (R44): VADD, VSUB, VMUL, VMIN, VMAX, VMINU, VMAXU, VAND, VOR, VXOR, VSHL, VSHR, VSRA, VADDS, VSUBS, VADDUS, VSUBUS, VABS. -/
def decodeOp25 (w : Nat) : Option Instr :=
  if bits w 0 5 = 0 then (Width.ofCode? (bits w 5 2)).bind fun wd => some (.vadd (Fin.ofNat 16 (bits w 22 4)) (Fin.ofNat 16 (bits w 18 4)) (Fin.ofNat 16 (bits w 14 4)) (Fin.ofNat 8 (bits w 11 3)) (Fin.ofNat 16 (bits w 7 4)) wd)
  else if bits w 0 5 = 1 then (Width.ofCode? (bits w 5 2)).bind fun wd => some (.vsub (Fin.ofNat 16 (bits w 22 4)) (Fin.ofNat 16 (bits w 18 4)) (Fin.ofNat 16 (bits w 14 4)) (Fin.ofNat 8 (bits w 11 3)) (Fin.ofNat 16 (bits w 7 4)) wd)
  else if bits w 0 5 = 2 then (Width.ofCode? (bits w 5 2)).bind fun wd => some (.vmul (Fin.ofNat 16 (bits w 22 4)) (Fin.ofNat 16 (bits w 18 4)) (Fin.ofNat 16 (bits w 14 4)) (Fin.ofNat 8 (bits w 11 3)) (Fin.ofNat 16 (bits w 7 4)) wd)
  else if bits w 0 5 = 3 then (Width.ofCode? (bits w 5 2)).bind fun wd => some (.vmin (Fin.ofNat 16 (bits w 22 4)) (Fin.ofNat 16 (bits w 18 4)) (Fin.ofNat 16 (bits w 14 4)) (Fin.ofNat 8 (bits w 11 3)) (Fin.ofNat 16 (bits w 7 4)) wd)
  else if bits w 0 5 = 4 then (Width.ofCode? (bits w 5 2)).bind fun wd => some (.vmax (Fin.ofNat 16 (bits w 22 4)) (Fin.ofNat 16 (bits w 18 4)) (Fin.ofNat 16 (bits w 14 4)) (Fin.ofNat 8 (bits w 11 3)) (Fin.ofNat 16 (bits w 7 4)) wd)
  else if bits w 0 5 = 5 then (Width.ofCode? (bits w 5 2)).bind fun wd => some (.vminu (Fin.ofNat 16 (bits w 22 4)) (Fin.ofNat 16 (bits w 18 4)) (Fin.ofNat 16 (bits w 14 4)) (Fin.ofNat 8 (bits w 11 3)) (Fin.ofNat 16 (bits w 7 4)) wd)
  else if bits w 0 5 = 6 then (Width.ofCode? (bits w 5 2)).bind fun wd => some (.vmaxu (Fin.ofNat 16 (bits w 22 4)) (Fin.ofNat 16 (bits w 18 4)) (Fin.ofNat 16 (bits w 14 4)) (Fin.ofNat 8 (bits w 11 3)) (Fin.ofNat 16 (bits w 7 4)) wd)
  else if bits w 0 5 = 7 then (Width.ofCode? (bits w 5 2)).bind fun wd => some (.vand (Fin.ofNat 16 (bits w 22 4)) (Fin.ofNat 16 (bits w 18 4)) (Fin.ofNat 16 (bits w 14 4)) (Fin.ofNat 8 (bits w 11 3)) (Fin.ofNat 16 (bits w 7 4)) wd)
  else if bits w 0 5 = 8 then (Width.ofCode? (bits w 5 2)).bind fun wd => some (.vor (Fin.ofNat 16 (bits w 22 4)) (Fin.ofNat 16 (bits w 18 4)) (Fin.ofNat 16 (bits w 14 4)) (Fin.ofNat 8 (bits w 11 3)) (Fin.ofNat 16 (bits w 7 4)) wd)
  else if bits w 0 5 = 9 then (Width.ofCode? (bits w 5 2)).bind fun wd => some (.vxor (Fin.ofNat 16 (bits w 22 4)) (Fin.ofNat 16 (bits w 18 4)) (Fin.ofNat 16 (bits w 14 4)) (Fin.ofNat 8 (bits w 11 3)) (Fin.ofNat 16 (bits w 7 4)) wd)
  else if bits w 0 5 = 10 then (Width.ofCode? (bits w 5 2)).bind fun wd => some (.vshl (Fin.ofNat 16 (bits w 22 4)) (Fin.ofNat 16 (bits w 18 4)) (Fin.ofNat 16 (bits w 14 4)) (Fin.ofNat 8 (bits w 11 3)) (Fin.ofNat 16 (bits w 7 4)) wd)
  else if bits w 0 5 = 11 then (Width.ofCode? (bits w 5 2)).bind fun wd => some (.vshr (Fin.ofNat 16 (bits w 22 4)) (Fin.ofNat 16 (bits w 18 4)) (Fin.ofNat 16 (bits w 14 4)) (Fin.ofNat 8 (bits w 11 3)) (Fin.ofNat 16 (bits w 7 4)) wd)
  else if bits w 0 5 = 12 then (Width.ofCode? (bits w 5 2)).bind fun wd => some (.vsra (Fin.ofNat 16 (bits w 22 4)) (Fin.ofNat 16 (bits w 18 4)) (Fin.ofNat 16 (bits w 14 4)) (Fin.ofNat 8 (bits w 11 3)) (Fin.ofNat 16 (bits w 7 4)) wd)
  else if bits w 0 5 = 13 then (Width.ofCode? (bits w 5 2)).bind fun wd => some (.vadds (Fin.ofNat 16 (bits w 22 4)) (Fin.ofNat 16 (bits w 18 4)) (Fin.ofNat 16 (bits w 14 4)) (Fin.ofNat 8 (bits w 11 3)) (Fin.ofNat 16 (bits w 7 4)) wd)
  else if bits w 0 5 = 14 then (Width.ofCode? (bits w 5 2)).bind fun wd => some (.vsubs (Fin.ofNat 16 (bits w 22 4)) (Fin.ofNat 16 (bits w 18 4)) (Fin.ofNat 16 (bits w 14 4)) (Fin.ofNat 8 (bits w 11 3)) (Fin.ofNat 16 (bits w 7 4)) wd)
  else if bits w 0 5 = 15 then (Width.ofCode? (bits w 5 2)).bind fun wd => some (.vaddus (Fin.ofNat 16 (bits w 22 4)) (Fin.ofNat 16 (bits w 18 4)) (Fin.ofNat 16 (bits w 14 4)) (Fin.ofNat 8 (bits w 11 3)) (Fin.ofNat 16 (bits w 7 4)) wd)
  else if bits w 0 5 = 16 then (Width.ofCode? (bits w 5 2)).bind fun wd => some (.vsubus (Fin.ofNat 16 (bits w 22 4)) (Fin.ofNat 16 (bits w 18 4)) (Fin.ofNat 16 (bits w 14 4)) (Fin.ofNat 8 (bits w 11 3)) (Fin.ofNat 16 (bits w 7 4)) wd)
  else if bits w 0 5 = 17 ∧ bits w 14 4 = 0 then (Width.ofCode? (bits w 5 2)).bind fun wd => some (.vabs (Fin.ofNat 16 (bits w 22 4)) (Fin.ofNat 16 (bits w 18 4)) (Fin.ofNat 8 (bits w 11 3)) (Fin.ofNat 16 (bits w 7 4)) wd)
  else none

/-- Major opcode 0x26 (R44): VCMP. -/
def decodeOp26 (w : Nat) : Option Instr :=
  if bits w 25 1 = 0 then (CmpType.ofCode? (bits w 5 2)).bind fun t => (Cond.ofCode? (bits w 0 5)).bind fun c => some (.vcmp (Fin.ofNat 8 (bits w 22 3)) (Fin.ofNat 16 (bits w 18 4)) (Fin.ofNat 16 (bits w 14 4)) (Fin.ofNat 8 (bits w 11 3)) (Fin.ofNat 16 (bits w 7 4)) t c)
  else none

/-- Major opcode 0x27 (R44): VCVT. -/
def decodeOp27 (w : Nat) : Option Instr :=
  if bits w 16 2 = 0 then some (.vcvt (Fin.ofNat 16 (bits w 22 4)) (Fin.ofNat 16 (bits w 18 4)) (Fin.ofNat 4 (bits w 14 2)) (Fin.ofNat 8 (bits w 11 3)) (Fin.ofNat 16 (bits w 7 4)) (Rm.ofCode (bits w 5 2)) (Fin.ofNat 32 (bits w 0 5)))
  else none

/-- Major opcode 0x28 (R44): VPERM, VSEL, VZIP, VUNZIP, VCOMPRESS, VEXPAND. -/
def decodeOp28 (w : Nat) : Option Instr :=
  if bits w 0 7 = 0 then some (.vperm (Fin.ofNat 16 (bits w 22 4)) (Fin.ofNat 16 (bits w 18 4)) (Fin.ofNat 16 (bits w 14 4)) (Fin.ofNat 8 (bits w 11 3)) (Fin.ofNat 16 (bits w 7 4)))
  else if bits w 0 7 = 1 then some (.vsel (Fin.ofNat 16 (bits w 22 4)) (Fin.ofNat 16 (bits w 18 4)) (Fin.ofNat 16 (bits w 14 4)) (Fin.ofNat 8 (bits w 11 3)) (Fin.ofNat 16 (bits w 7 4)))
  else if bits w 0 7 = 2 then some (.vzip (Fin.ofNat 16 (bits w 22 4)) (Fin.ofNat 16 (bits w 18 4)) (Fin.ofNat 16 (bits w 14 4)) (Fin.ofNat 8 (bits w 11 3)) (Fin.ofNat 16 (bits w 7 4)))
  else if bits w 0 7 = 3 then some (.vunzip (Fin.ofNat 16 (bits w 22 4)) (Fin.ofNat 16 (bits w 18 4)) (Fin.ofNat 16 (bits w 14 4)) (Fin.ofNat 8 (bits w 11 3)) (Fin.ofNat 16 (bits w 7 4)))
  else if bits w 0 7 = 4 ∧ bits w 14 4 = 0 then some (.vcompress (Fin.ofNat 16 (bits w 22 4)) (Fin.ofNat 16 (bits w 18 4)) (Fin.ofNat 8 (bits w 11 3)) (Fin.ofNat 16 (bits w 7 4)))
  else if bits w 0 7 = 5 ∧ bits w 14 4 = 0 then some (.vexpand (Fin.ofNat 16 (bits w 22 4)) (Fin.ofNat 16 (bits w 18 4)) (Fin.ofNat 8 (bits w 11 3)) (Fin.ofNat 16 (bits w 7 4)))
  else none

/-- Major opcode 0x29 (R44): VREDADD, VREDMAX, VREDMIN, VREDADDI, VREDMAXI, VREDMINI, VREDAND, VREDOR, VREDXOR. -/
def decodeOp29 (w : Nat) : Option Instr :=
  if bits w 0 7 = 0 ∧ bits w 14 4 = 0 then some (.vredadd (Fin.ofNat 16 (bits w 22 4)) (Fin.ofNat 16 (bits w 18 4)) (Fin.ofNat 8 (bits w 11 3)) (Fin.ofNat 16 (bits w 7 4)))
  else if bits w 0 7 = 1 ∧ bits w 14 4 = 0 then some (.vredmax (Fin.ofNat 16 (bits w 22 4)) (Fin.ofNat 16 (bits w 18 4)) (Fin.ofNat 8 (bits w 11 3)) (Fin.ofNat 16 (bits w 7 4)))
  else if bits w 0 7 = 2 ∧ bits w 14 4 = 0 then some (.vredmin (Fin.ofNat 16 (bits w 22 4)) (Fin.ofNat 16 (bits w 18 4)) (Fin.ofNat 8 (bits w 11 3)) (Fin.ofNat 16 (bits w 7 4)))
  else if bits w 0 7 = 3 ∧ bits w 14 4 = 0 then some (.vredaddi (Fin.ofNat 16 (bits w 22 4)) (Fin.ofNat 16 (bits w 18 4)) (Fin.ofNat 8 (bits w 11 3)) (Fin.ofNat 16 (bits w 7 4)))
  else if bits w 0 7 = 4 ∧ bits w 14 4 = 0 then some (.vredmaxi (Fin.ofNat 16 (bits w 22 4)) (Fin.ofNat 16 (bits w 18 4)) (Fin.ofNat 8 (bits w 11 3)) (Fin.ofNat 16 (bits w 7 4)))
  else if bits w 0 7 = 5 ∧ bits w 14 4 = 0 then some (.vredmini (Fin.ofNat 16 (bits w 22 4)) (Fin.ofNat 16 (bits w 18 4)) (Fin.ofNat 8 (bits w 11 3)) (Fin.ofNat 16 (bits w 7 4)))
  else if bits w 0 7 = 6 ∧ bits w 14 4 = 0 then some (.vredand (Fin.ofNat 16 (bits w 22 4)) (Fin.ofNat 16 (bits w 18 4)) (Fin.ofNat 8 (bits w 11 3)) (Fin.ofNat 16 (bits w 7 4)))
  else if bits w 0 7 = 7 ∧ bits w 14 4 = 0 then some (.vredor (Fin.ofNat 16 (bits w 22 4)) (Fin.ofNat 16 (bits w 18 4)) (Fin.ofNat 8 (bits w 11 3)) (Fin.ofNat 16 (bits w 7 4)))
  else if bits w 0 7 = 8 ∧ bits w 14 4 = 0 then some (.vredxor (Fin.ofNat 16 (bits w 22 4)) (Fin.ofNat 16 (bits w 18 4)) (Fin.ofNat 8 (bits w 11 3)) (Fin.ofNat 16 (bits w 7 4)))
  else none

/-- Major opcode 0x2A (R44): VSORT, VSELK, VMERGEK. -/
def decodeOp2A (w : Nat) : Option Instr :=
  if bits w 1 6 = 0 ∧ bits w 14 4 = 0 ∧ bits w 22 1 = 0 then some (.vsort (Fin.ofNat 8 (bits w 23 3)) (Fin.ofNat 16 (bits w 18 4)) (Fin.ofNat 8 (bits w 11 3)) (Fin.ofNat 16 (bits w 7 4)) (decide (bits w 0 1 = 1)))
  else if bits w 1 6 = 1 ∧ bits w 22 1 = 0 then some (.vselk (Fin.ofNat 8 (bits w 23 3)) (Fin.ofNat 16 (bits w 18 4)) (Fin.ofNat 16 (bits w 14 4)) (Fin.ofNat 8 (bits w 11 3)) (Fin.ofNat 16 (bits w 7 4)) (decide (bits w 0 1 = 1)))
  else if bits w 1 6 = 2 ∧ bits w 18 1 = 0 ∧ bits w 22 1 = 0 then some (.vmergek (Fin.ofNat 8 (bits w 23 3)) (Fin.ofNat 8 (bits w 19 3)) (Fin.ofNat 16 (bits w 14 4)) (Fin.ofNat 8 (bits w 11 3)) (Fin.ofNat 16 (bits w 7 4)) (decide (bits w 0 1 = 1)))
  else none

/-- Major opcode 0x2B (R44): VBCAST, VINS, VEXT, KMOVGK, KMOVKG, KPOPC. -/
def decodeOp2B (w : Nat) : Option Instr :=
  if bits w 0 7 = 0 ∧ bits w 11 5 = 0 ∧ bits w 25 1 = 0 then some (.vbcast (Fin.ofNat 16 (bits w 21 4)) (Fin.ofNat 32 (bits w 16 5)) (Fin.ofNat 16 (bits w 7 4)))
  else if bits w 0 7 = 1 ∧ bits w 25 1 = 0 then some (.vins (Fin.ofNat 16 (bits w 21 4)) (Fin.ofNat 32 (bits w 16 5)) (Fin.ofNat 32 (bits w 11 5)) (Fin.ofNat 16 (bits w 7 4)))
  else if bits w 0 7 = 2 ∧ bits w 20 1 = 0 then some (.vext (Fin.ofNat 32 (bits w 21 5)) (Fin.ofNat 16 (bits w 16 4)) (Fin.ofNat 32 (bits w 11 5)) (Fin.ofNat 16 (bits w 7 4)))
  else if bits w 0 7 = 3 ∧ bits w 11 5 = 0 ∧ bits w 24 2 = 0 then some (.kmovgk (Fin.ofNat 8 (bits w 21 3)) (Fin.ofNat 32 (bits w 16 5)) (Fin.ofNat 16 (bits w 7 4)))
  else if bits w 0 7 = 4 ∧ bits w 11 5 = 0 ∧ bits w 19 2 = 0 then some (.kmovkg (Fin.ofNat 32 (bits w 21 5)) (Fin.ofNat 8 (bits w 16 3)) (Fin.ofNat 16 (bits w 7 4)))
  else if bits w 0 7 = 5 ∧ bits w 11 5 = 0 ∧ bits w 19 2 = 0 then some (.kpopc (Fin.ofNat 32 (bits w 21 5)) (Fin.ofNat 8 (bits w 16 3)) (Fin.ofNat 16 (bits w 7 4)))
  else none

/-- Major opcode 0x2C (R44): KAND, KOR, KXOR, KANDN, KNOT. -/
def decodeOp2C (w : Nat) : Option Instr :=
  if bits w 0 7 = 0 ∧ bits w 11 3 = 0 ∧ bits w 17 1 = 0 ∧ bits w 21 1 = 0 ∧ bits w 25 1 = 0 then some (.kand (Fin.ofNat 8 (bits w 22 3)) (Fin.ofNat 8 (bits w 18 3)) (Fin.ofNat 8 (bits w 14 3)) (Fin.ofNat 16 (bits w 7 4)))
  else if bits w 0 7 = 1 ∧ bits w 11 3 = 0 ∧ bits w 17 1 = 0 ∧ bits w 21 1 = 0 ∧ bits w 25 1 = 0 then some (.kor (Fin.ofNat 8 (bits w 22 3)) (Fin.ofNat 8 (bits w 18 3)) (Fin.ofNat 8 (bits w 14 3)) (Fin.ofNat 16 (bits w 7 4)))
  else if bits w 0 7 = 2 ∧ bits w 11 3 = 0 ∧ bits w 17 1 = 0 ∧ bits w 21 1 = 0 ∧ bits w 25 1 = 0 then some (.kxor (Fin.ofNat 8 (bits w 22 3)) (Fin.ofNat 8 (bits w 18 3)) (Fin.ofNat 8 (bits w 14 3)) (Fin.ofNat 16 (bits w 7 4)))
  else if bits w 0 7 = 3 ∧ bits w 11 3 = 0 ∧ bits w 17 1 = 0 ∧ bits w 21 1 = 0 ∧ bits w 25 1 = 0 then some (.kandn (Fin.ofNat 8 (bits w 22 3)) (Fin.ofNat 8 (bits w 18 3)) (Fin.ofNat 8 (bits w 14 3)) (Fin.ofNat 16 (bits w 7 4)))
  else if bits w 0 7 = 4 ∧ bits w 11 7 = 0 ∧ bits w 21 1 = 0 ∧ bits w 25 1 = 0 then some (.knot (Fin.ofNat 8 (bits w 22 3)) (Fin.ofNat 8 (bits w 18 3)) (Fin.ofNat 16 (bits w 7 4)))
  else none

/-- Major opcode 0x30 (R44): MCLAIM, MFREE, MLDA, MLDB, RPASS, MMA, MMAB, MMAI, MSCA, MZERO, MDRAIN, MTWIN. -/
def decodeOp30 (w : Nat) : Option Instr :=
  if bits w 0 23 = 0 then some (.mclaim (Fin.ofNat 8 (bits w 23 3)))
  else if bits w 0 23 = 1 then some (.mfree (Fin.ofNat 8 (bits w 23 3)))
  else if bits w 0 9 = 2 ∧ bits w 23 3 = 0 then some (.mlda (Fin.ofNat 16 (bits w 19 4)) (Fin.ofNat 32 (bits w 14 5)) (Fin.ofNat 32 (bits w 9 5)))
  else if bits w 0 9 = 3 ∧ bits w 23 3 = 0 then some (.mldb (Fin.ofNat 16 (bits w 19 4)) (Fin.ofNat 32 (bits w 14 5)) (Fin.ofNat 32 (bits w 9 5)))
  else if bits w 0 9 = 4 ∧ bits w 14 12 = 0 then some (.rpass (Fin.ofNat 32 (bits w 9 5)))
  else if bits w 0 9 = 5 ∧ bits w 14 5 = 0 then some (.mma (Fin.ofNat 8 (bits w 23 3)) (Fin.ofNat 16 (bits w 19 4)) (Fin.ofNat 32 (bits w 9 5)))
  else if bits w 0 9 = 6 ∧ bits w 14 5 = 0 ∧ bits w 24 2 = 0 then some (.mmab (Fin.ofNat 2 (bits w 23 1)) (Fin.ofNat 16 (bits w 19 4)) (Fin.ofNat 32 (bits w 9 5)))
  else if bits w 0 9 = 7 ∧ bits w 24 2 = 0 then some (.mmai (Fin.ofNat 2 (bits w 23 1)) (Fin.ofNat 16 (bits w 19 4)) (Fin.ofNat 32 (bits w 14 5)) (Fin.ofNat 32 (bits w 9 5)))
  else if bits w 0 9 = 8 then some (.msca (Fin.ofNat 8 (bits w 23 3)) (Fin.ofNat 8 (bits w 20 3)) (Fin.ofNat 2 (bits w 19 1)) (Fin.ofNat 32 (bits w 14 5)) (Fin.ofNat 32 (bits w 9 5)))
  else if bits w 0 9 = 9 ∧ bits w 14 9 = 0 then some (.mzero (Fin.ofNat 8 (bits w 23 3)) (Fin.ofNat 32 (bits w 9 5)))
  else if bits w 0 9 = 10 then some (.mdrain (Fin.ofNat 8 (bits w 23 3)) (Fin.ofNat 16 (bits w 19 4)) (Fin.ofNat 32 (bits w 14 5)) (Fin.ofNat 32 (bits w 9 5)))
  else if bits w 0 14 = 11 ∧ bits w 15 11 = 0 then some (.mtwin (decide (bits w 14 1 = 1)))
  else none

/-- Major opcode 0x32 (R44): XPUSH, XPUSHR, XWAIT, EXPECT. -/
def decodeOp32 (w : Nat) : Option Instr :=
  if bits w 0 4 = 0 ∧ bits w 6 10 = 0 then some (.xpush (Fin.ofNat 32 (bits w 21 5)) (Fin.ofNat 32 (bits w 16 5)) (Fin.ofNat 4 (bits w 4 2)))
  else if bits w 0 4 = 1 ∧ bits w 6 10 = 0 then some (.xpushr (Fin.ofNat 32 (bits w 21 5)) (Fin.ofNat 32 (bits w 16 5)) (Fin.ofNat 4 (bits w 4 2)))
  else if bits w 0 4 = 2 ∧ bits w 6 10 = 0 ∧ bits w 21 5 = 0 then some (.xwait (Fin.ofNat 32 (bits w 16 5)) (Fin.ofNat 4 (bits w 4 2)))
  else if bits w 0 16 = 3 then some (.expect (Fin.ofNat 32 (bits w 21 5)) (Fin.ofNat 32 (bits w 16 5)))
  else none

/-- Major opcode 0x33 (R44): TRAY_GATHER, TRAY_SCATTER, TRAY_REDUCE, TRAY_SUB, TRAY_UNSUB. -/
def decodeOp33 (w : Nat) : Option Instr :=
  if bits w 0 4 = 0 ∧ bits w 10 6 = 0 then some (.trayGather (Fin.ofNat 32 (bits w 21 5)) (Fin.ofNat 32 (bits w 16 5)) (decide (bits w 9 1 = 1)) (Fin.ofNat 32 (bits w 4 5)))
  else if bits w 0 4 = 1 ∧ bits w 10 6 = 0 then some (.trayScatter (Fin.ofNat 32 (bits w 21 5)) (Fin.ofNat 32 (bits w 16 5)) (decide (bits w 9 1 = 1)) (Fin.ofNat 32 (bits w 4 5)))
  else if bits w 0 4 = 2 ∧ bits w 10 6 = 0 then some (.trayReduce (Fin.ofNat 32 (bits w 21 5)) (Fin.ofNat 32 (bits w 16 5)) (decide (bits w 9 1 = 1)) (Fin.ofNat 32 (bits w 4 5)))
  else if bits w 0 4 = 3 ∧ bits w 10 6 = 0 then some (.traySub (Fin.ofNat 32 (bits w 21 5)) (Fin.ofNat 32 (bits w 16 5)) (decide (bits w 9 1 = 1)) (Fin.ofNat 32 (bits w 4 5)))
  else if bits w 0 4 = 4 ∧ bits w 10 6 = 0 then some (.trayUnsub (Fin.ofNat 32 (bits w 21 5)) (Fin.ofNat 32 (bits w 16 5)) (decide (bits w 9 1 = 1)) (Fin.ofNat 32 (bits w 4 5)))
  else none

/-- Major opcode 0x34 (R44): MBW, MBR, DLD, DPOP, PPUSH, PST, QCNT. -/
def decodeOp34 (w : Nat) : Option Instr :=
  if bits w 0 4 = 0 ∧ bits w 6 10 = 0 ∧ bits w 21 5 = 0 then some (.mbw (Fin.ofNat 32 (bits w 16 5)) (Fin.ofNat 4 (bits w 4 2)))
  else if bits w 0 4 = 1 ∧ bits w 6 15 = 0 then some (.mbr (Fin.ofNat 32 (bits w 21 5)) (Fin.ofNat 4 (bits w 4 2)))
  else if bits w 0 4 = 2 ∧ bits w 6 10 = 0 ∧ bits w 21 5 = 0 then some (.dld (Fin.ofNat 32 (bits w 16 5)) (Fin.ofNat 4 (bits w 4 2)))
  else if bits w 0 21 = 3 then some (.dpop (Fin.ofNat 32 (bits w 21 5)))
  else if bits w 0 16 = 4 ∧ bits w 21 5 = 0 then some (.ppush (Fin.ofNat 32 (bits w 16 5)))
  else if bits w 0 4 = 5 ∧ bits w 6 10 = 0 ∧ bits w 21 5 = 0 then some (.pst (Fin.ofNat 32 (bits w 16 5)) (Fin.ofNat 4 (bits w 4 2)))
  else if bits w 0 4 = 6 ∧ bits w 5 16 = 0 then some (.qcnt (Fin.ofNat 32 (bits w 21 5)) (decide (bits w 4 1 = 1)))
  else none

/-- Major opcode 0x35 (R44): ALLRED, ALLGATH, WADDR, WRES. -/
def decodeOp35 (w : Nat) : Option Instr :=
  if bits w 0 4 = 0 ∧ bits w 6 10 = 0 then some (.allred (Fin.ofNat 32 (bits w 21 5)) (Fin.ofNat 32 (bits w 16 5)) (Fin.ofNat 4 (bits w 4 2)))
  else if bits w 0 16 = 1 then some (.allgath (Fin.ofNat 32 (bits w 21 5)) (Fin.ofNat 32 (bits w 16 5)))
  else if bits w 0 4 = 2 ∧ bits w 9 7 = 0 then some (.waddr (Fin.ofNat 32 (bits w 21 5)) (Fin.ofNat 32 (bits w 16 5)) (Fin.ofNat 32 (bits w 4 5)))
  else if bits w 0 4 = 3 ∧ bits w 5 11 = 0 then some (.wres (Fin.ofNat 32 (bits w 21 5)) (Fin.ofNat 32 (bits w 16 5)) (decide (bits w 4 1 = 1)))
  else none

/-- Major opcode 0x36 (R44): STVEC, LDNEAR, IXDEL, IXSNAP. -/
def decodeOp36 (w : Nat) : Option Instr :=
  if bits w 0 4 = 0 ∧ bits w 10 6 = 0 then some (.stvec (Fin.ofNat 32 (bits w 21 5)) (Fin.ofNat 32 (bits w 16 5)) (Fin.ofNat 64 (bits w 4 6)))
  else if bits w 0 4 = 1 ∧ bits w 10 1 = 0 ∧ bits w 14 2 = 0 then some (.ldnear (Fin.ofNat 32 (bits w 21 5)) (Fin.ofNat 32 (bits w 16 5)) (Fin.ofNat 8 (bits w 11 3)) (Fin.ofNat 64 (bits w 4 6)))
  else if bits w 0 4 = 2 ∧ bits w 10 6 = 0 then some (.ixdel (Fin.ofNat 32 (bits w 21 5)) (Fin.ofNat 32 (bits w 16 5)) (Fin.ofNat 64 (bits w 4 6)))
  else if bits w 0 4 = 3 ∧ bits w 14 2 = 0 then some (.ixsnap (Fin.ofNat 32 (bits w 21 5)) (Fin.ofNat 32 (bits w 16 5)) (Fin.ofNat 16 (bits w 10 4)) (Fin.ofNat 64 (bits w 4 6)))
  else none

/-- Major opcode 0x38 (R44): SEND, RECV, RQN, TSTART, PRIO, MIGR, TEXIT, YIELD, BARC, BARG, BARB. -/
def decodeOp38 (w : Nat) : Option Instr :=
  if bits w 0 4 = 0 ∧ bits w 5 11 = 0 then some (.send (Fin.ofNat 32 (bits w 21 5)) (Fin.ofNat 32 (bits w 16 5)) (decide (bits w 4 1 = 1)))
  else if bits w 0 4 = 1 ∧ bits w 5 11 = 0 then some (.recv (Fin.ofNat 32 (bits w 21 5)) (Fin.ofNat 32 (bits w 16 5)) (decide (bits w 4 1 = 1)))
  else if bits w 0 4 = 2 ∧ bits w 6 15 = 0 then some (.rqn (Fin.ofNat 32 (bits w 21 5)) (Fin.ofNat 4 (bits w 4 2)))
  else if bits w 0 4 = 3 then some (.tstart (Fin.ofNat 32 (bits w 21 5)) (Fin.ofNat 32 (bits w 16 5)) (Fin.ofNat 128 (bits w 9 7)) (Fin.ofNat 32 (bits w 4 5)))
  else if bits w 0 16 = 6 then some (.prio (Fin.ofNat 32 (bits w 21 5)) (Fin.ofNat 32 (bits w 16 5)))
  else if bits w 0 16 = 7 then some (.migr (Fin.ofNat 32 (bits w 21 5)) (Fin.ofNat 32 (bits w 16 5)))
  else if bits w 0 26 = 4 then some (.texit)
  else if bits w 0 26 = 5 then some (.yield)
  else if bits w 0 26 = 8 then some (.barc)
  else if bits w 0 26 = 9 then some (.barg)
  else if bits w 0 26 = 10 then some (.barb)
  else none

/-- Major opcode 0x39 (R44): HTEST, HPASS, HCANCEL. -/
def decodeOp39 (w : Nat) : Option Instr :=
  if bits w 0 16 = 0 then some (.htest (Fin.ofNat 32 (bits w 21 5)) (Fin.ofNat 32 (bits w 16 5)))
  else if bits w 0 16 = 1 then some (.hpass (Fin.ofNat 32 (bits w 21 5)) (Fin.ofNat 32 (bits w 16 5)))
  else if bits w 0 16 = 2 ∧ bits w 21 5 = 0 then some (.hcancel (Fin.ofNat 32 (bits w 16 5)))
  else none

/-- Major opcode 0x3A (R44): CRD, TMARK. -/
def decodeOp3A (w : Nat) : Option Instr :=
  if bits w 0 4 = 0 ∧ bits w 16 5 = 0 then some (.crd (Fin.ofNat 32 (bits w 21 5)) (Fin.ofNat 4096 (bits w 4 12)))
  else if bits w 0 4 = 1 ∧ bits w 6 10 = 0 ∧ bits w 21 5 = 0 then some (.tmark (Fin.ofNat 32 (bits w 16 5)) (Fin.ofNat 4 (bits w 4 2)))
  else none

/-- Major opcode 0x3C (R44): SRD, SWR, ICINV, ICINV_G, ERET. -/
def decodeOp3C (w : Nat) : Option Instr :=
  if bits w 0 4 = 0 ∧ bits w 16 5 = 0 then some (.srd (Fin.ofNat 32 (bits w 21 5)) (Fin.ofNat 4096 (bits w 4 12)))
  else if bits w 0 4 = 1 ∧ bits w 21 5 = 0 then some (.swr (Fin.ofNat 32 (bits w 16 5)) (Fin.ofNat 4096 (bits w 4 12)))
  else if bits w 0 16 = 3 ∧ bits w 21 5 = 0 then some (.icinv (Fin.ofNat 32 (bits w 16 5)))
  else if bits w 0 16 = 4 then some (.icinvG (Fin.ofNat 32 (bits w 21 5)) (Fin.ofNat 32 (bits w 16 5)))
  else if bits w 0 26 = 2 then some (.eret)
  else none

/-- Major opcode 0x3F (R44): BRK. -/
def decodeOp3F (w : Nat) : Option Instr :=
  some (.brk (BitVec.ofNat 26 (bits w 0 26)))

/-- The instruction that a major opcode reads from a word (R44). -/
def decodeOp (op w : Nat) : Option Instr :=
  match op with
  | 0x01 => decodeOp01 w
  | 0x02 => decodeOp02 w
  | 0x03 => decodeOp03 w
  | 0x04 => decodeOp04 w
  | 0x05 => decodeOp05 w
  | 0x06 => decodeOp06 w
  | 0x07 => decodeOp07 w
  | 0x08 => decodeOp08 w
  | 0x09 => decodeOp09 w
  | 0x0A => decodeOp0A w
  | 0x0B => decodeOp0B w
  | 0x0C => decodeOp0C w
  | 0x0D => decodeOp0D w
  | 0x10 => decodeOp10 w
  | 0x14 => decodeOp14 w
  | 0x15 => decodeOp15 w
  | 0x16 => decodeOp16 w
  | 0x17 => decodeOp17 w
  | 0x18 => decodeOp18 w
  | 0x19 => decodeOp19 w
  | 0x1A => decodeOp1A w
  | 0x1B => decodeOp1B w
  | 0x1C => decodeOp1C w
  | 0x1E => decodeOp1E w
  | 0x1F => decodeOp1F w
  | 0x20 => decodeOp20 w
  | 0x21 => decodeOp21 w
  | 0x22 => decodeOp22 w
  | 0x24 => decodeOp24 w
  | 0x25 => decodeOp25 w
  | 0x26 => decodeOp26 w
  | 0x27 => decodeOp27 w
  | 0x28 => decodeOp28 w
  | 0x29 => decodeOp29 w
  | 0x2A => decodeOp2A w
  | 0x2B => decodeOp2B w
  | 0x2C => decodeOp2C w
  | 0x30 => decodeOp30 w
  | 0x32 => decodeOp32 w
  | 0x33 => decodeOp33 w
  | 0x34 => decodeOp34 w
  | 0x35 => decodeOp35 w
  | 0x36 => decodeOp36 w
  | 0x38 => decodeOp38 w
  | 0x39 => decodeOp39 w
  | 0x3A => decodeOp3A w
  | 0x3C => decodeOp3C w
  | 0x3F => decodeOp3F w
  | _ => none

/-- The instruction whose word is `w`, by its major opcode in bits [31:26] (R44), before the checks of WellFormed. -/
def decodeRaw (w : Nat) : Option Instr := decodeOp (bits w 26 6) w

/-- Why a word is no instruction (R52). -/
inductive Reject where
  /-- The major opcode is unassigned. -/
  | noOpcode
  /-- The function value is unassigned, or a required-zero or reserved field is not as the encoding requires. -/
  | reservedField
  /-- An operand that the entry of the instruction rejects. -/
  | illFormed
deriving DecidableEq, Repr

/-- The major opcodes that R44 leaves unassigned (R52). -/
def unassignedOpcodes : List Nat :=
  [0x00, 0x0E, 0x0F, 0x11, 0x12, 0x13, 0x1D, 0x23, 0x2D, 0x2E, 0x2F, 0x31, 0x37, 0x3B, 0x3D, 0x3E]

/-- The instruction of a word, or why there is none (R44-R52). Total on every word. -/
def decode (w : Lane) : Except Reject Instr :=
  match decodeRaw w.toNat with
  | none => if unassignedOpcodes.contains (bits w.toNat 26 6) then .error .noOpcode else .error .reservedField
  | some i => if wf i then .ok i else .error .illFormed

/-- The word of an instruction, if it has an encoding. -/
def encode (i : Instr) : Option Lane := (encodeNat i).map (BitVec.ofNat 32)

/-- A block header (R25): the fields the machine reads. -/
structure Header where
  len : Nat
  liveg : Nat
  livev : Nat
  livek : Nat
  pf : Nat
  kind : Nat
deriving DecidableEq, Repr

/-- The fields of a header doubleword (R25). -/
def decodeHeader (h : Word) : Header :=
  { len := h.bits 57 7, liveg := h.bits 26 31, livev := h.bits 10 16, livek := h.bits 6 4,
    pf := h.bits 3 3, kind := h.bits 0 3 }

/-- A header doubleword with the given fields. -/
def encodeHeader (h : Header) : Word :=
  word (h.len * 2 ^ 57 + h.liveg * 2 ^ 26 + h.livev * 2 ^ 10 + h.livek * 2 ^ 6 + h.pf * 2 ^ 3 + h.kind)

/-- The instruction may stand in a block of this KIND (R51, R84, R272). -/
def legalInKind (kind : Nat) (i : Instr) : Bool :=
  if kind < 3 then
    match i with
    | .dld .. | .dpop .. | .ppush .. | .pst .. | .qcnt .. => false
    | .mbw _ n => decide (n.val < 2)
    | .mbr _ n => decide (2 ≤ n.val)
    | _ => true
  else
    match i with
    | .dld .. | .pst .. => kind == 3
    | .dpop .. | .ppush .. => kind == 4
    | .qcnt .. => true
    | .mbw _ n => decide (2 ≤ n.val)
    | .mbr _ n => decide (n.val < 2)
    | .st .. | .stf .. | .ld .. | .brk .. => true
    | _ =>
      match encodeNat i with
      | none => false
      | some w => decide (1 ≤ bits w 26 6 ∧ bits w 26 6 ≤ 0x0D) || bits w 26 6 == 0x10

/-- Bytes of an instruction word, lowest address first (R24). -/
def wordBytes (w : Lane) : List Byte := leBytes 4 w.toNat

/-- The instruction that the decoder reads from the word `w` of `nbits` bits; every instruction has one 32-bit word (R33). -/
def decodeTableWord (nbits w : Nat) : Option Instr :=
  if nbits = 32 then
    match decode (BitVec.ofNat 32 (ofLeBytes (wordBytes (BitVec.ofNat 32 w)))) with
    | .ok i => some i
    | .error _ => none
  else none

end Sys2Proof
end

