-- ==== Sys2Proof/Machine/SMap.lean ====
section
/-! DEFINITION. Sparse maps in one canonical form: keys strictly rising, no entry equal to what an unlisted key reads as. Memory, register files and every numbered collection of the state are such maps. -/

namespace Sys2Proof

/-- A sparse map from numbers, as a sorted list of key and value pairs. -/
abbrev SMap (α : Type) := List (Nat × α)

/-- The value at key `k`; `d` where nothing is listed. -/
def SMap.get {α : Type} (d : α) : SMap α → Nat → α
  | [], _ => d
  | (a, x) :: t, k => if a = k then x else SMap.get d t k

/-- `m` with the pair `(k, v)` in its sorted place. -/
def SMap.ins {α : Type} : SMap α → Nat → α → SMap α
  | [], k, v => [(k, v)]
  | (a, x) :: t, k, v =>
    if k < a then (k, v) :: (a, x) :: t
    else if a = k then (k, v) :: t
    else (a, x) :: SMap.ins t k v

/-- `m` without the key `k`. -/
def SMap.del {α : Type} (m : SMap α) (k : Nat) : SMap α := m.filter (fun p => p.1 != k)

/-- `m` with `v` at key `k`; writing the default `d` removes the entry. -/
def SMap.put {α : Type} [DecidableEq α] (d : α) (m : SMap α) (k : Nat) (v : α) : SMap α :=
  if v = d then SMap.del m k else SMap.ins m k v

/-- Keys strictly rise from above `lo`, and no listed value is the default. -/
def SMap.sortedFrom {α : Type} [DecidableEq α] (d : α) : Nat → SMap α → Bool
  | _, [] => true
  | lo, (a, x) :: t => decide (lo ≤ a) && !decide (x = d) && SMap.sortedFrom d (a + 1) t

/-- The canonical form. -/
def SMap.wf {α : Type} [DecidableEq α] (d : α) (m : SMap α) : Bool := SMap.sortedFrom d 0 m

/-- The value at key `k`, if listed. -/
def SMap.find {α : Type} : SMap α → Nat → Option α
  | [], _ => none
  | (a, x) :: t, k => if a = k then some x else SMap.find t k

/-- The lowest number from `k` on, among `fuel` candidates, that is no listed key. -/
def SMap.freeKey {α : Type} (m : SMap α) : Nat → Nat → Nat
  | 0, k => k
  | fuel + 1, k => if (SMap.find m k).isNone then k else SMap.freeKey m fuel (k + 1)

/-- The pairs `(k, v)`, `(k+1, v')`, ... of a list of values, leaving out defaults. -/
def SMap.row {α : Type} [DecidableEq α] (d : α) (k : Nat) : List α → SMap α
  | [] => []
  | v :: t => if v = d then SMap.row d (k + 1) t else (k, v) :: SMap.row d (k + 1) t

/-- `m` with the values `vs` at the keys `k`, `k+1`, ... -/
def SMap.setRange {α : Type} [DecidableEq α] (d : α) (m : SMap α) (k : Nat) (vs : List α) : SMap α :=
  m.filter (fun p => decide (p.1 < k)) ++ (SMap.row d k vs ++ m.filter (fun p => decide (k + vs.length ≤ p.1)))

/-- `m` without the keys from `k` to `k + n - 1`. -/
def SMap.clearRange {α : Type} (m : SMap α) (k n : Nat) : SMap α :=
  m.filter (fun p => decide (p.1 < k) || decide (k + n ≤ p.1))

/-- The values at the keys `k`, ..., `k + n - 1`. -/
def SMap.getRange {α : Type} (d : α) (m : SMap α) (k n : Nat) : List α :=
  let near := m.filter (fun p => decide (k ≤ p.1) && decide (p.1 < k + n))
  (rangeFrom k n).map (fun i => SMap.get d near i)

/-- The pairs of `b` shifted by `k`, put over the keys `k` to `k + n - 1` of `m`. -/
def SMap.overlay {α : Type} (m : SMap α) (k n : Nat) (b : SMap α) : SMap α :=
  m.filter (fun p => decide (p.1 < k)) ++ ((b.filter (fun p => decide (p.1 < n))).map (fun p => (p.1 + k, p.2))
    ++ m.filter (fun p => decide (k + n ≤ p.1)))

/-- The pairs of `m` at the keys `k` to `k + n - 1`, moved down to start at 0. -/
def SMap.slice {α : Type} (m : SMap α) (k n : Nat) : SMap α :=
  (m.filter (fun p => decide (k ≤ p.1) && decide (p.1 < k + n))).map (fun p => (p.1 - k, p.2))

end Sys2Proof
end

