-- ==== Sys2Proof/Machine/State.lean ====
section
/-! DEFINITION. The state of a Nellux module: threads, cores, trays, partitions, memories, the ordering machine, the management core, and the model's own fields (INVENTORY.md, State). Plain data throughout. -/

namespace Sys2Proof.Machine

/-- Why a step stops. -/
inductive Fault where
  /-- Raised by `step` alone, when the module is frozen and the environment offers no move: every clock has stopped (R426). Safe: nothing goes on in the hardware either. -/
  | frozen
deriving DecidableEq, Repr

/-- Why an instruction has no meaning here. -/
inductive Refusal where
  /-- Raised by the arms of `exec` alone, for a row of the opcode table not modelled. Safe: the model stops where the hardware goes on. -/
  | notModelled (mnemonic : String)
deriving DecidableEq, Repr

/-- A thread: a context of a core, or a kettle thread of a core's pair (R77, R269). -/
inductive Thr where
  | ctx (core id : Nat)
  | draw (core : Nat)
  | brew (core : Nat)
deriving DecidableEq, Repr

/-- A set of registers. -/
structure RegSet where
  g : BitVec 32 := 0
  v : BitVec 16 := 0
  k : BitVec 8 := 0
deriving DecidableEq, Repr

/-- An open window (R38): words still to come, and the destination set. -/
structure Window where
  left : Nat
  set : RegSet
deriving DecidableEq, Repr

/-- The block being executed: its header address, LEN, KIND and PF (R25, R30). -/
structure Block where
  hdr : Word := 0
  len : Nat := 0
  kind : Nat := 0
  /-- Blocks to prefetch (R25, R26). -/
  pf : Nat := 0
deriving DecidableEq, Repr

/-- How the next word is reached: inside the block, or through a header still to be entered (R27). -/
inductive Enter where
  | none
  /-- A transfer whose target has been checked already. -/
  | admitted
  /-- Fall-through into the header at the program counter (R30). -/
  | fall
  /-- Launch start or TSTART (R310, R332). -/
  | start
  /-- Sachet landing (R355). -/
  | sachet
  /-- A restored context whose program counter may name a header or a word (R88, R146). -/
  | restored
  /-- The target of the transfer at the program counter has failed its check with this code and datum, which the next position takes (R114). -/
  | refused (code : Nat) (va : Word)
deriving DecidableEq, Repr

/-- A failure that came to light after issue (R126, R42): of a load with these destinations, or of a store; `acc` numbers the access of a store, whose failure is due once all its pieces are settled. -/
structure Fail where
  acc : Nat := 0
  dest : Option RegSet
  ecc : Bool
  epc : Word
  vaddr : Word
deriving DecidableEq, Repr

/-- A fault to be entered as a trap (R150); `late` for a deferred fault of R42 or R126. -/
structure Trap where
  code : Nat
  sub : Nat
  epc : Word
  vaddr : Word
  late : Bool := false
deriving DecidableEq, Repr

/-- The barrier instructions (R336). -/
inductive BarKind where
  | barc | barg | barb
deriving DecidableEq, Repr

/-- The answer to a MIGR (R353). -/
inductive MigrAnswer where
  | accepted | bounced | removed
deriving DecidableEq, Repr

/-- What holds a thread at its position, its issued instruction not yet done. -/
inductive Busy where
  | none
  /-- FENCE, XFENCE, TEXIT, ICINV, and the release part of a barrier or MIGR: parked until EG(t) is empty and the probes have echoed (R224). -/
  | fence
  /-- The reply of FTST or EXPECT, or a far load's reply (R246, R405, R133). -/
  | reply
  /-- FWAIT at its flag word (R247). -/
  | flag
  /-- The block read of an engine command (R249). -/
  | block (cmd : Nat)
  /-- The release of a barrier; its arrival is not yet counted (R329). -/
  | arriving (b : BarKind)
  /-- Arrived at this episode of a barrier (R328). -/
  | barrier (b : BarKind) (episode : Nat)
  /-- The episode is complete; its news has not reached the thread (R329). -/
  | released (b : BarKind)
  /-- A MIGR's answer (R353), once it is known. -/
  | migr (answer : Option MigrAnswer) (a : Word)
deriving DecidableEq, Repr

/-- Where the data of an access goes. -/
inductive Dest where
  | none
  | g (rd : Nat) (n : Nat) (signed : Bool)
  | pair (rd : Nat)
  | v (rd : Nat) (mask : Word)
  /-- A far load's register (R133). -/
  | far (rd n : Nat)
  /-- FTST's register (R246). -/
  | test (rd : Nat)
  /-- FWAIT wakes (R247). -/
  | wake
  /-- EXPECT's outcome (R405), with the flag word. -/
  | expect (a : Word)
  /-- The draw-queue entry with this tag (R271). -/
  | draw (tag n : Nat)
  /-- The parameter block of a command (R249). -/
  | block (cmd : Nat)
  /-- The buffer of an engine command. -/
  | cmd (id : Nat)
  /-- A UCIe request of the host (R416). -/
  | host
deriving DecidableEq, Repr

/-- An outstanding access of IQ(t) (R210): replies still to come, the bytes that came, and its failures. -/
structure Access where
  id : Nat
  dest : Dest
  load : Bool
  acq : Bool
  epc : Word
  left : Nat
  data : SMap Byte
  ecc : Option Word
  rnr : Option Word
deriving DecidableEq, Repr

/-- Register writes of a result (R37). -/
structure Writes where
  g : List (Nat × Word) := []
  v : List (Nat × VWord) := []
  k : List (Nat × Word) := []
  flags : BitVec 5 := 0
deriving DecidableEq, Repr

/-- The states of a context (R311). -/
inductive CtxState where
  | free | ready | bound | waiting | exited | saved
deriving DecidableEq, Repr

/-- A name: slot and incarnation on the context's core (R338). -/
structure Name where
  slot : Nat
  inc : Nat
deriving DecidableEq, Repr

/-- The state of one thread (R77, R88). -/
structure Ctx where
  st : CtxState := .free
  pc : Word := 0
  blk : Block := {}
  enter : Enter := .none
  g : SMap Word := []
  v : SMap VWord := []
  k : SMap Word := []
  pend : RegSet := {}
  fails : List Fail := []
  windows : List Window := []
  /-- The windows as they stood before the instruction that holds the thread, which a fault of that instruction suspends (R38, R150). -/
  before : List Window := []
  /-- The cycle in which the instruction that holds the thread issued: it parks at a later position (R134, R316). -/
  since : Word := 0
  /-- The suspended windows of a handler's thread, and the header of the block in which they stand (R38, R148). -/
  susp : List Window := []
  suspBlk : Word := 0
  hpend : BitVec 32 := 0
  /-- In a gang's save, the handle-pending bits of handles that restore makes pending again (R90, R298). -/
  held : BitVec 32 := 0
  fflags : BitVec 5 := 0
  prio : Nat := 0
  sup : Bool := false
  cause : Word := 0
  epc : Word := 0
  vaddr : Word := 0
  wait : Word := 0
  stamp : Word := 0
  aged : Nat := 0
  stopped : Bool := false
  /-- A debugger stop asked for and not yet taken (R427). -/
  stopReq : Bool := false
  /-- Its entry of the run-queue area of its cluster, while spilled (R300, R312). -/
  spilled : Option Nat := none
  busy : Busy := .none
  /-- The address of the FWAIT that woke while the thread was parked: it issues again when the thread binds, and is done (R89, R247). -/
  woken : Option Word := none
  trap : Option Trap := none
  name : Option Name := none
  /-- Bound in this rotation: it issues from the next one on (R313). -/
  fresh : Bool := false
  /-- Registers that hold an uncorrectable error (R155, R425). -/
  bad : RegSet := {}
  hops : Nat := 0
  /-- TB(t) (R210): each touched bank group, with the number of the last entry sent to it (R221). -/
  tb : List (Nat × Nat) := []
  iq : List Access := []
deriving DecidableEq, Repr

/-- A slot 0-14 (R16, R314). -/
structure Slot where
  ctx : Option Nat := none
  inc : Nat := 0
  last : Option Nat := none
deriving DecidableEq, Repr

/-- A lease-table entry (R391). -/
structure Lease where
  base : Word
  r : Bool
  w : Bool
  secure : Bool
  len : Nat
  map : Word
deriving DecidableEq, Repr

/-- An entry of the blend table (R283). -/
structure Blend where
  res : Bool
  potbase : Nat
  module : Nat
deriving DecidableEq, Repr

/-- STATE of a handle-table entry (R394). -/
inductive HState where
  | free | pending | resolved | faulted
deriving DecidableEq, Repr

/-- A handle-table entry (R394), with the context that issued the command. -/
structure Handle where
  epc : Word := 0
  vaddr : Word := 0
  gen : Nat := 0
  code : Nat := 0
  st : HState := .free
  holder : Nat := 0
deriving DecidableEq, Repr

/-- A command of the vector engine, or a result on its way to a register (R153, R37): its thread, slot, unit (16 the slot's scalar unit, 17 the launch engine that answers a CRD), cycles from unit to result, the cycle it is due (R154, R436) and results. -/
structure Flight where
  thr : Thr
  slot : Nat
  unit : Nat
  delay : Nat
  ready : Word
  epc : Word
  dest : RegSet
  writes : Writes
deriving DecidableEq, Repr

/-- A message (R340): the context it is queued for, header words and payload. -/
structure Msg where
  ctx : Nat
  w0 : Word
  w1 : Word
  payload : List Word
deriving DecidableEq, Repr

/-- A mailbox: its sending and receiving half, each full or empty (R84). -/
structure Mailbox where
  send : Option Word := none
  recv : Option Word := none
deriving DecidableEq, Repr

/-- An entry of the draw queue (R271): reserved, filled, or filled with a failure mark: whether the failure is ECC_UNCORR, and the address of its piece (R137, R150). -/
structure DrawEntry where
  tag : Nat
  filled : Bool
  failed : Option (Bool × Word)
  val : Word
deriving DecidableEq, Repr

/-- The world, address space, regions and back-off values that an access carries from issue (R140, R280, R282). -/
structure Env where
  core : Nat := 0
  secure : Bool := false
  asid : Nat := 0
  regions : List Word := []
  rnrbase : Nat := 0
  rnrlimit : Nat := 0
deriving DecidableEq, Repr

/-- A core (R77, R85, R178, R248, R283, R300, R337, R391, R394, R400). -/
structure Core where
  gang : Option Nat := none
  gnum : Nat := 0
  ginc : Nat := 0
  ceil : Nat := 0
  slots : SMap Slot := []
  ctxs : SMap Ctx := []
  secure : Bool := false
  asid : Nat := 0
  tvec : Word := 0
  rqlimit : Nat := 0
  rnrbase : Nat := 0
  rnrlimit : Nat := 0
  regions : SMap Word := []
  xdone : SMap Nat := []
  nextid : SMap Nat := []
  lease : SMap Lease := []
  blendSize : Nat := 1
  blendRank : Nat := 0
  blend : SMap Blend := []
  handles : SMap Handle := []
  /-- z0-z7 then y0, y1: element e of tile t at 1024 t + e. -/
  tiles : SMap Lane := []
  /-- The context that holds each tile (y0 is 8, y1 is 9), and whether the holder has given it up already (R172). -/
  holders : SMap (Nat × Bool) := []
  alatch : SMap Byte := []
  bl0 : SMap Byte := []
  bl1 : SMap Byte := []
  bl0Full : Bool := false
  bl1Full : Bool := false
  twin : Bool := false
  /-- Commands in the slots' vector queues, oldest first; results in flight; the slot each unit took last, and the cycle from which it accepts again. -/
  vq : List Flight := []
  flight : List Flight := []
  vlast : SMap Nat := []
  vnext : SMap Word := []
  /-- Matrix commands in the slot queues (by number), the stream, and the slot taken last. -/
  mq : List Nat := []
  stream : List Nat := []
  mlast : Nat := 0
  /-- Pushes in the slots' copy queues, the push each channel works on, and tray-queue commands in issue order. -/
  xq : List Nat := []
  channels : SMap Nat := []
  tq : List Nat := []
  mb : SMap Mailbox := []
  /-- In each direction, 0 or 1: the mailbox that moves when both qualify (R84). -/
  mbNextDown : Nat := 0
  mbNextUp : Nat := 0
  rq : List Msg := []
  acks : Nat := 0
  sendq : Nat := 0
  orphans : List Msg := []
  ctr : SMap Word := []
  /-- NEXTID and the counters as they stood at the end of the previous cycle, which CRD reads (R407). -/
  ctrSeen : SMap Word := []
  rotIssued : Nat := 0
  /-- The class and sub-reason last given to each position, as INFO of a SAMPLE record has them; vacant where none is listed (R412). -/
  posClass : SMap Nat := []
  draw : Ctx := {}
  brew : Ctx := {}
  drawq : List DrawEntry := []
  pourq : List Word := []
  prevWorld : Option Bool := none
  /-- Dispatches of gangs whose number is this core's, modulo 256 (R337). -/
  gangCount : Nat := 0
deriving DecidableEq, Repr

/-- The party that sent an entry. -/
inductive Party where
  | thr (t : Thr)
  | cmd (id : Nat)
  | host (part : Nat)
  /-- A source of another module (R280). -/
  | peer (module : Nat)
  | none
deriving DecidableEq, Repr

/-- The fabric classes (R212). -/
inductive Cls where
  | store | reply | engine | walk | message
deriving DecidableEq, Repr

/-- Where an entry stands (R210). -/
inductive Phase where
  | egress | channel | ingress | waitlist | reply
deriving DecidableEq, Repr

/-- What an entry does at its target (R217-R221, R236, R246, R404). -/
inductive EKind where
  | load
  | store
  /-- Operation code of R236, width in bytes, operand, compare value. -/
  | atomic (op n b c : Nat)
  | lds (clear : Bool)
  | stf
  | feclr
  | probe
  /-- FSET, FCLR, FTST, FWAIT at a flag word. -/
  | fset | fclr | ftst | fwait (clear : Bool)
  | expect (n : Nat)
  /-- The landing of a push at a flag word (R404). -/
  | landing
  /-- An engine's completion-flag write (R251). -/
  | flagSet
  /-- Engine read; engine write that sets full bits in SRAM; engine FP32 addition of one word; engine clearing of full bits. -/
  | engRead | engWrite | engAdd | engClear
  /-- A message, a start message, a sachet, an acknowledgement of delivery (R340, R310, R350, R343). -/
  | msg
  /-- A start message: program counter, argument, priority, and what its core passes on (R310): 2 as pot root, 1 as cluster root, 0 nothing. -/
  | start (pc arg : Word) (prio hop : Nat)
  | sachet | ack
  /-- The answer to a sachet (R353). -/
  | answer (a : MigrAnswer)
  /-- The refusal of the entry of this number, on its way to the source port (R281). -/
  | refusal (id : Nat)
deriving DecidableEq, Repr

/-- One byte of an entry: its global address as issued, its location, its place in the access, its value, and whether it has performed. -/
structure EByte where
  va : Word
  loc : Nat
  idx : Nat
  val : Byte := 0
  done : Bool := false
deriving DecidableEq, Repr

/-- An entry of the ordering machine (R210). -/
structure Entry where
  id : Nat
  src : Party
  port : Nat
  tgt : Nat
  cls : Cls
  phase : Phase
  kind : EKind
  acc : Nat := 0
  bytes : List EByte := []
  env : Env := {}
  /-- 0 no release, 1 a release at .core, 2 a release at a wider scope. -/
  rel : Nat := 0
  acq : Bool := false
  /-- Probes appended with a release. -/
  after : List Nat := []
  tries : Nat := 0
  /-- A refusal of it is on its way back (R281). -/
  refused : Bool := false
  due : Nat := 0
  epc : Word := 0
  /-- Payload of a message or sachet, or what a reply brings. -/
  pay : List Word := []
  ecc : Option Word := none
  rnr : Option Word := none
  gang : Nat := 0
  /-- The lowest address of the owner's piece this entry belongs to (R123, R126). -/
  low : Word := 0
deriving DecidableEq, Repr

/-- How far an engine command has come. -/
inductive Stage where
  /-- Its parameter block is being read (R249). -/
  | block
  /-- In its slot queue. -/
  | queued
  /-- In the matrix stream, or at its tray. -/
  | arrived
  /-- Begun: a channel, engine or shard works on it. -/
  | begun
  /-- Every piece is done, a last word of its block perhaps on its way; completion is next. -/
  | finished
  /-- Its landing and flag writes are on their way (R252 step 2). -/
  | flagging
  /-- Completed; its handle resolves next (R252). -/
  | resolving
deriving DecidableEq, Repr

/-- What the samovar brings of a participant of another module to a collective (R290, R294): its index, whether its header differs, and its source bytes, none where a byte is poisoned (R298). -/
structure PeerData where
  q : Nat
  differs : Bool
  data : List (Option Byte)
deriving DecidableEq, Repr

/-- A shard's answer to a caddy command (R375-R377): its CODE, evaluations, entries as (distance, identifier), stamp. -/
structure Answer where
  shard : Nat
  code : Nat
  evals : Nat := 0
  found : List (Lane × Nat) := []
  stamp : Word := 0
deriving DecidableEq, Repr

/-- An engine command (R173, R248, R294, R372). -/
structure Cmd where
  id : Nat
  core : Nat
  ctx : Nat
  slot : Nat
  /-- The incarnation of the thread when it issued the command (R410). -/
  inc : Nat := 0
  gang : Nat
  instr : Instr
  epc : Word
  env : Env
  hidx : Nat := 0
  toG0 : Bool := false
  /-- The destination register of the handle. -/
  rd : Nat := 0
  ra : Word := 0
  block : List Byte := []
  stage : Stage := .queued
  line : Nat := 0
  phase : Nat := 0
  out : Nat := 0
  buf : List (Option Byte) := []
  /-- Place in `buf` of each outstanding access. -/
  ecc : Option Word := none
  rnr : Option Word := none
  /-- Transfer id of a push, completed tiles of a subscription, sequence number of a collective, place of a caddy command among installations. -/
  num : Nat := 0
  fresh : Bool := false
  ended : Bool := false
  code : Nat := 0
  vaddr : Word := 0
  aux : List Nat := []
  data : List Word := []
  /-- The sources of a collective's participants, once all are read (R297). -/
  peers : List PeerData := []
  /-- Shard answers to a caddy command (R375). -/
  answers : List Answer := []
deriving DecidableEq, Repr

/-- A buffer-name entry (R397). -/
structure BufName where
  secure : Bool
  fmt : Nat
  asid : Nat
  name : Nat
  base : Word
  len : Nat
deriving DecidableEq, Repr

/-- A node of a caddy shard (R365): its vector, its tombstone bit, and its list of identifiers with their anchor bits, in ORD order of distance. -/
structure Node where
  vec : List Byte
  dead : Bool := false
  edges : List (Nat × Bool) := []
deriving DecidableEq, Repr

/-- One shard of a caddy (R365): its command queue, the descriptor it was installed with (none once the clearing of V is applied) and that installation's number, its nodes by identifier, entry point, last node and stamp. -/
structure Shard where
  queue : List Nat := []
  inst : Nat := 0
  desc : Option (List Word) := none
  nodes : SMap Node := []
  entry : Option Nat := none
  last : Nat := 0
  stamp : Word := 0
deriving DecidableEq, Repr

/-- What the tray of rank 0 knows of a blend (R309): the reports that have come, and the CODE with which it was refused. -/
structure Book where
  reports : List BlendReport := []
  seen : Nat := 0
  verdict : Option Nat := none
deriving DecidableEq, Repr

/-- What leaves a launch engine or a tray for another module (R208, R286, R309). -/
inductive FarMsg where
  /-- A residency request for range `n` of a gang, its release, and the answer to another module's request. -/
  | request (gang n : Nat) (r : RemoteRange)
  | release (r : RemoteRange)
  | answer (r : RemoteRange) (ok : Bool)
  /-- A rank has finished (R319), or all its threads have arrived at BARB (R328), to the other ranks. -/
  | finished (blendid rank : Nat)
  /-- A rank's gang has ended at a fatal fault, or an ABORT has discarded it (R298, R320, R326, R330), to the other ranks. -/
  | gone (blendid rank : Nat)
  | arrived (blendid rank : Nat)
  /-- RESIDENT or NOT-RESIDENT of a rank, to every member module. -/
  | residency (blendid rank : Nat) (res : Bool)
  /-- A member's report to the module of rank 0, and that tray's verdict: 0 to start, or the CODE of the refusal. -/
  | report (module blendid : Nat) (r : BlendReport)
  | verdict (blendid code : Nat)
deriving DecidableEq, Repr

/-- A tray (R248, R294, R365, R397). -/
structure Tray where
  gsq : List Nat := []
  rdq : List Nat := []
  subs : SMap Nat := []
  subq : List Nat := []
  join : List Nat := []
  seq : SMap Nat := []
  names : SMap BufName := []
  /-- Caddy commands at their home tray, and those it has forwarded that have still to arrive: command, pot and caddy number (R372). -/
  home : List Nat := []
  fwd : List (Nat × Nat × Nat) := []
  /-- The shard of each caddy of the tray's partition, by caddy number. -/
  shards : SMap Shard := []
  /-- The blends whose rank 0 has its tray here, by BLENDID (R309). -/
  blends : SMap Book := []
deriving DecidableEq, Repr

/-- A launch record taken from its ring (R302): queue, number, its 192 bytes, its lease ranges and blend map. -/
structure Rec where
  queue : Nat
  num : Nat
  bytes : List Byte
  lease : SMap Lease
  blend : SMap Blend
deriving DecidableEq, Repr

/-- The state of a gang (R308-R323). -/
inductive GState where
  /-- Its record is ready for placement (R305). -/
  | ready
  /-- Its cores are taken and it waits for the blend to start (R309). -/
  | reported
  /-- On its cores, up to its detach; held there for its peers and its commands once its exit barriers are complete (R319). -/
  | running
  | saved
  /-- Eligible for restore (R323). -/
  | resumed
  | ended
deriving DecidableEq, Repr

/-- What is known of a blend peer (R319, R330). -/
inductive Peer where
  | unknown | done | gone
deriving DecidableEq, Repr

/-- A barrier of a cluster, gang or blend: the open episode and who has arrived (R328). -/
structure Bar where
  episode : Nat := 0
  arrived : List Thr := []
  /-- Ranks whose threads have all arrived, for BARB; and the own rank's arrival has been sent to them. -/
  peers : List Nat := []
  told : Bool := false
deriving DecidableEq, Repr

/-- The record of a fatal fault (R15, R27, R137, R150): the thread by core, slot (15 for a kettle thread, `brew` telling which), incarnation and program counter, its cause, and what s.epc and s.vaddr hold. -/
structure FaultRec where
  core : Nat
  slot : Nat
  brew : Bool
  inc : Nat
  pc : Word
  cause : Nat
  epc : Word
  vaddr : Word
deriving DecidableEq, Repr

/-- A TMARK on its way to the launch engine (R413, R414): the core, incarnation and slot of its thread, 0 mark, 1 start or 2 stop, its program counter and its operand. -/
structure Mark where
  core : Nat
  inc : Nat
  slot : Nat
  kind : Nat
  pc : Word
  data : Word
deriving DecidableEq, Repr

/-- A gang. -/
structure Gang where
  part : Nat := 0
  record : Rec
  cores : List Nat := []
  st : GState := .reported
  forced : Bool := false
  /-- A PREEMPT or ABORT has begun: threads stop at their next instruction boundary (R321, R326). -/
  halting : Bool := false
  /-- The halt is an ABORT's, which discards the gang; the gang's exit holds had completed when an ABORT began, so that it keeps its DONE (R326, R327). -/
  discarding : Bool := false
  kept : Bool := false
  /-- It has finished and its blend has been told (R319). -/
  told : Bool := false
  /-- Residency of its ranges in other modules has been asked for, and the answers by range number (R208); its blend starts (R309). -/
  asked : Bool := false
  answers : SMap Bool := []
  go : Bool := false
  /-- Peers by rank (R319). -/
  peers : SMap Peer := []
  bars : SMap Bar := []
  /-- The capture window (R414). -/
  active : Word := 0
  detached : Word := 0
  window : Bool := false
  /-- The TMARKs of this cycle, which the launch engine applies in the order of their cores (R414). -/
  marks : List Mark := []
  /-- The saved cores of a pre-empted gang, in the form only restore reads (R322). -/
  saved : SMap Core := []
  /-- Subscriptions to restart and collectives to rejoin after restore (R322). -/
  restart : List Cmd := []
  /-- A discarded peer's module, which BARB reports (R330). -/
  torn : Option Nat := none
  /-- Ranges of other modules that the gang holds resident, by range number (R208). -/
  held : List (Nat × RemoteRange) := []
  /-- The fatal fault that ended it. -/
  fault : Option FaultRec := none
  /-- Commands with numbers below this were issued before it ended (R286). -/
  endNum : Nat := 0
deriving DecidableEq, Repr

/-- What a host port is told of a request (R416): its number, whether it ended in a UCIe error response, and the bytes it read. -/
structure HostAns where
  req : Nat
  error : Bool
  data : List Byte
deriving DecidableEq, Repr

/-- A host request under way (R416): the parts that have still to come back, what has been read, how many bytes it reads, and whether a part failed. -/
structure HostAcc where
  left : Nat
  data : SMap Byte := []
  reads : Nat := 0
  error : Bool := false
deriving DecidableEq, Repr

/-- An interrupt that a launch engine owes the host (R417), and with it the completion signal's write where the place has had no translation yet: its world and address space, the address, and the doubleword (R203, R303). -/
structure Irq where
  vec : Nat
  write : Option (Env × Word × Nat) := none
deriving DecidableEq, Repr

/-- A partition's launch engine (R300, R400, R412). -/
structure Part where
  pool : List Rec := []
  traces : List (List Byte) := []
  traceRec : Word := 0
  traceDrop : Word := 0
  samples : Word := 0
  cursor : Nat := 0
  /-- Caddy descriptors: words 0x00, 0x08, 0x10, 0x18 (R362). -/
  caddies : SMap (List Word) := []
  /-- Shards that have still to apply a clearing of V: caddy, shard and pot numbers; and the descriptors cleared, whose pages stay caddy pages until then (R192, R363). -/
  clearing : List (Nat × Nat × Nat) := []
  retired : SMap (List Word) := []
  /-- The requests that an INVAL in progress still waits for (R390). -/
  inval : Option (List Nat) := none
  /-- The gang, range number and range of a REVOKE in progress (R393). -/
  revoking : Option (Nat × Nat × Lease) := none
  /-- Ranges of this partition that gangs of other modules hold (R208). -/
  remote : List RemoteRange := []
  /-- WRITE of the queue as an ABORT in progress found it (R326). -/
  abortTo : Nat := 0
  /-- What has left for other modules, oldest first (R208, R286, R309). -/
  outbox : List FarMsg := []
  /-- What has left the module, oldest first (R289). -/
  left : List FarMsg := []
  /-- Interrupts that have not left (R417), and the vectors sent. -/
  irqs : List Irq := []
  sent : List Nat := []
  /-- Queues that a DRAIN has reached since their last REOPEN: their pooled records stay unplaced (R325). -/
  drained : List Nat := []
  /-- Requests of its host port under way, and the answers it has had (R416). -/
  asked : SMap HostAcc := []
  answers : List HostAns := []
deriving DecidableEq, Repr

/-- The translations and walks of one owner (R387). -/
structure Owner where
  /-- Pages whose contents a page move has taken to the second tier (R204): the location of each, by the page's key. -/
  away : SMap Nat := []
  tlb : SMap Word := []
  subtlb : SMap Word := []
  walks : List Nat := []
deriving DecidableEq, Repr

/-- A line of an instruction cache with its block-start map bits (R191). -/
structure Line where
  cluster : Nat
  gang : Nat
  asid : Nat
  addr : Word
  data : List Byte
  /-- The map bits of its units, read with it (R392). -/
  map : Nat
deriving DecidableEq, Repr

/-- A link's replay state (R278, R279). -/
structure Link where
  fails : Nat := 0
  retraining : Bool := false
  failed : Bool := false
deriving DecidableEq, Repr

/-- What the configuration block declares (R422). -/
structure Conf where
  fabric : Nat := 0
  /-- How each second-tier half is built: 0 LPDDR on the substrate, 1 CXL memory reached through the host die (R12). -/
  halfForm : SMap Nat := []
  /-- The Brixhild route tables, which stand without the links that have failed (R276, R279, R420). -/
  routes : List Byte := []
  /-- First pot and size of each pot's partition. -/
  partOf : SMap (Nat × Nat) := []
  /-- Secure pots, secure tray engines (8 times the pot plus 0 gather-scatter, 1 reduction, 2 collective, 3 caddy, 4 subscription), and secure host ports. -/
  potSecure : SMap Bool := []
  engSecure : SMap Bool := []
  hostSecure : SMap Bool := []
  /-- Page-table directory address of each owner; the power cap in W. -/
  root : SMap Nat := []
  cap : Nat := 0
  secureRead : Bool := false
deriving DecidableEq, Repr

/-- The management core and its block (R424). -/
structure Mgmt where
  mstate : Word := 0
  corrsram : Word := 0
  corrhbm : Word := 0
  uncorr : Word := 0
  replay : Word := 0
  linkfail : Word := 0
  errlog : Word := 0
  power : Word := 0
  attreq : Word := 0
  freezecmd : Word := 0
  nonce : List Byte := []
  report : List Byte := []
  dbgctl : Word := 0
  dbgbuf : List Byte := []
  /-- Clock step: 0 is 2.25 GHz, 3 is 1.5 GHz; milliseconds below 90 % of the cap. -/
  clock : Nat := 0
  below : Nat := 0
  image : List Byte := []
  body : List Byte := []
  version : Word := 0
  seed : List Byte := []
  linksDown : List Nat := []
  conf : Conf := {}
deriving DecidableEq, Repr

/-- What the environment brings with a move (DESIGN CHOICE, log 8). -/
inductive Input where
  | none
  | lane (x : Lane)
  | remote (r : RemoteRange)
  | news (b : BlendNews)
  | host (h : HostReq)
  | img (b : BootImage)
  | err (e : SoftErr)
  | word (w : Word)
  | peers (l : List PeerData)
  /-- An access of another module (R280): its source module and port, the BLENDID of its sender, what it does, what it carries, and its bytes by address. -/
  | foreign (module port blend : Nat) (kind : EKind) (env : Env) (bytes : List EByte)
deriving DecidableEq, Repr

/-- The arguments of a move: the numbers it names, in the order its row lists them, a truth value and an input. -/
structure Sel where
  a : Nat := 0
  b : Nat := 0
  c : Nat := 0
  d : Nat := 0
  flag : Bool := false
  inp : Input := .none
deriving DecidableEq, Repr

/-- A move of the part: an event row with its arguments, or the issue position of a thread. -/
inductive Move where
  | event (i : Instr) (sel : Sel)
  | issue (t : Thr)
deriving DecidableEq, Repr

/-- The state of the module. -/
structure State where
  cores : SMap Core := []
  trays : SMap Tray := []
  parts : SMap Part := []
  gangs : SMap Gang := []
  /-- Data bytes by location: 2^52 times the module (0xFFF for this one) plus 2^45 times the owner plus the physical offset. -/
  mem : SMap Byte := []
  /-- Full granules, flag words and granules that hold uncorrectable data. -/
  full : SMap Bool := []
  flags : SMap Word := []
  poison : SMap Bool := []
  icache : List Line := []
  owners : SMap Owner := []
  ents : List Entry := []
  cmds : SMap Cmd := []
  mgmt : Mgmt := {}
  links : SMap Link := []
  time : Word := 0
  /-- Model fields (log 1, 4, 5): the environment's moves, the position, the cores still to be served in this cycle, the acting thread, the arguments of the move being taken, and number counters. -/
  agenda : List Move := []
  pos : Nat := 0
  turn : List Nat := []
  cur : Thr := .ctx 0 0
  sel : Sel := {}
  next : Nat := 1
  frees : Nat := 0
deriving DecidableEq, Repr

/-- The module right after reset: every register and table at its reset value, memory with nothing listed, no gang (R77, R191, R428). -/
def State.reset : State := {}

end Sys2Proof.Machine
end

