-- ==== Sys2Proof/Machine/Access.lean ====
section
/-! DEFINITION. Accessors of the state: registers, memory by location, addresses, lease and world checks, translation at the owner (spec/10_memories.md, 18_tables.md). -/

namespace Sys2Proof.Machine

/-- A core; one never touched holds its reset values. -/
def State.core (s : State) (n : Nat) : Core := SMap.get {} s.cores n

/-- The state with a core replaced. -/
def State.setCore (s : State) (n : Nat) (c : Core) : State := { s with cores := SMap.put {} s.cores n c }

/-- A thread's state. -/
def State.ctx (s : State) : Thr → Ctx
  | .ctx n i => SMap.get {} (s.core n).ctxs i
  | .draw n => (s.core n).draw
  | .brew n => (s.core n).brew

/-- A core with a thread's state replaced. -/
def Core.setCtx (c : Core) (i : Nat) (x : Ctx) : Core := { c with ctxs := SMap.put {} c.ctxs i x }

/-- The state with a thread's state replaced. -/
def State.setCtx (s : State) (t : Thr) (x : Ctx) : State :=
  match t with
  | .ctx n i => s.setCore n ((s.core n).setCtx i x)
  | .draw n => s.setCore n { s.core n with draw := x }
  | .brew n => s.setCore n { s.core n with brew := x }

/-- The core of a thread. -/
def Thr.core : Thr → Nat
  | .ctx n _ => n
  | .draw n => n
  | .brew n => n

/-- A kettle thread (R269). -/
def Thr.kettle : Thr → Bool
  | .ctx _ _ => false
  | _ => true

/-- The pot, and its tray, of a core (R10). -/
def potOf (n : Nat) : Nat := n / 512

/-- The cluster of a core, numbered across the module (R10). -/
def clusterOf (n : Nat) : Nat := n / 64

/-- The source port of a thread (R210): its core, or the tray of its pot for a kettle thread. -/
def Thr.port : Thr → Nat
  | .ctx n _ => n
  | t => 16384 + potOf t.core

/-- A tray. -/
def State.tray (s : State) (p : Nat) : Tray := SMap.get {} s.trays p

/-- The state with a tray replaced. -/
def State.setTray (s : State) (p : Nat) (t : Tray) : State := { s with trays := SMap.put {} s.trays p t }

/-- A partition, by its first pot. -/
def State.part (s : State) (p : Nat) : Part := SMap.get {} s.parts p

/-- The state with a partition replaced. -/
def State.setPart (s : State) (p : Nat) (x : Part) : State := { s with parts := SMap.put {} s.parts p x }

/-- An owner's translation state. -/
def State.owner (s : State) (o : Nat) : Owner := SMap.get {} s.owners o

/-- The state with an owner's translation state replaced. -/
def State.setOwner (s : State) (o : Nat) (x : Owner) : State := { s with owners := SMap.put {} s.owners o x }

/-- The state with a gang replaced. -/
def State.setGang (s : State) (i : Nat) (g : Gang) : State := { s with gangs := SMap.ins s.gangs i g }

/-- The state with a command replaced. -/
def State.setCmd (s : State) (c : Cmd) : State := { s with cmds := SMap.ins s.cmds c.id c }

/-- The first pot and the size of the partition that holds a pot (R418); without a map, the whole module. -/
def State.partOf (s : State) (pot : Nat) : Nat × Nat := SMap.get (0, 32) s.mgmt.conf.partOf pot

/-- A pot is the first of a partition. -/
def State.isPart (s : State) (p : Nat) : Bool := decide (p < 32) && (s.partOf p).1 == p

/-- The first pots of the partitions. -/
def State.partList (s : State) : List Nat := (rangeFrom 0 32).filter s.isPart

/-- A pot is secure by the world map (R138). -/
def State.potSecure (s : State) (pot : Nat) : Bool := SMap.get false s.mgmt.conf.potSecure pot

/-- A g register; g0 reads 0 (R77). -/
def Ctx.gr (c : Ctx) (r : Nat) : Word := if r = 0 then 0 else SMap.get 0 c.g r

/-- A v register. -/
def Ctx.vr (c : Ctx) (r : Nat) : VWord := SMap.get 0 c.v r

/-- A k register; k0 reads all ones (R77). -/
def Ctx.kr (c : Ctx) (r : Nat) : Word := if r = 0 then BitVec.allOnes 64 else SMap.get 0 c.k r

/-- The mask with bit `i` set. -/
def bit32 (i : Nat) : BitVec 32 := BitVec.ofNat 32 (2 ^ i)

/-- A write of a g register: discarded for g0 (R79); it clears the register's handle-pending bit (R82). -/
def Ctx.setG (c : Ctx) (r : Nat) (x : Word) : Ctx :=
  if r = 0 then c else { c with g := SMap.put 0 c.g r x, hpend := c.hpend &&& ~~~ bit32 r }


/-- The set of one g register; empty for g0 (R37, R79). -/
def RegSet.ofG (r : Nat) : RegSet := if r = 0 then {} else { g := bit32 r }

/-- The set of one v register. -/
def RegSet.ofV (r : Nat) : RegSet := { v := BitVec.ofNat 16 (2 ^ r) }

/-- The set of one k register; empty for k0. -/
def RegSet.ofK (r : Nat) : RegSet := if r = 0 then {} else { k := BitVec.ofNat 8 (2 ^ r) }

/-- The union of two register sets. -/
def RegSet.union (a b : RegSet) : RegSet := { g := a.g ||| b.g, v := a.v ||| b.v, k := a.k ||| b.k }

/-- `a` without the registers of `b`. -/
def RegSet.minus (a b : RegSet) : RegSet := { g := a.g &&& ~~~ b.g, v := a.v &&& ~~~ b.v, k := a.k &&& ~~~ b.k }

/-- The sets share a register. -/
def RegSet.meets (a b : RegSet) : Bool := a.g &&& b.g != 0 || a.v &&& b.v != 0 || a.k &&& b.k != 0

/-- The set is empty. -/
def RegSet.empty (a : RegSet) : Bool := a.g == 0 && a.v == 0 && a.k == 0

/-- The union of a list of sets. -/
def RegSet.all (l : List RegSet) : RegSet := l.foldl RegSet.union {}

/-- A write of a v register; what it held is gone, an error in it too. -/
def Ctx.setV (c : Ctx) (r : Nat) (x : VWord) : Ctx := { c with v := SMap.put 0 c.v r x, bad := c.bad.minus (RegSet.ofV r) }

/-- A write of a k register: discarded for k0 (R79). -/
def Ctx.setK (c : Ctx) (r : Nat) (x : Word) : Ctx :=
  if r = 0 then c else { c with k := SMap.put 0 c.k r x, bad := c.bad.minus (RegSet.ofK r) }

/-- Lane `i` of a v register. -/
def VWord.lane (x : VWord) (i : Nat) : Lane := BitVec.ofNat 32 (x.toNat / 2 ^ (32 * i))

/-- The v register of 64 lanes, lane 0 first. -/
def VWord.ofLanes : List Lane → Nat
  | [] => 0
  | l :: t => l.toNat + 2 ^ 32 * VWord.ofLanes t

/-- The lanes of a v register, lane 0 first. -/
def VWord.lanes (x : VWord) : List Lane := (rangeFrom 0 64).map (VWord.lane x)

/-- A v register from its lanes. -/
def vOfLanes (l : List Lane) : VWord := BitVec.ofNat 2048 (VWord.ofLanes l)

/-- The bytes of a v register. -/
def VWord.bytes (x : VWord) : List Byte := leBytes 256 x.toNat

/-- A bit of a mask. -/
def maskBit (m : Word) (i : Nat) : Bool := m.toNat.testBit i

/-! ## Addresses -/

/-- MODULE of a global address (R194). -/
def moduleOf (a : Word) : Nat := a.bits 52 12
/-- OWNER of a global address. -/
def ownerOf (a : Word) : Nat := a.bits 45 7
/-- OFFSET of a global address. -/
def offsetOf (a : Word) : Nat := a.bits 0 45

/-- The module number that stands for this module in a location. -/
def ownModule : Nat := 0xFFF
/-- The MODULE field of the blend window (R200). -/
def blendModule : Nat := 0xFFE

/-- The MODULE field, with this module's own fabric number read as 0xFFF (R195). -/
def State.canonModule (s : State) (m : Nat) : Nat :=
  if m = blendModule then m else if m = s.mgmt.conf.fabric then ownModule else m

/-- A location: module, owner and offset as one number. -/
def mkLoc (m o off : Nat) : Nat := 2 ^ 52 * m + off + 2 ^ 45 * o

/-- The module of a location. -/
def locModule (l : Nat) : Nat := l / 2 ^ 52
/-- The owner of a location. -/
def locOwner (l : Nat) : Nat := l / 2 ^ 45 % 2 ^ 7
/-- The offset of a location. -/
def locOff (l : Nat) : Nat := l % 2 ^ 45

/-- The blend rank that a blend-window address names (R200). -/
def blendRankOf (a : Word) : Nat := a.bits 30 12

/-- The blend-table entry of a rank; at and above SIZE it reads 0 (R283). -/
def Core.blendEntry (c : Core) (r : Nat) : Blend :=
  if r < c.blendSize then SMap.get ⟨false, 0, 0⟩ c.blend r else ⟨false, 0, 0⟩

/-- The module of a location for a fabric number: the peer numbered 0xFFF, which no address names by number (R195), stands apart from this module. -/
def State.farModule (s : State) (m : Nat) : Nat := if m = s.mgmt.conf.fabric then ownModule else if m = ownModule then 0x1000 else m

/-- The virtual location of a global address for a core, the blend window resolved (R195, R284). -/
def State.vloc (s : State) (core : Nat) (a : Word) : Nat :=
  if moduleOf a = blendModule then
    let e := (s.core core).blendEntry (blendRankOf a)
    mkLoc (s.farModule e.module) (e.potbase + ownerOf a) (a.bits 0 30)
  else mkLoc (s.canonModule (moduleOf a)) (ownerOf a) (offsetOf a)

/-- The start of the control window (R197). -/
def ctlBase : Nat := 0x20000000
/-- The start of the full/empty image. -/
def imageBase : Nat := 0x20400000
/-- The end of the populated range of pot SRAM (R196). -/
def sramEnd : Nat := 0x20800000

/-- A location that has a full/empty bit: a data byte of pot SRAM (R199). -/
def hasFull (l : Nat) : Bool := decide (locOwner l < 32) && decide (locOff l < ctlBase)

/-- The bank group of a location (R211): scratchpads, slices, then one for every other owner. -/
def bankOf (l : Nat) : Nat :=
  let o := locOwner l
  let f := locOff l
  let sram (f : Nat) : Nat := if f < 0x10000000 then f / 0x80000 else 512 + (f - 0x10000000) / 0x2000000
  let b :=
    if o < 32 then
      1024 * o + (if f < ctlBase then sram f else if f < imageBase then (f - ctlBase) / 0x2000 else sram (128 * (f - imageBase)))
    else 32 * 1024 + o
  2 ^ 20 * locModule l + b

/-- The 2 MiB virtual page of a location, or the whole bank group for SRAM (R216). Pages of one number at one owner count as the same page whatever their address spaces (DESIGN CHOICE, log 72). -/
def pageOf (l : Nat) : Nat := if locOwner l < 32 then 2 ^ 80 + bankOf l else l / 2 ^ 21

/-- The core whose flag word stands at a location of the flag span (R197). -/
def flagCore (l : Nat) : Nat := 512 * locOwner l + (locOff l - ctlBase) / 0x2000

/-- The location of flag word `f` of core `n` of this module (R197). -/
def flagLoc (n f : Nat) : Nat := mkLoc ownModule (potOf n) (ctlBase + 0x2000 * (n % 512) + 8 * (f % 1024))

/-- The first location of a core's scratchpad. -/
def padLoc (n : Nat) : Nat := mkLoc ownModule (potOf n) (0x80000 * (n % 512))

/-- The first location of a cluster's slice; clusters numbered across the module. -/
def sliceLoc (c : Nat) : Nat := mkLoc ownModule (c / 8) (0x10000000 + 0x2000000 * (c % 8))

/-- The reserved span of the root cluster slice of a partition (R301). -/
def rootLoc (part : Nat) : Nat := 0x1B00000 + sliceLoc (part * 8)

/-! ## Memory by location -/

/-- What a byte that nothing has written reads as (DESIGN CHOICE, log 2). -/
def Memory.unlisted : Byte := 0

/-- The canonical form of memory. -/
abbrev Memory.wf (m : SMap Byte) : Prop := SMap.wf Memory.unlisted m = true

/-- A flag word (R197). -/
def State.flag (s : State) (l : Nat) : Word := SMap.get 0 s.flags (l / 8)

/-- The granule of a location is full. -/
def State.isFull (s : State) (l : Nat) : Bool := SMap.get false s.full (l / 16)

/-- The byte at a location: data, a byte of a flag word, or a byte of the full/empty image (R197, R198). -/
def State.readLoc (s : State) (l : Nat) : Byte :=
  if locOwner l < 32 ∧ ctlBase ≤ locOff l then
    if locOff l < imageBase then BitVec.ofNat 8 ((s.flag l).toNat / 2 ^ (8 * (l % 8)))
    else
      let x := mkLoc (locModule l) (locOwner l) (128 * (locOff l - imageBase))
      BitVec.ofNat 8 ((rangeFrom 0 8).foldl (fun b j => b + if s.isFull (x + 16 * j) then 2 ^ j else 0) 0)
  else SMap.get Memory.unlisted s.mem l

/-- The state with the byte at a location written. -/
def State.writeLoc (s : State) (l : Nat) (b : Byte) : State := { s with mem := SMap.put Memory.unlisted s.mem l b }

/-- The state with bytes written from a location on. -/
def State.writeLocs (s : State) (l : Nat) (bs : List Byte) : State :=
  { s with mem := SMap.setRange Memory.unlisted s.mem l bs }

/-- The bytes from a location on. -/
def State.readLocs (s : State) (l n : Nat) : List Byte := (rangeFrom l n).map s.readLoc

/-- The little-endian number of `n` bytes at a location. -/
def State.readNat (s : State) (l n : Nat) : Nat := ofLeBytes (s.readLocs l n)

/-- The state with an `n`-byte number written at a location. -/
def State.writeNat (s : State) (l n x : Nat) : State := s.writeLocs l (leBytes n x)

/-- The state with a granule's full bit set or cleared. -/
def State.setFull (s : State) (l : Nat) (b : Bool) : State := { s with full := SMap.put false s.full (l / 16) b }

/-- The state with a flag word written. -/
def State.setFlag (s : State) (l : Nat) (w : Word) : State := { s with flags := SMap.put 0 s.flags (l / 8) w }

/-- The granule of a location holds uncorrectable data (R191, R425). -/
def State.isPoison (s : State) (l : Nat) : Bool := SMap.get false s.poison (l / 16)

/-- Uncorrectable data in a stretch of memory. -/
def State.poisoned (s : State) (l n : Nat) : Bool := s.poison.any (fun p => p.2 && decide (l / 16 ≤ p.1) && decide (p.1 * 16 < l + n))

/-! ## The issue checks (R122) -/

/-- The number by which leases are matched: OWNER and OFFSET[29:0] for the blend window (R204). -/
def State.leaseKey (s : State) (a : Word) : Nat :=
  if moduleOf a = blendModule then mkLoc blendModule (ownerOf a) (a.bits 0 30)
  else mkLoc (s.canonModule (moduleOf a)) (ownerOf a) (offsetOf a)

/-- The lease covers the byte of key `x`. -/
def State.leaseCovers (s : State) (l : Lease) (x : Nat) : Bool :=
  decide (s.leaseKey l.base ≤ x) && decide (x < s.leaseKey l.base + l.len)

/-- The access right that a byte needs. -/
structure Perm where
  r : Bool
  w : Bool
deriving DecidableEq, Repr

/-- The lease ranges of a core that admit the byte with the permission (R204, R198). -/
def State.admitting (s : State) (core : Nat) (p : Perm) (a : Word) : List Lease :=
  let x := s.leaseKey a
  ((s.core core).lease.map Prod.snd).filter (fun l =>
    s.leaseCovers l x && (!p.r || l.r) && (!p.w || l.w)
      && !(decide (ownerOf a < 32) && moduleOf a != blendModule && (decide (sramEnd ≤ offsetOf a) || p.w && decide (ctlBase ≤ offsetOf a))))

/-- Check 1 of R122 on a byte (R194, R200, R284). -/
def State.ownerOk (s : State) (core : Nat) (m : Nat) (a : Word) : Bool :=
  s.canonModule (moduleOf a) == m && decide (ownerOf a ≤ 66) &&
    (moduleOf a != blendModule ||
      (decide (ownerOf a < 32) && a.bits 42 3 == 0 && decide (a.bits 0 30 < ctlBase)
        && decide (((s.core core).blendEntry (blendRankOf a)).potbase + ownerOf a < 32)))

/-- The world of the pot that a location of this module's SRAM lies in is not this one (R207). -/
def State.potClash (s : State) (l : Nat) (w : Bool) : Bool := locModule l == ownModule && decide (locOwner l < 32) && s.potSecure (locOwner l) != w

/-- Check 3 of R122 on a byte (R207), the blend window resolved; a rank at or above SIZE names no pot (R200). -/
def State.worldOk (s : State) (core : Nat) (p : Perm) (a : Word) : Bool :=
  let w := (s.core core).secure
  let peer := moduleOf a != blendModule || decide (blendRankOf a < (s.core core).blendSize)
  (s.admitting core p a).all (fun l => l.secure == w) && !(peer && s.potClash (s.vloc core a) w)

/-- Check 4 of R122 on a byte. -/
def State.peerOk (s : State) (core : Nat) (a : Word) : Bool :=
  moduleOf a != blendModule || ((s.core core).blendEntry (blendRankOf a)).res

/-- How many bytes from `a` on have the same answer to every check: the distance to the next edge of an owner, a rank, a window or a lease. -/
def State.sameRun (s : State) (core : Nat) (a : Word) : Nat :=
  let f := offsetOf a
  let x := s.leaseKey a
  let edges := (2 ^ 45 - f) :: (if moduleOf a = blendModule then [2 ^ 30 - a.bits 0 30, ctlBase - a.bits 0 30] else [])
    ++ (if ownerOf a < 32 then [ctlBase - f, sramEnd - f] else [])
    ++ ((s.core core).lease.map (fun e => s.leaseKey e.2.base - x))
    ++ ((s.core core).lease.map (fun e => s.leaseKey e.2.base + e.2.len - x))
  edges.foldl (fun m e => if e = 0 then m else Nat.min m e) (2 ^ 45 - f)

/-- The lowest byte of `n` bytes from `a` on that fails a check. -/
def State.firstFail (s : State) (core : Nat) (ok : Word → Bool) : Nat → Word → Nat → Option Word
  | 0, _, _ => none
  | fuel + 1, a, n =>
    if n = 0 then none
    else if !ok a then some a
    else
      let d := s.sameRun core a
      if n ≤ d then none else s.firstFail core ok fuel (a + word d) (n - d)

/-- The lowest byte of a stretch that fails a check; the bytes of one that runs past the last address go on at address 0, and are the lower ones. -/
def State.lowestFail (s : State) (core : Nat) (ok : Word → Bool) (a : Word) (n : Nat) : Option Word :=
  let past := a.toNat + n - 2 ^ 64
  match s.firstFail core ok 160 0 past with
  | some b => some b
  | none => s.firstFail core ok 160 a (n - past)

/-- The first failing byte over several stretches of bytes, in the order of the lanes. -/
def State.firstFailAll (s : State) (core : Nat) (ok : Word → Bool) : List (Word × Nat) → Option Word
  | [] => none
  | (a, n) :: t =>
    match s.lowestFail core ok a n with
    | some b => some b
    | none => s.firstFailAll core ok t

/-- The cause codes of R150. -/
def cILLEGAL : Nat := 0x01
def cILLEGAL_HEADER : Nat := 0x02
def cBAD_TARGET : Nat := 0x03
def cHAZARD : Nat := 0x04
def cPRIV : Nat := 0x05
def cATOMIC_ALIGN : Nat := 0x06
def cLEASE : Nat := 0x07
def cBAD_OWNER : Nat := 0x08
def cWORLD : Nat := 0x09
def cPEER_GONE : Nat := 0x0A
def cRNR_LIMIT : Nat := 0x0B
def cQUEUE : Nat := 0x0C
def cMIGR_REFUSED : Nat := 0x0D
def cMATRIX_OWNER : Nat := 0x0E
def cTWIN_MISMATCH : Nat := 0x0F
def cHANDLE : Nat := 0x10
def cEXPECT_OVF : Nat := 0x11
def cBRK : Nat := 0x12
def cECC_UNCORR : Nat := 0x13
def cTEARDOWN : Nat := 0x14

/-- The checks of R122 over stretches of bytes, each over all of them before the next: the cause code and the failing byte. -/
def State.checkAccess (s : State) (core : Nat) (p : Perm) (l : List (Word × Nat)) : Option (Nat × Word) :=
  match l with
  | [] => none
  | (a, _) :: _ =>
    let m := s.canonModule (moduleOf a)
    match s.firstFailAll core (s.ownerOk core m) l with
    | some b => some (cBAD_OWNER, b)
    | none =>
      match s.firstFailAll core (fun b => !(s.admitting core p b).isEmpty) l with
      | some b => some (cLEASE, b)
      | none =>
        match s.firstFailAll core (s.worldOk core p) l with
        | some b => some (cWORLD, b)
        | none =>
          match s.firstFailAll core (s.peerOk core) l with
          | some b => some (cPEER_GONE, b)
          | none => none

/-- The byte is none of those that R199 lists as without a full/empty bit; an offset past the populated range is left to the lease check (R196). -/
def fullByte (a : Word) : Bool :=
  decide (ownerOf a < 32) && (moduleOf a == blendModule || decide (offsetOf a < ctlBase) || decide (sramEnd ≤ offsetOf a))

/-- The check of R199 over stretches of bytes: the first byte without a full/empty bit. -/
def State.checkFull (s : State) (core : Nat) (l : List (Word × Nat)) : Option Word := s.firstFailAll core fullByte l

/-! ## Translation at the owner (R201-R203, R385-R387) -/

/-- A region register names the byte (R142). -/
def inRegion (r : Word) (o off : Nat) : Bool :=
  let n := r.bits 52 6
  r.bits 63 1 == 1 && decide (21 ≤ n ∧ n ≤ 32) && r.bits 45 7 == o && decide (32 ≤ o ∧ o ≤ 65)
    && off / 2 ^ n == (2 ^ 21 * r.bits 21 24) / 2 ^ n

/-- The sub-page bit of a byte under the region registers an access carries (R202). -/
def subBit (e : Env) (o off : Nat) : Bool := e.regions.any (fun r => inRegion r o off)

/-- Bytes of physical memory of an owner: 64 GiB per stack, 1 TiB per second-tier half (R191). -/
def ownerSize (o : Nat) : Nat := if o < 64 then 2 ^ 36 else 2 ^ 40

/-- A directory or L1 entry is valid (R386). -/
def tableValid (o : Nat) (e : Word) : Bool :=
  e.bits 63 1 == 1 && e.bits 45 18 == 0 && e.bits 0 15 == 0 && decide (e.bits 0 45 < ownerSize o)

/-- A page entry is valid (R386). -/
def pageValid (o : Nat) (e : Word) : Bool :=
  e.bits 63 1 == 1 && e.bits 45 15 == 0 && e.bits 0 14 == 0 && decide (e.bits 0 45 < ownerSize o)
    && (e.bits 62 1 == 1 || e.bits 14 7 == 0)

/-- A sub-page entry is valid (R386). -/
def subValid (o : Nat) (e : Word) : Bool :=
  e.bits 63 1 == 1 && e.bits 61 2 == 0 && e.bits 45 15 == 0 && e.bits 0 10 == 0 && decide (e.bits 0 45 < ownerSize o)

/-- What the owner makes of an address. -/
inductive Xlat where
  | ok (loc : Nat)
  /-- A condition of R203 other than a TLB miss. -/
  | refuse
  /-- A miss; the key names the page or sub-page to walk for. -/
  | miss (key : Nat)
deriving DecidableEq, Repr

/-- The TLB key of a page entry. -/
def pageKey (asid page : Nat) : Nat := 2 ^ 24 * asid + page
/-- The walk key of a sub-page entry: above every page key. -/
def subKey (asid page sub : Nat) : Nat := 2 ^ 60 + 2 ^ 11 * pageKey asid page + sub

/-- The physical location of a virtual location of this module for a request (R201-R203); SRAM, the host window and other modules are not translated here (log 8). -/
def State.xlat (s : State) (e : Env) (l : Nat) : Xlat :=
  let o := locOwner l
  let f := locOff l
  if locModule l ≠ ownModule ∨ o < 32 ∨ 66 ≤ o then
    if locModule l = ownModule ∧ o < 32 ∧ s.potSecure o ≠ e.secure then .refuse else .ok l
  else
    let page := f / 2 ^ 21
    let sub := subBit e o f
    match SMap.find (s.owner o).tlb (pageKey e.asid page) with
    | none => .miss (pageKey e.asid page)
    | some pe =>
      if !pageValid o pe || pe.bits 60 1 == 1 || decide (pe.bits 62 1 = 1) != sub || decide (pe.bits 61 1 = 1) != e.secure then .refuse
      else if !sub then .ok (mkLoc ownModule o (2 ^ 21 * pe.bits 21 24 + f % 2 ^ 21))
      else
        match SMap.find (s.owner o).subtlb (subKey e.asid page (f / 2 ^ 10 % 2 ^ 11)) with
        | none => .miss (subKey e.asid page (f / 2 ^ 10 % 2 ^ 11))
        | some se =>
          if !subValid o se || se.bits 60 1 == 1 then .refuse
          else .ok (mkLoc ownModule o (2 ^ 10 * se.bits 10 35 + f % 2 ^ 10))

/-- A table entry in the owner's physical memory; one that holds uncorrectable data counts as not valid (R425). -/
def State.tableEntry (s : State) (o addr : Nat) : Word :=
  let l := mkLoc ownModule o addr
  if s.isPoison l then 0 else word (s.readNat l 8)

/-- The location of the page entry of a page, when the directory and L1 entries lead there (R385). -/
def State.pageSlot (s : State) (o asid page : Nat) : Option Nat :=
  let d := s.tableEntry o (SMap.get 0 s.mgmt.conf.root o + 8 * asid)
  if !tableValid o d then none
  else
    let l1 := s.tableEntry o (2 ^ 15 * d.bits 15 30 + 8 * (page / 2 ^ 12))
    if !tableValid o l1 then none else some (2 ^ 15 * l1.bits 15 30 + 8 * (page % 2 ^ 12))

/-- The page entry that a walk finds; an invalid one where the walk ends early. -/
def State.walkPage (s : State) (o asid page : Nat) : Word :=
  match s.pageSlot o asid page with
  | none => 0
  | some a => s.tableEntry o a

/-- The location of a sub-page entry, below a page entry with SUB = 1. -/
def State.subSlot (s : State) (o asid page sub : Nat) : Option Nat :=
  let pe := s.walkPage o asid page
  if pageValid o pe && pe.bits 62 1 == 1 then some (2 ^ 14 * pe.bits 14 31 + 8 * sub) else none

/-- The translation from the tables alone, as a walk and its fills would give it. -/
def State.xlatFresh (s : State) (e : Env) (l : Nat) : Option Nat :=
  let o := locOwner l
  let f := locOff l
  if locModule l ≠ ownModule ∨ o < 32 ∨ 66 ≤ o then some l
  else
    let pe := s.walkPage o e.asid (f / 2 ^ 21)
    let sub := subBit e o f
    if !pageValid o pe || pe.bits 60 1 == 1 || decide (pe.bits 62 1 = 1) != sub || decide (pe.bits 61 1 = 1) != e.secure then none
    else if !sub then some (mkLoc ownModule o (2 ^ 21 * pe.bits 21 24 + f % 2 ^ 21))
    else
      let se := s.tableEntry o (2 ^ 14 * pe.bits 14 31 + 8 * (f / 2 ^ 10 % 2 ^ 11))
      if !subValid o se || se.bits 60 1 == 1 then none else some (mkLoc ownModule o (2 ^ 10 * se.bits 10 35 + f % 2 ^ 10))

/-- The environment an access of a core carries from issue (R140, R202, R280, R282). -/
def State.env (s : State) (n : Nat) : Env :=
  let c := s.core n
  { core := n, secure := c.secure, asid := c.asid, regions := (rangeFrom 0 4).map (SMap.get 0 c.regions),
    rnrbase := c.rnrbase, rnrlimit := c.rnrlimit }

/-- The core with a counter raised by one (R400). -/
def Core.count (c : Core) (n : Nat) : Core := { c with ctr := SMap.put 0 c.ctr n (SMap.get 0 c.ctr n + 1) }

/-- Counting on a core happens only while a gang holds it (R401, R402). -/
def State.countAt (s : State) (core n : Nat) : State :=
  let c := s.core core
  if c.gang.isSome then s.setCore core (c.count n) else s

/-! ## Uncorrectable errors (R425) -/

/-- An uncorrectable error counted and logged. -/
def Mgmt.logError (m : Mgmt) (who off : Nat) : Mgmt :=
  { m with uncorr := m.uncorr + 1, errlog := word (2 ^ 48 * who + 2 ^ 40 * cECC_UNCORR + off % 2 ^ 40) }

/-- The state with an uncorrectable error counted and logged. -/
def State.logError (s : State) (who off : Nat) : State := { s with mgmt := s.mgmt.logError who off }

end Sys2Proof.Machine
end

