-- ==== Sys2Proof/Machine/Fetch.lean ====
section
/-! DEFINITION. Instruction fetch: cache lines, block-start maps, header checks and the reconstruction of a block from an address (spec/02_encoding.md R27-R32, 07_traps.md R146, 18_tables.md R392). -/

namespace Sys2Proof.Machine

/-- The state with a walk started at an owner (R203, R387). -/
def State.startWalk (s : State) (o key : Nat) : State :=
  let w := s.owner o
  if w.walks.contains key then s else s.setOwner o { w with walks := w.walks ++ [key] }

/-- The physical location of a fetched byte, or none while its translation is missing or its owner refuses it; a miss starts a walk. A refused fetch is tried again at the thread's next position, without a count of retries (DESIGN CHOICE, log 53). -/
def State.fetchLoc (s : State) (core : Nat) (a : Word) : State × Option Nat :=
  let l := s.vloc core a
  match s.xlat (s.env core) l with
  | .ok p => (s, some p)
  | .refuse => (s, none)
  | .miss k => (s.startWalk (locOwner l) k, none)

/-- The place in a lease range's map of the bit of the unit at `a` (R392): the address of its byte and its number there; none where the range gives it no bit. -/
def State.mapPlace (s : State) (a : Word) (l : Lease) : Option (Word × Nat) :=
  let x := s.leaseKey a
  let o := x - s.leaseKey l.base
  if l.r && l.map != 0 && s.leaseCovers l x then some (l.map + word (o / 64), o / 8 % 8) else none

/-- The places of a unit's map bits in the ranges of a core's gang that give it one. -/
def State.mapPlaces (s : State) (core : Nat) (a : Word) : List (Word × Nat) := (s.core core).lease.filterMap (fun p => s.mapPlace a p.2)

/-- The OR of some map bits (R392), read through the owners' translations; none while one of them is missing, its walk started (R203). -/
def State.orBits (s : State) (core : Nat) : List (Word × Nat) → State × Option Bool
  | [] => (s, some false)
  | (a, i) :: t =>
    match s.fetchLoc core a with
    | (s, none) => (s, none)
    | (s, some p) =>
      match s.orBits core t with
      | (s, none) => (s, none)
      | (s', some b) => (s', some (b || (s.readLoc p).toNat.testBit i))

/-- The block-start map bits of some units of a line, `u` the first one's number there. -/
def State.unitBits (s : State) (core : Nat) (a : Word) : Nat → Nat → State × Option Nat
  | _, 0 => (s, some 0)
  | u, n + 1 =>
    match s.orBits core (s.mapPlaces core (a + word (8 * u))) with
    | (s, none) => (s, none)
    | (s, some b) =>
      match s.unitBits core a (u + 1) n with
      | (s, none) => (s, none)
      | (s, some m) => (s, some (m + if b then 2 ^ u else 0))

/-- The block-start map bits of the 8 units of the line at `a`. -/
def State.mapBits (s : State) (core : Nat) (a : Word) : State × Option Nat := s.unitBits core a 0 8

/-- The lines of one core's gang in its cluster's cache match on cluster, gang, address space and address (DESIGN CHOICE, log 6). -/
def Line.is (l : Line) (cluster gang asid : Nat) (a : Word) : Bool :=
  l.cluster == cluster && l.gang == gang && l.asid == asid && l.addr == a

/-- The lines that a cluster's instruction cache holds: 256 KiB (R191). -/
def cacheLines : Nat := 4096

/-- The cache lines with one more: a full cache gives up the line it has held longest (DESIGN CHOICE, log 6). -/
def putLine (c : List Line) (l : Line) : List Line :=
  let mine := c.filter (fun x => x.cluster == l.cluster)
  (if mine.length < cacheLines then c else match mine with | [] => c | x :: _ => c.erase x) ++ [l]

/-- The 64-byte line that holds `a`, from the cache or filled from memory together with its map bits (R32, R191, R392); none while a translation of the line or of its map is missing. A line that is held gives its words as they were when it was filled, until ICINV or its eviction (DESIGN CHOICE, log 6). Uncorrectable data in the line or its map are fetched as the bytes stand (DESIGN CHOICE, log 94). -/
def State.fetchLine (s : State) (core : Nat) (a : Word) : State × Option Line :=
  let base := word (a.toNat / 64 * 64)
  let c := s.core core
  let g := c.gang.getD 0
  let asid := if ownerOf a < 32 then 0 else c.asid
  match s.icache.find? (fun l => l.is (clusterOf core) g asid base) with
  | some l => (s, some l)
  | none =>
    match s.fetchLoc core base with
    | (s, none) => (s, none)
    | (s, some p) =>
      match s.mapBits core base with
      | (s, none) => (s, none)
      | (s, some m) =>
        let l : Line := { cluster := clusterOf core, gang := g, asid := asid, addr := base, data := s.readLocs p 64, map := m }
        ({ s with icache := putLine s.icache l }, some l)

/-- Bytes of a line from an address on. -/
def Line.at (l : Line) (a : Word) (n : Nat) : Nat := ofLeBytes ((l.data.drop (a.toNat % 64)).take n)

/-- The read permission that a fetch needs (R204). -/
def fetchPerm : Perm := ⟨true, false⟩

/-- The outcome of looking at a header. -/
inductive HdrLook where
  /-- Its translation is still missing. -/
  | wait (s : State)
  /-- A failed access check: cause code and failing byte. -/
  | access (code : Nat) (va : Word)
  /-- Not aligned, or its map bit is clear (R28). -/
  | bad
  | ok (s : State) (h : Header)

/-- A header at a target address: alignment, the fetch's access checks (R32), and its map bit (R28). -/
def State.lookHeader (s : State) (core : Nat) (a : Word) : HdrLook :=
  if a.toNat % 8 ≠ 0 then .bad
  else
    match s.checkAccess core fetchPerm [(a, 8)] with
    | some (code, va) => .access code va
    | none =>
      match s.fetchLine core a with
      | (s, none) => .wait s
      | (s, some l) =>
        if l.map.testBit (a.toNat / 8 % 8) then .ok s (decodeHeader (word (l.at a 8))) else .bad

/-- The outcome of entering a block (R27, R31). -/
inductive EnterRes where
  | wait (s : State)
  | fault (code : Nat) (va : Word)
  | ok (s : State) (b : Block)

/-- The target check of R28: a header there, of a KIND that `admits` allows; kinds 5-7 pass here and raise ILLEGAL_HEADER on entry (R25, R31). -/
def State.checkTarget (s : State) (core : Nat) (a : Word) (admits : Nat → Bool) : EnterRes :=
  match s.lookHeader core a with
  | .wait s => .wait s
  | .access code va => .fault code va
  | .bad => .fault cBAD_TARGET a
  | .ok s h => if decide (h.kind < 5) && !admits h.kind then .fault cBAD_TARGET a else .ok s ⟨a, h.len, h.kind, h.pf⟩

/-- The block is one that may be executed: ILLEGAL_HEADER otherwise (R25). -/
def Block.legal (b : Block) : Bool := decide (0 < b.len) && decide (b.kind < 5)

/-- The address after a block: the next header (R24, R30). -/
def Block.next (b : Block) : Word := b.hdr + word (8 + 8 * ((b.len + 1) / 2))

/-- The address of the first word of a block. -/
def Block.first (b : Block) : Word := b.hdr + 8

/-- The kinds that the way of entering admits, for a thread now in a block of kind `k` (R27). -/
def admits (t : Thr) (e : Enter) (kind : Nat) : Bool :=
  match t, e with
  | .draw _, _ => kind == 3
  | .brew _, _ => kind == 4
  | .ctx _ _, .sachet => kind == 2
  | .ctx _ _, _ => kind == 0

/-- The location of an address as the tables give it in the world of the ranges that hold it. -/
def State.tableLoc (s : State) (core : Nat) (a : Word) : Option Nat :=
  s.xlatFresh { s.env core with secure := (s.admitting core fetchPerm a).all Lease.secure } (s.vloc core a)

/-- The OR of some map bits (R392), each read as the tables of its own range's world give it; none while one of them has no translation. -/
def State.tableBits (s : State) (core : Nat) : List (Word × Nat) → Option Bool
  | [] => some false
  | (a, i) :: t =>
    match s.tableLoc core a, s.tableBits core t with
    | some l, some b => some (b || (s.readLoc l).toNat.testBit i)
    | _, _ => none

/-- A header looked at for R146, which asks for its alignment, map bit and KIND alone: where a fetch would fail an access check, both are read as the tables of their ranges' worlds give them. -/
def State.lookPoint (s : State) (core : Nat) (a : Word) : HdrLook :=
  match s.lookHeader core a with
  | .access _ _ =>
    match s.tableBits core (s.mapPlaces core a), s.tableLoc core a with
    | some false, _ => .bad
    | some true, some l => .ok s (decodeHeader (word (s.readNat l 8)))
    | _, _ => .wait s
  | r => r

/-- The nearest header at or below a unit, over the units of one block's length (R146): a block has at most 8 + 508 bytes. -/
def State.headerBelow (s : State) (core : Nat) : Nat → Word → Word × HdrLook
  | 0, a => (a, .bad)
  | fuel + 1, a =>
    match s.lookPoint core a with
    | .bad => s.headerBelow core fuel (a - 8)
    | r => (a, r)

/-- Where a return point leads (R146): a header to be entered, or word `i` of a block. -/
inductive Point where
  | wait (s : State)
  | bad
  | header (s : State) (b : Block)
  | inside (s : State) (b : Block) (i : Nat)

/-- The return point T of R146, for KIND 0 and, where `outer`, KIND 1 blocks. -/
def State.returnPoint (s : State) (core : Nat) (t : Word) (ok : Nat → Bool) : Point :=
  match s.lookPoint core t with
  | .wait s => .wait s
  | .ok s h => if ok h.kind then .header s ⟨t, h.len, h.kind, h.pf⟩ else .bad
  | _ =>
    if t.toNat % 4 ≠ 0 then .bad
    else
      match s.headerBelow core 66 (word (t.toNat / 8 * 8)) with
      | (a, .ok s h) =>
        let d := (t - a).toNat
        if ok h.kind && decide (8 ≤ d) && decide ((d - 8) / 4 ≤ h.len) then .inside s ⟨a, h.len, h.kind, h.pf⟩ ((d - 8) / 4) else .bad
      | (_, .wait s) => .wait s
      | _ => .bad

/-! ## Prefetch (R25, R26, R191) -/

/-- The lines of a block filled, `n` of them from `a` on; a prefetch stops where it meets a missing translation, and never faults. -/
def State.prefetchLines (s : State) (core : Nat) (a : Word) : Nat → State
  | 0 => s
  | n + 1 => if (s.checkAccess core fetchPerm [(a, 4)]).isNone then (s.fetchLine core a).1.prefetchLines core (a + 64) n else s

/-- PF of a block entered: the lines of the next `n` blocks of the chain enter the instruction cache (R26: a hint). -/
def State.prefetch (s : State) (core : Nat) : Nat → Word → State
  | 0, _ => s
  | n + 1, a =>
    match s.lookHeader core a with
    | .ok s h =>
      let next := (Block.mk a h.len h.kind h.pf).next
      (s.prefetchLines core a (((next - a).toNat + a.toNat % 64 + 63) / 64)).prefetch core n next
    | .wait s => s
    | _ => s

end Sys2Proof.Machine
end

