-- ==== Sys2Proof/Machine/Gang.lean ====
section
/-! DEFINITION. What a gang leaves when it stops: completion signals, trace records, freed cores and the end of a gang (spec/15_scheduler.md R303, R319, R320; 19_counters.md R409, R411). -/

namespace Sys2Proof.Machine

/-- The launch-record doubleword at offset `o` (R302). -/
def Rec.dw (r : Rec) (o : Nat) : Word := word (ofLeBytes ((r.bytes.drop o).take 8))

/-- PRIO, WORLD, ASID and the other parts of a record (R302). -/
def Rec.prio (r : Rec) : Nat := (r.dw 0).bits 0 7
def Rec.secure (r : Rec) : Bool := (r.dw 0).bits 8 1 == 1
def Rec.nlease (r : Rec) : Nat := (r.dw 0).bits 16 5
def Rec.ndep (r : Rec) : Nat := (r.dw 0).bits 24 3
def Rec.asid (r : Rec) : Nat := (r.dw 0).bits 32 16
def Rec.signal (r : Rec) : Word := r.dw 0x18
def Rec.save (r : Rec) : Word := r.dw 0x98
def Rec.size (r : Rec) : Nat := (r.dw 0x68).bits 16 13 + 1
def Rec.rank (r : Rec) : Nat := (r.dw 0x68).bits 0 12
def Rec.blendid (r : Rec) : Nat := (r.dw 0x68).bits 32 32

/-- The first pot of a record's own rank (R283). -/
def Rec.potbase (r : Rec) (part : Nat) : Nat := if r.size = 1 then part else (SMap.get ⟨false, 0, 0⟩ r.blend r.rank).potbase

/-- The world and address space in which the launch engine uses a record's addresses. -/
def Rec.env (r : Rec) : Env := { secure := r.secure, asid := r.asid }

/-- The partition's number among the partitions in order of their first pot (R417). -/
def State.partNumber (s : State) (part : Nat) : Nat :=
  ((rangeFrom 0 32).filter (fun p => (s.partOf p).1 == p && decide (p < part))).length

/-- The location that the launch engine reaches through an address of a record: the tables alone decide (DESIGN CHOICE, log 11). -/
def State.sysLoc (s : State) (e : Env) (a : Word) : Option Nat :=
  s.xlatFresh e (mkLoc (s.canonModule (moduleOf a)) (ownerOf a) (offsetOf a))

/-- The state with bytes written at a global address by a launch engine; a place without translation is written by a later try (DESIGN CHOICE, log 11). -/
def State.sysWrite (s : State) (e : Env) (a : Word) (bs : List Byte) : State :=
  match s.sysLoc e a with
  | some l => s.writeLocs l bs
  | none => s

/-- The doubleword at a global address, read by a launch engine. -/
def State.sysRead (s : State) (e : Env) (a : Word) : Word :=
  match s.sysLoc e a with
  | some l => word (s.readNat l 8)
  | none => 0

/-- The completion signal of a record, written once, and the interrupt it owes the host (R303, R417); a signal whose place has no translation is refused there and written with a later try (R203) (DESIGN CHOICE, log 11). -/
def State.signal (s : State) (part : Nat) (r : Rec) (status code core : Nat) : State :=
  let x := status + 2 ^ 8 * code + 2 ^ 16 * core
  let late := if (s.sysLoc r.env r.signal).isSome then none else some (r.env, r.signal, x)
  let s := s.sysWrite r.env r.signal (leBytes 8 x)
  let p := s.part part
  s.setPart part { p with irqs := p.irqs ++ [{ vec := 16 * s.partNumber part + r.queue, write := late }] }

/-- The trace control block's enable bit (R408): 8 EVCOPY, 9 EVMAT, 10 EVSCHED. -/
def State.traceOn (s : State) (part bit : Nat) : Bool := (s.readNat (rootLoc part + 0x4A0) 8).testBit bit

/-- A trace record (R409). -/
def traceBytes (time : Word) (type info inc slot core aux : Nat) (pc data : Word) : List Byte :=
  leBytes 8 time.toNat ++ leBytes 8 (aux + 2 ^ 16 * core + 2 ^ 36 * slot + 2 ^ 40 * inc + 2 ^ 48 * info + 2 ^ 56 * type)
    ++ leBytes 8 pc.toNat ++ leBytes 8 data.toNat

/-- A record sent to the launch engine of a partition (R410). -/
def State.sendTrace (s : State) (part : Nat) (r : List Byte) : State :=
  let p := s.part part
  s.setPart part { p with traces := p.traces ++ [r] }

/-- A record of an event, when its source is enabled (R408, R410). -/
def State.trace (s : State) (core bit type info inc slot aux : Nat) (pc data : Word) : State :=
  let part := (s.partOf (potOf core)).1
  if s.traceOn part bit then s.sendTrace part (traceBytes s.time type info inc slot core aux pc data) else s

/-- The incarnation and slot that a trace record names for a thread; slot 15 names none (R409). -/
def Ctx.traceName (c : Ctx) : Nat × Nat :=
  match c.name with
  | some n => (n.inc, n.slot)
  | none => (0, 15)

/-- A scheduler record that names the root core of a gang (R410). -/
def State.traceGang (s : State) (g : Gang) (type info : Nat) : State :=
  if s.traceOn g.part 10 then
    s.sendTrace g.part (traceBytes s.time type info 0 15 (512 * g.part) 0 0 (word g.record.num))
  else s

/-- An idle kettle thread (R270). -/
def kettleIdle : Ctx := {}

/-- A message put in the orphan queue, or dropped when it is full (R342); an acknowledgement frees its reserved entry (R343). -/
def Core.orphan (c : Core) (m : Msg) : Core :=
  let c := c.count 0x030
  let c := if m.w0.bits 45 2 = 0 then c else { c with acks := c.acks - 1 }
  if c.orphans.length < 16 then { c with orphans := c.orphans ++ [m] } else c.count 0x031

/-- The unread messages of a context moved to the orphan queue, oldest first (R342). -/
def Core.orphanAll (c : Core) (i : Nat) : Core :=
  (c.rq.filter (fun m => m.ctx == i)).foldl Core.orphan { c with rq := c.rq.filter (fun m => m.ctx != i) }

/-- A core whose contexts a gang's end makes FREE (R311): each retires, so that its unread messages move to the orphan queue (R300, R342) (DEDUCED, log 79). -/
def Core.retireAll (c : Core) : Core := c.ctxs.foldl (fun c p => c.orphanAll p.1) c

/-- A core that no gang holds any more: contexts, queues of messages (saved before, R345, or orphaned, R342, the orphan queue emptied with them) and kettle threads are gone; mailboxes, lease table, tiles, matrix and copy state stand until the next dispatch or restore (R77, R178, R270, R307, R320, R342, R391), and the commands in the engines' queues, the vector engine's among them, run on (R153, R253, R300). -/
def Core.freed (c : Core) (world : Bool) : Core :=
  { c with
    gang := none
    ctxs := []
    slots := c.slots.map (fun p => (p.1, { p.2 with ctx := none, last := none }))
    rq := []
    acks := 0
    orphans := []
    draw := kettleIdle
    brew := kettleIdle
    drawq := []
    pourq := []
    rotIssued := 0
    prevWorld := some world }

/-- The state with the member cores of a gang freed; where the gang `ends`, its contexts retire. -/
def State.freeCores (s : State) (world ends : Bool) : List Nat → State
  | [] => s
  | n :: t => (s.setCore n ((if ends then (s.core n).retireAll else s.core n).freed world)).freeCores world ends t

/-- The entries that a gang's end takes out: its LDS entries in wait lists (R242) and its sachets (R359), and, where no rule names them, its FWAIT entries at flag words (DEDUCED, log 71). Every other entry still departs and performs (R231), an LDS that has not reached its wait list too, which then waits there for a fill, and a start message, which the core discards when it arrives (DEDUCED, log 71). -/
def gangEntryStays (cores : List Nat) (gid : Nat) (e : Entry) : Bool :=
  match e.kind with
  | .sachet => e.gang != gid
  | _ =>
    match e.src with
    | .thr t => !(e.phase == .waitlist && cores.contains t.core)
    | _ => true

/-- A gang's subscriptions end with it: each finishes the tile in progress (R267). -/
def endSubs (gid : Nat) (c : Cmd) : Cmd :=
  match c.instr with
  | .traySub .. => if c.gang = gid then { c with ended := true } else c
  | _ => c

/-- Commands that a gang's end or detach lets run on keep their numbers. -/
def State.endSubsOf (s : State) (gid : Nat) : State := { s with cmds := s.cmds.map (fun p => (p.1, endSubs gid p.2)) }

/-- The command is a collective. -/
def Cmd.isColl (c : Cmd) : Bool := match c.instr with | .allred .. => true | .allgath .. => true | _ => false

/-- An ended gang's commands whose block was still being read are gone: they were not accepted (R249, R253). -/
def State.dropUnread (s : State) (gid : Nat) : State := { s with cmds := s.cmds.filter (fun p => !(p.2.gang == gid && p.2.stage == .block)) }

/-- A link's replay state. -/
def State.link (s : State) (n : Nat) : Link := SMap.get {} s.links n

/-- A flit that has come through a link ends its run of failures (R279) (DEDUCED, log 44). -/
def State.linkPassed (s : State) (n : Nat) : State := { s with links := SMap.put {} s.links n { s.link n with fails := 0 } }

/-- A message to other modules put out. -/
def State.sendFar (s : State) (part : Nat) (l : List FarMsg) : State :=
  let p := s.part part
  s.setPart part { p with outbox := p.outbox ++ l }

/-- The word of a gang's residency goes out to the member modules of its blend (R286). -/
def State.tellResidency (s : State) (g : Gang) (res : Bool) : State :=
  if g.record.size = 1 then s else s.sendFar g.part [.residency g.record.blendid g.record.rank res]

/-- The blend peers of a gang that a fatal fault or an ABORT ends learn of it (R298, R320, R326, R330). -/
def State.tellGone (s : State) (g : Gang) : State :=
  if g.record.size = 1 then s else s.sendFar g.part [.gone g.record.blendid g.record.rank]

/-- The ranges of other modules that an ended gang held are released there (R208). -/
def State.releaseFar (s : State) (g : Gang) : State :=
  if g.held.isEmpty then s else s.sendFar g.part (g.held.map (fun p => .release p.2))

/-- A gang's cores freed and its remaining entries taken out. `info` is the INFO of the DETACH record (R410). -/
def State.dropGang (s : State) (gid : Nat) (g : Gang) (st : GState) (info : Nat) : State :=
  let s := s.traceGang g 0x11 info
  let s := s.freeCores g.record.secure (st == .ended) g.cores
  let s := { s with ents := s.ents.filter (gangEntryStays g.cores gid) }
  let s := s.tellResidency g false
  let s := if st = .ended then (s.dropUnread gid).releaseFar g else s
  (s.endSubsOf gid).setGang gid
    { g with st := st, halting := false, held := if st = .ended then [] else g.held, endNum := if st = .ended then s.next else g.endNum }

/-- A gang ends by a fatal fault on a core (R206, R320): signal FAULTED with the code and the core. -/
def State.gangEnd (s : State) (core code : Nat) : State :=
  match (s.core core).gang with
  | none => s
  | some gid =>
    match SMap.find s.gangs gid with
    | none => s
    | some g => ((s.dropGang gid g .ended 2).tellGone g).signal g.part g.record 2 code core

/-- The fault record of a thread (R15, R27, R137): its name, the cause and the datum. -/
def State.faultRec (s : State) (t : Thr) (cause : Nat) (epc vaddr : Word) : FaultRec :=
  let c := s.ctx t
  { core := t.core
    slot := if t.kettle then 15 else (c.name.map Name.slot).getD 15
    brew := match t with | .brew _ => true | _ => false
    inc := (c.name.map Name.inc).getD 0
    pc := c.pc
    cause := cause
    epc := epc
    vaddr := vaddr }

/-- The state with the fault record of a core's gang written. -/
def State.noteFault (s : State) (r : FaultRec) : State :=
  match (s.core r.core).gang with
  | none => s
  | some gid =>
    match SMap.find s.gangs gid with
    | none => s
    | some g => s.setGang gid { g with fault := some r }

/-- A gang ends by a fatal fault of a thread, with its record. -/
def State.gangEndBy (s : State) (t : Thr) (code cause : Nat) (epc vaddr : Word) : State :=
  (s.noteFault (s.faultRec t cause epc vaddr)).gangEnd t.core code

end Sys2Proof.Machine
end

