-- ==== Sys2Proof/Machine/Ops.lean ====
section
/-! DEFINITION. The shared operations of every instruction: taking a trap and returning from one, waiting and parking, lookahead windows, the issue of an instruction, and the issue of memory accesses (spec/02_encoding.md R36-R43, 07_traps.md R143-R151, 11_ordering.md R214). -/

namespace Sys2Proof.Machine

/-! ## Positions (R402) -/

/-- The classes and sub-reasons of R409. -/
inductive Cls4 where
  | issued | memory | message | vacant
deriving DecidableEq, Repr

inductive Sub where
  | none | hazard | handle | barrier | sendq | trap
deriving DecidableEq, Repr

/-- The class counter of R400. -/
def Cls4.ctr : Cls4 → Nat
  | .issued => 0x010 | .memory => 0x011 | .message => 0x012 | .vacant => 0x013

/-- The class code of R409. -/
def Cls4.code : Cls4 → Nat
  | .issued => 0 | .memory => 1 | .message => 2 | .vacant => 3

/-- The sub-reason code of R409. -/
def Sub.code : Sub → Nat
  | .none => 0 | .hazard => 1 | .handle => 2 | .barrier => 3 | .sendq => 4 | .trap => 5

/-- A core's counters after a position of this class and sub-reason; the sampler sees the same class (R412). -/
def Core.position (c : Core) (slot : Nat) (k : Cls4) (b : Sub) : Core :=
  let c := c.count k.ctr
  let c := if b.code = 0 then c else c.count (0x017 + b.code)
  let c := { c with posClass := SMap.put 3 c.posClass slot (k.code + 4 * b.code) }
  if k = .issued then { c with rotIssued := c.rotIssued + 1 } else c

/-- A position of a core's slot counted, while a gang holds the core. -/
def State.slotPosition (s : State) (core slot : Nat) (k : Cls4) (b : Sub) : State :=
  let c := s.core core
  if c.gang.isNone then s else s.setCore core (c.position slot k b)

/-- The slot in which a thread is bound. -/
def State.slotOf (s : State) (t : Thr) : Nat := ((s.ctx t).name.map Name.slot).getD 0

/-- A position of the thread counted; a kettle thread's adds to no counter (R402). -/
def State.position (s : State) (t : Thr) (k : Cls4) (b : Sub) : State :=
  if t.kettle then s else s.slotPosition t.core (s.slotOf t) k b

/-! ## Traps (R143-R151) -/

/-- The value of s.cause (R142). -/
def causeWord (code sub : Nat) (sup : Bool) : Word :=
  word (code + 2 ^ 8 * sub + if sup then 2 ^ 16 else 0)

/-- The thread's state after trap entry with s.tvec at `tvec`: cause, saved pc and datum, supervisor mode, windows suspended or closed, the program counter at the handler's header (R143, R144). -/
def Ctx.trapped (c : Ctx) (tr : Trap) (tvec : Word) : Ctx :=
  { c with
    cause := causeWord tr.code tr.sub c.sup
    epc := tr.epc
    vaddr := tr.vaddr
    susp := if c.sup then c.susp else c.windows
    suspBlk := if c.sup then c.suspBlk else c.blk.hdr
    windows := []
    sup := true
    pc := tvec
    enter := .admitted
    busy := .none
    wait := 0
    trap := none }

/-- Trap entry (R143): the header at s.tvec is entered, or the gang ends with BAD_TARGET or ILLEGAL_HEADER (R27); while the header's translation is missing the trap stays due. A handler outside every readable range is recorded as LEASE, one in a range of the other world as BAD_TARGET (DESIGN CHOICE, log 64). -/
def State.enterTrap (s : State) (n i : Nat) (tr : Trap) : State :=
  let c := s.ctx (.ctx n i)
  let tvec := (s.core n).tvec
  match s.checkTarget n tvec (fun k => k == 1) with
  | .wait s => s.setCtx (.ctx n i) { c with trap := some tr, busy := .none }
  | .fault code _ => let k := if code = cLEASE then cLEASE else cBAD_TARGET; s.gangEndBy (.ctx n i) k k tr.epc tvec
  | .ok s b =>
    if b.kind ≠ 1 then s.gangEndBy (.ctx n i) cBAD_TARGET cBAD_TARGET tr.epc tvec
    else if b.len = 0 then s.gangEndBy (.ctx n i) cILLEGAL_HEADER cILLEGAL_HEADER tr.epc tvec
    else s.setCtx (.ctx n i) (c.trapped tr tvec)

/-- The pending registers that are marked failed (R42). -/
def Ctx.failed (c : Ctx) : RegSet := RegSet.all (c.fails.map (fun f => f.dest.getD {}))

/-- Pending registers whose result is still to come (DEDUCED, log 24). -/
def Ctx.awaited (c : Ctx) : RegSet := c.pend.minus c.failed

/-- Raising a fault (R137, R143, R150): LEASE and any fault of kettle code end the gang; otherwise the trap is entered, or waits for the thread's pending bits. A deferred fault waits for no other failed bit (DEDUCED, log 14). -/
def State.raise (s : State) (t : Thr) (tr : Trap) : State :=
  match t with
  | .draw _ | .brew _ => s.gangEndBy t cLEASE tr.code tr.epc tr.vaddr
  | .ctx n i =>
    if tr.code = cLEASE then s.gangEndBy t cLEASE cLEASE tr.epc tr.vaddr
    else
      let c := s.ctx t
      if c.pend.empty || (tr.late && c.awaited.empty) then s.enterTrap n i tr else s.setCtx t { c with trap := some tr, busy := .none }

/-- The thread whose held instruction faults: its windows are those before the instruction, which has had no effect (R38, R150). -/
def Ctx.undone (c : Ctx) : Ctx := { c with busy := .none, windows := c.before }

/-- A fault of the instruction at the thread's program counter. -/
def State.raiseAt (s : State) (t : Thr) (code sub : Nat) (va : Word) : State :=
  s.raise t { code := code, sub := sub, epc := (s.ctx t).pc, vaddr := va }

/-- The deferred fault to take, where the failures `due` selects are due: an ECC_UNCORR before an RNR_LIMIT (R126, R151). -/
def Ctx.dueFault (c : Ctx) (due : Fail → Bool) : Option Fail :=
  match (c.fails.filter due).find? (fun f => f.ecc) with
  | some f => some f
  | none => (c.fails.filter due).head?

/-- A failure recorded for a thread: a load's destinations, or none for what is due at the next attempt (DEDUCED, log 15). -/
def Ctx.fail (c : Ctx) (dest : Option RegSet) (ecc : Bool) (epc va : Word) : Ctx :=
  let d := match dest with
    | some r => if r.empty then none else some r
    | none => none
  { c with fails := c.fails ++ [{ dest := d, ecc := ecc, epc := epc, vaddr := va }] }

/-- The trap of a deferred fault. -/
def Fail.trap (f : Fail) : Trap :=
  { code := if f.ecc then cECC_UNCORR else cRNR_LIMIT, sub := 0, epc := f.epc, vaddr := f.vaddr, late := true }

/-- The thread's state once a deferred fault is taken: its record goes, and the failed bits of its load clear (R42, R126); another load's failure stays due (DEDUCED, log 14). -/
def Ctx.takeFail (c : Ctx) (f : Fail) : Ctx := { c with pend := c.pend.minus (f.dest.getD {}), fails := c.fails.erase f }

/-- A deferred fault taken (R42, R126, R151). -/
def State.takeFail (s : State) (t : Thr) (f : Fail) : State :=
  (s.setCtx t ((s.ctx t).takeFail f)).raise t f.trap

/-- The return from a handler (R148): mode from PMODE, the suspended windows resumed when it was 0, the program counter at T. The handler's own windows close with its block, and so do the suspended ones unless the return point is a word of the block in which they stand (R30, R38). -/
def Ctx.returned (c : Ctx) (pc : Word) (b : Block) (e : Enter) : Ctx :=
  let m := c.cause.bits 16 1 == 1
  { c with
    windows := if m || e != .none || b.hdr != c.suspBlk then [] else c.susp
    susp := if m then c.susp else []
    sup := m
    pc := pc
    blk := b
    enter := e
    wait := 0 }

/-! ## Waiting on an event (R89, R311, R316) -/

/-- The wait word of R89. -/
def waitWord (event reg clr chan flag datum : Nat) : Word :=
  word (event + 2 ^ 4 * reg + 2 ^ 9 * clr + 2 ^ 10 * chan + 2 ^ 12 * flag + 2 ^ 32 * datum)

/-! ## The issue of an instruction -/

/-- What an instruction names: source and destination registers, the g registers whose handles it waits for (R82), its lookahead when it is long-latency (R37), whether it is privileged (R136), and whether it waits for every pending bit. -/
structure Use where
  src : RegSet := {}
  dst : RegSet := {}
  /-- Sources read without parking on a handle (HTEST, HPASS, HCANCEL). -/
  bare : Bool := false
  la : Option Nat := none
  priv : Bool := false
  all : Bool := false

/-- What an instruction's effect comes to. -/
inductive Act where
  /-- Done: the thread goes on behind it. -/
  | go (s : State)
  /-- Done, its long-latency destinations not pending: nothing is outstanding. -/
  | goNow (s : State)
  /-- Not done: it keeps its position and issues again. -/
  | stay (s : State) (k : Cls4) (b : Sub)
  /-- Not done, blocked on an event of R311: it may park. -/
  | block (s : State) (ev : Word) (k : Cls4) (b : Sub)
  /-- A precise fault (R150). -/
  | trap (code sub : Nat) (va : Word)
  /-- A fault raised in a state where part of the effect has happened. -/
  | trapIn (s : State) (tr : Trap)
  /-- A fault raised already, in place of the instruction (R395, R42). -/
  | fell (s : State)
  /-- Control transferred: the thread's program counter and windows are as `s` has them. -/
  | jump (s : State)

/-- Windows after one more word of the block has issued (R38, R40). -/
def stepWindows (w : List Window) : List Window :=
  (w.filter (fun x => decide (0 < x.left))).map (fun x => { x with left := x.left - 1 })

/-- The handle-pending bits of the registers that an instruction will write clear at its issue (R82, R95). -/
def Ctx.claimed (c : Ctx) (u : Use) : Ctx := { c with hpend := c.hpend &&& ~~~ u.dst.g }

/-- The thread behind an instruction that did not transfer control (R24, R30, R37, R38, R95). -/
def Ctx.advance (c : Ctx) (u : Use) (pends : Bool) : Ctx :=
  let c := if u.la.isSome then c.claimed u else c
  let w := stepWindows c.windows ++ (match u.la with | some n => [⟨n, u.dst⟩] | none => [])
  let p := if u.la.isSome && pends then c.pend.union u.dst else c.pend
  let i := (c.pc + 4 - c.blk.first).toNat / 4
  if i < c.blk.len then { c with pc := c.pc + 4, windows := w, pend := p, wait := 0 }
  else { c with pc := c.blk.next, enter := .fall, windows := [], pend := p, wait := 0 }

/-- The thread behind its instruction, and the position counted as issued. -/
def State.behind (s : State) (t : Thr) (u : Use) (pends : Bool) : State :=
  (s.setCtx t ((s.ctx t).advance u pends)).position t .issued .none

/-- The instruction names a register of a window that contains it (R39). -/
def Ctx.hazard (c : Ctx) (u : Use) : Bool :=
  c.windows.any (fun w => decide (0 < w.left) && w.set.meets (u.src.union u.dst))

/-- The g registers of a set, lowest first. -/
def gregs (m : BitVec 32) : List Nat := (rangeFrom 0 32).filter (fun i => m.toNat.testBit i)

/-- A core's handle-table entry. -/
def Core.handle (c : Core) (i : Nat) : Handle := SMap.get {} c.handles i

/-- A core with a handle-table entry replaced. -/
def Core.setHandle (c : Core) (i : Nat) (h : Handle) : Core := { c with handles := SMap.put {} c.handles i h }

/-- The handle of an entry (R81). -/
def handleWord (core gen idx : Nat) : Word := word (idx + 2 ^ 8 * gen + 2 ^ 16 * core)

/-- A handle is valid on a core (R395). -/
def Core.handleValid (c : Core) (n : Nat) (h : Word) : Bool :=
  h.bits 30 34 == 0 && h.bits 6 2 == 0 && h.bits 16 14 == n
    && (c.handle (h.bits 0 6)).st != .free && (c.handle (h.bits 0 6)).gen == h.bits 8 8

/-- The thread with the handle-pending bits of every register that holds `h` cleared (R82). -/
def Ctx.clearHandle (c : Ctx) (h : Word) : Ctx :=
  { c with hpend := (gregs c.hpend).foldl (fun m r => if c.gr r = h then m &&& ~~~ bit32 r else m) c.hpend }

/-- The report of a FAULTED entry (R395): the entry becomes RESOLVED, the thread's bits for the handle clear, and the fault is raised with the entry's EPC, or the instruction's own for TEARDOWN. -/
def State.report (s : State) (t : Thr) (h : Word) : State :=
  let n := t.core
  let e := (s.core n).handle (h.bits 0 6)
  let s := s.setCore n ((s.core n).setHandle (h.bits 0 6) { e with st := .resolved })
  let s := s.setCtx t ((s.ctx t).clearHandle h)
  s.raise t { code := e.code, sub := 0, epc := if e.code = cTEARDOWN then (s.ctx t).pc else e.epc, vaddr := e.vaddr }

/-- What reading handle-pending registers comes to (R82): nothing, a report, or a wait. Of several such registers the lowest-numbered one that is pending or faulted decides (DESIGN CHOICE, log 54). -/
def State.readHandles (s : State) (t : Thr) : List Nat → Option Act
  | [] => none
  | r :: l =>
    let h := (s.ctx t).gr r
    let e := (s.core t.core).handle (h.bits 0 6)
    if e.gen = h.bits 8 8 ∧ e.st = .pending then some (.block s (waitWord 2 r 0 0 0 0) .memory .handle)
    else if e.gen = h.bits 8 8 ∧ e.st = .faulted then some (.fell (s.report t h))
    else s.readHandles t l

/-- The state that an instruction's outcome leaves, and the class of its position (R402). A position at which a fault is raised counts as one of trap entry: its instruction has had no effect (DEDUCED, log 55). -/
def State.settle (s : State) (t : Thr) (u : Use) : Act → State
  | .go s' => s'.behind t u true
  | .goNow s' => s'.behind t u false
  | .stay s' k b => s'.position t k b
  | .block s' ev k b => (s'.setCtx t { s'.ctx t with wait := ev }).position t k b
  | .trap code sub va => (s.position t .vacant .trap).raiseAt t code sub va
  | .trapIn s' tr => (s'.position t .vacant .trap).raise t tr
  | .fell s' => s'.position t .vacant .trap
  | .jump s' => s'.position t .issued .none

/-- The v registers that a search command of a thread will write (R381, R383). -/
def Cmd.searchDst (c : Cmd) : RegSet :=
  match c.instr with
  | .ldnear _ _ v _ => (RegSet.ofV (2 * v.val)).union (RegSet.ofV (2 * v.val + 1))
  | .ixsnap _ _ v _ => RegSet.ofV v
  | _ => {}

/-- The sub-reason of a wait for pending registers: handle where a search holds one of them (R381). -/
def State.pendSub (s : State) (names : RegSet) : Sub :=
  if s.cmds.any (fun (p : Nat × Cmd) => s.cur == .ctx p.2.core p.2.ctx && p.2.searchDst.meets names) then .handle else .none

/-- Every piece of an access has performed or is gone. -/
def State.settled (s : State) (acc : Nat) : Bool := acc == 0 || !s.ents.any (fun e => e.acc == acc)

/-- The deferred fault of a thread due at an attempt that names some registers, or waits for every pending bit (R42, R126): a store's at any attempt, once its pieces are settled (DEDUCED, log 14). -/
def State.dueAt (s : State) (t : Thr) (names : RegSet) (all : Bool) : Option Fail :=
  (s.ctx t).dueFault (fun f => match f.dest with | none => s.settled f.acc | some d => all || d.meets names)

/-- The g registers of an instruction's sources whose handles it waits for or reports (R82). -/
def Ctx.handleReads (c : Ctx) (u : Use) : List Nat := gregs (u.src.g &&& c.hpend)

/-- What keeps an instruction from its effect, in the order of R151, R53, R82, R381: a deferred fault, PRIV, HAZARD, a handle it reads in a register whose value is there, registers that are still pending, and a register it reads that holds an uncorrectable error (R155). -/
def State.gate (s : State) (u : Use) : Option Act :=
  let c := s.ctx s.cur
  let names := u.src.union u.dst
  match s.dueAt s.cur names u.all with
  | some f => some (.fell (s.takeFail s.cur f))
  | none =>
    if u.priv && !c.sup then some (.trap cPRIV 0 0)
    else if c.hazard u then some (.trap cHAZARD 0 0)
    else
      match (if u.bare then none else s.readHandles s.cur (c.handleReads u)) with
      | some a => some a
      | none =>
        if (u.all && !c.pend.empty) || c.pend.meets names then some (.stay s .memory (s.pendSub names))
        else if c.bad.meets u.src then some (.trap cECC_UNCORR 0 0) else none

/-- An instruction of the acting thread: the checks of `gate`, then its effect. -/
def issue (s : State) (u : Use) (body : State → Ctx → Act) : Host.Outcome State Fault Refusal :=
  match s.gate u with
  | some a => .next (s.settle s.cur u a)
  | none => .next (s.settle s.cur u (body s (s.ctx s.cur)))

/-- Nothing keeps the instruction from its effect. -/
def State.clear (s : State) (u : Use) : Bool := (s.gate u).isNone

/-! ## Fences (R224) -/

/-- The thread's egress is empty. -/
def State.egEmpty (s : State) (t : Thr) : Bool := !s.ents.any (fun e => e.phase == .egress && e.src == .thr t && e.cls == .store)

/-- A probe of the thread has not been answered. -/
def State.probing (s : State) (t : Thr) : Bool := s.ents.any (fun e => e.kind == .probe && e.src == .thr t)

/-- The probes of a release, one for each bank group touched (R214). -/
def probes (t : Thr) (env : Env) : Nat → List Nat → List Entry
  | _, [] => []
  | n, b :: l =>
    { id := n, src := .thr t, port := t.port, tgt := b, cls := .store, phase := .egress, kind := .probe, env := env } :: probes t env (n + 1) l

/-- The list without repeats. -/
def dedup : List Nat → List Nat
  | [] => []
  | x :: t => let r := dedup t; if r.contains x then r else x :: r

/-- The bank groups that an entry addresses. -/
def Entry.banks (e : Entry) : List Nat := if e.bytes.isEmpty then [e.tgt] else dedup (e.bytes.map (fun b => bankOf b.loc))

/-- TB(t) with a bank group to which an entry of number `id` is sent (R214, R221). -/
def addBank (id : Nat) (tb : List (Nat × Nat)) (b : Nat) : List (Nat × Nat) :=
  if tb.any (fun p => p.1 == b) then tb.map (fun p => if p.1 = b then (b, id) else p) else tb ++ [(b, id)]

/-- TB(t) with the bank groups that some entries address. -/
def touchAll (tb : List (Nat × Nat)) (l : List Entry) : List (Nat × Nat) := l.foldl (fun tb e => e.banks.foldl (addBank e.id) tb) tb

/-- The bank groups in TB(t). -/
def Ctx.touched (c : Ctx) : List Nat := c.tb.map Prod.fst


/-- The state with probes for TB(t) appended to EG(t); TB(t) notes them, as entries that a later echo of an older probe leaves standing (R221). -/
def State.probe (s : State) (t : Thr) : State :=
  let c := s.ctx t
  let pr := probes t (s.env t.core) s.next c.touched
  ({ s with ents := s.ents ++ pr, next := s.next + pr.length } : State).setCtx t { c with tb := touchAll c.tb pr }

/-- A fence done in stages (R224): it starts its probes, keeps the thread while EG(t) is not empty or a probe is out, and then `done` happens. `wide` is a scope above .core. -/
def State.fenced (s : State) (wide : Bool) (done : State → Act) : Act :=
  let t := s.cur
  let c := s.ctx t
  if c.busy = .fence then
    if s.egEmpty t && (!wide || !s.probing t) then done (s.setCtx t { c with busy := .none }) else .stay s .memory .none
  else if s.egEmpty t && (!wide || c.tb.isEmpty) then done s
  else
    let s := s.setCtx t { c with busy := .fence }
    .stay (if wide then s.probe t else s) .memory .none

/-! ## Memory accesses (R121-R123, R214) -/

/-- The sum of the base and a scaled displacement (R121). -/
def effAddr (a : Word) (disp : BitVec 7) (scale : Nat) : Word := a + (disp.signExtend 64) * word scale

/-- `n` consecutive bytes from `a`, the first at place `i` of the access, with values taken from a list. -/
def contiguous (a : Word) : Nat → Nat → List Byte → List EByte
  | _, 0, _ => []
  | i, n + 1, v => { va := a, loc := 0, idx := i, val := v.headD 0 } :: contiguous (a + 1) (i + 1) n v.tail

/-- A byte put at its place by address. -/
def insByte (b : EByte) : List EByte → List EByte
  | [] => [b]
  | x :: t => if b.va.toNat < x.va.toNat then b :: x :: t else x :: insByte b t

/-- Bytes in increasing order of address. -/
def sortBytes (l : List EByte) : List EByte := l.foldr insByte []

/-- A byte added to the piece of its owner or bank group, or to a new piece behind the others. -/
def addPiece (t : Nat) (b : EByte) : List (Nat × List EByte) → List (Nat × List EByte)
  | [] => [(t, [b])]
  | (x, l) :: r => if x = t then (x, l ++ [b]) :: r else (x, l) :: addPiece t b r

/-- The bytes of a list by bank group, each with the group's number. -/
def splitBanks (l : List EByte) : List (Nat × List EByte) := l.foldl (fun p b => addPiece (bankOf b.loc) b p) []

/-- The pieces of an access, one for each owner its bytes touch, in increasing order of their lowest address (R123); a piece is numbered by the bank group of its lowest byte. -/
def splitPieces (l : List EByte) : List (Nat × List EByte) :=
  (l.foldl (fun p b => addPiece (b.loc / 2 ^ 45) b p) []).map (fun p => (bankOf ((p.2.head?.map EByte.loc).getD 0), p.2))

/-- The bytes with their virtual locations for a core. -/
def State.located (s : State) (core : Nat) (l : List EByte) : List EByte := l.map (fun b => { b with loc := s.vloc core b.va })

/-- What kind of access is issued. -/
structure Order where
  kind : EKind
  /-- A load, atomic or other access that awaits replies. -/
  replies : Bool
  acq : Bool := false
  rel : Nat := 0

/-- The entries of an access's pieces. -/
def pieceEntries (t : Thr) (env : Env) (o : Order) (acc : Nat) (epc : Word) (after : List Nat) : Nat → List (Nat × List EByte) → List Entry
  | _, [] => []
  | n, (b, l) :: r =>
    { id := n, src := .thr t, port := t.port, tgt := b, cls := .store, phase := .egress, kind := o.kind, acc := acc, bytes := l, env := env,
      rel := o.rel, acq := o.acq, after := after, epc := epc, low := (l.head?.map EByte.va).getD 0 } ::
      pieceEntries t env o acc epc after (n + 1) r

/-- ISSUE (R214): the access enters IQ(t), the probes of a wide release and its pieces enter EG(t), and TB(t) grows. -/
def State.issueAccess (s : State) (t : Thr) (o : Order) (dest : Dest) (bytes : List EByte) : State :=
  let bs := s.located t.core bytes
  let ps := splitPieces bs
  if ps.isEmpty then s
  else
    let env := s.env t.core
    let c := s.ctx t
    let acc := s.next
    let pr := if o.rel = 2 then probes t env (s.next + 1) c.touched else []
    let n0 := s.next + 1 + pr.length
    let es := pieceEntries t env o acc c.pc (pr.map Entry.id) n0 ps
    let a : Access := { id := acc, dest := dest, load := o.replies, acq := o.acq, epc := c.pc, left := ps.length, data := [], ecc := none, rnr := none }
    let s := { s with ents := s.ents ++ (pr ++ es), next := n0 + ps.length }
    s.setCtx t { c with iq := c.iq ++ [a], tb := touchAll c.tb (pr ++ es) }

/-- A release at this scope: 1 at .core, 2 above; a blend-window address orders at .sys (R222, R224). -/
def relOf (c : Scope) (a : Word) : Nat := if c = .core && moduleOf a != blendModule then 1 else 2

end Sys2Proof.Machine
end

