-- ==== Sys2Proof/Machine/Flags.lean ====
section
/-! DEFINITION. The sticky flags of s.fflags (spec/03_numbers.md R69, R70). -/

namespace Sys2Proof.Machine

/-- A set of flags, as the bits of s.fflags. -/
abbrev FFlags := BitVec 5

/-- Invalid operation. -/
def fNV : FFlags := 16
/-- Division of a finite non-zero value by zero. -/
def fDZ : FFlags := 8
/-- Overflow. -/
def fOF : FFlags := 4
/-- Tiny and inexact. -/
def fUF : FFlags := 2
/-- Inexact. -/
def fNX : FFlags := 1
/-- No flag. -/
def fNone : FFlags := 0

/-- The flag where the condition holds. -/
def flagIf (b : Bool) (f : FFlags) : FFlags := if b then f else 0

/-- An operation ORs its flags into s.fflags and clears none (R69). -/
def Ctx.orFlags (c : Ctx) (f : FFlags) : Ctx := { c with fflags := c.fflags ||| f }

end Sys2Proof.Machine
end

