-- ==== Sys2Proof/Machine/Float.lean ====
section
/-! DEFINITION. Floating point on exact values: formats, rounding, the arithmetic of R62-R65, conversions, and the fixed orders of sums (spec/03_numbers.md). -/

namespace Sys2Proof.Machine

/-- A floating-point value: NaN, an infinity, or (-1)^neg * m * 2^e exactly. -/
inductive Fp where
  | nan
  | inf (neg : Bool)
  | num (neg : Bool) (m : Nat) (e : Int)
deriving DecidableEq, Repr

/-- A format of R55: exponent and mantissa bits, bias, and whether the top exponent holds infinities and NaNs. -/
structure Fmt where
  eb : Nat
  mb : Nat
  bias : Nat
  ieee : Bool
deriving DecidableEq, Repr

def fp32 : Fmt := ⟨8, 23, 127, true⟩
def bf16 : Fmt := ⟨8, 7, 127, true⟩
def fp16 : Fmt := ⟨5, 10, 15, true⟩
def e4m3 : Fmt := ⟨4, 3, 7, false⟩
def e5m2 : Fmt := ⟨5, 2, 15, true⟩
def e2m1 : Fmt := ⟨2, 1, 1, false⟩

/-- Bits of a format. -/
def Fmt.width (f : Fmt) : Nat := 1 + f.eb + f.mb

/-- The value of an encoding (R55). -/
def Fmt.decode (f : Fmt) (x : Nat) : Fp :=
  let m := x % 2 ^ f.mb
  let e := x / 2 ^ f.mb % 2 ^ f.eb
  let s := decide (x / 2 ^ (f.mb + f.eb) % 2 = 1)
  let top := 2 ^ f.eb - 1
  if f.ieee && e == top then (if m = 0 then .inf s else .nan)
  else if f == e4m3 && e == top && m == 7 then .nan
  else if e = 0 then .num s m (1 - (f.bias : Int) - f.mb)
  else .num s (m + 2 ^ f.mb) ((e : Int) - f.bias - f.mb)

/-- The bits of the largest finite magnitude. -/
def Fmt.maxFinite (f : Fmt) : Nat :=
  if f.ieee then (2 ^ f.eb - 1) * 2 ^ f.mb - 1
  else if f == e4m3 then 0x7E else 2 ^ (f.eb + f.mb) - 1

/-- The canonical NaN (R55); E2M1 has none. -/
def Fmt.nanBits (f : Fmt) : Nat :=
  if f == e4m3 then 0x7F else if f == e5m2 then 0x7E
  else (2 ^ f.eb - 1) * 2 ^ f.mb + 2 ^ (f.mb - 1)

/-- The sign bit of a format. -/
def Fmt.sign (f : Fmt) (neg : Bool) : Nat := if neg then 2 ^ (f.eb + f.mb) else 0

/-- An infinity of a format that has them. -/
def Fmt.infBits (f : Fmt) (neg : Bool) : Nat := f.sign neg + (2 ^ f.eb - 1) * 2 ^ f.mb

/-- The number of bits of a number; 0 has none. -/
def bitLen (n : Nat) : Nat := if n = 0 then 0 else Nat.log2 n + 1

/-- Whether the magnitude q with this remainder of 2^k (and a sticky part below) rounds up (R62). -/
def roundsUp (rm : Rm) (neg : Bool) (q r k : Nat) (sticky : Bool) : Bool :=
  match rm with
  | .rne => decide (2 ^ k < 2 * r) || (decide (2 ^ k = 2 * r) && (sticky || q % 2 == 1))
  | .rtz => false
  | .rup => !neg && (decide (0 < r) || sticky)
  | .rdn => neg && (decide (0 < r) || sticky)

/-- m * 2^e, plus a part below m's last place where `sticky`, brought to the grid 2^g: the rounded multiple and whether it is inexact. -/
def toGrid (rm : Rm) (neg : Bool) (m : Nat) (e g : Int) (sticky : Bool) : Nat × Bool :=
  if g ≤ e then (m * 2 ^ (e - g).toNat, sticky)
  else
    let k := (g - e).toNat
    let q := m / 2 ^ k
    let r := m % 2 ^ k
    (if roundsUp rm neg q r k sticky then q + 1 else q, decide (0 < r) || sticky)

/-- A rounded magnitude: its bits without the sign, or an overflow and whether R63 gives an infinity. -/
inductive Rounded where
  | bits (x : Nat)
  | outOf (toInf : Bool)
deriving DecidableEq, Repr

/-- Rounding of a non-zero exact magnitude to a format (R62-R64), with the flags. -/
def Fmt.roundMag (f : Fmt) (rm : Rm) (neg : Bool) (m : Nat) (e : Int) (sticky : Bool) : Rounded × FFlags :=
  let g : Int := e + bitLen m - (f.mb + 1)
  let q := toGrid rm neg m e g sticky
  let top : Int := g + bitLen q.1 - 1
  let emin : Int := 1 - (f.bias : Int)
  if top < emin then
    let t := toGrid rm neg m e (emin - f.mb) sticky
    (.bits t.1, flagIf t.2 (fUF ||| fNX))
  else
    let x := (top + f.bias).toNat * 2 ^ f.mb + (q.1 * 2 ^ (f.mb + 1 - bitLen q.1) / 2 ^ (bitLen q.1 - (f.mb + 1)) - 2 ^ f.mb)
    if f.maxFinite < x then
      (.outOf (match rm with | .rne => true | .rtz => false | .rup => !neg | .rdn => neg), fOF ||| fNX)
    else (.bits x, flagIf q.2 fNX)

/-- The encoding of an exact value rounded to a format with infinities (R62-R64). -/
def Fmt.round (f : Fmt) (rm : Rm) (neg : Bool) (m : Nat) (e : Int) (sticky : Bool) : Nat × FFlags :=
  if m = 0 && !sticky then (f.sign neg, 0)
  else
    match f.roundMag rm neg m e sticky with
    | (.bits x, fl) => (f.sign neg + x, fl)
    | (.outOf true, fl) => (f.infBits neg, fl)
    | (.outOf false, fl) => (f.sign neg + f.maxFinite, fl)

/-- A value rounded to FP32. -/
def roundFp (rm : Rm) (x : Fp) : Lane × FFlags :=
  match x with
  | .nan => (0x7FC00000, 0)
  | .inf s => (BitVec.ofNat 32 (fp32.infBits s), 0)
  | .num s m e => let r := fp32.round rm s m e false; (BitVec.ofNat 32 r.1, r.2)

/-- The canonical FP32 NaN. -/
def nan32 : Lane := 0x7FC00000

/-- The FP32 value of a pattern. -/
def toFp (x : Lane) : Fp := fp32.decode x.toNat

/-- The value is NaN. -/
def Fp.isNan : Fp → Bool
  | .nan => true
  | _ => false

/-- The value is a zero of either sign. -/
def Fp.isZero : Fp → Bool
  | .num _ 0 _ => true
  | _ => false

/-- The sign. -/
def Fp.neg : Fp → Bool
  | .nan => false
  | .inf s => s
  | .num s _ _ => s

/-- The value negated. -/
def Fp.negate : Fp → Fp
  | .nan => .nan
  | .inf s => .inf (!s)
  | .num s m e => .num (!s) m e

/-- The signed integer of a sign and a magnitude. -/
def signedMag (neg : Bool) (m : Nat) : Int := if neg then -(m : Int) else m

/-- The exact sum, with NV for infinity - infinity (R62, R65); the sign of an exact zero follows the mode. -/
def Fp.add (rm : Rm) (a b : Fp) : Fp × FFlags :=
  match a, b with
  | .nan, _ => (.nan, 0)
  | _, .nan => (.nan, 0)
  | .inf s, .inf t => if s = t then (.inf s, 0) else (.nan, fNV)
  | .inf s, _ => (.inf s, 0)
  | _, .inf t => (.inf t, 0)
  | .num s m e, .num t n f =>
    let g := min e f
    let x := signedMag s (m * 2 ^ (e - g).toNat) + signedMag t (n * 2 ^ (f - g).toNat)
    if x = 0 then (.num (if s = t then s else decide (rm = .rdn)) 0 0, 0)
    else (.num (decide (x < 0)) x.natAbs g, 0)

/-- The exact product, with NV for 0 * infinity (R65). -/
def Fp.mul (a b : Fp) : Fp × FFlags :=
  match a, b with
  | .nan, _ => (.nan, 0)
  | _, .nan => (.nan, 0)
  | .inf s, y => if y.isZero then (.nan, fNV) else (.inf (s != y.neg), 0)
  | x, .inf t => if x.isZero then (.nan, fNV) else (.inf (x.neg != t), 0)
  | .num s m e, .num t n f => (.num (s != t) (m * n) (e + f), 0)

/-- RND(a + b, rm). -/
def fadd32 (rm : Rm) (a b : Lane) : Lane × FFlags :=
  let x := (toFp a).add rm (toFp b)
  let r := roundFp rm x.1
  (r.1, x.2 ||| r.2)

/-- The pattern with its sign inverted; NaN gives the canonical NaN. -/
def fneg32 (a : Lane) : Lane := if (toFp a).isNan then nan32 else a ^^^ 0x80000000

/-- The pattern with its sign cleared; NaN gives the canonical NaN. -/
def fabs32 (a : Lane) : Lane := if (toFp a).isNan then nan32 else a &&& 0x7FFFFFFF

/-- RND(a - b, rm). -/
def fsub32 (rm : Rm) (a b : Lane) : Lane × FFlags :=
  let x := (toFp a).add rm (toFp b).negate
  let r := roundFp rm x.1
  (r.1, x.2 ||| r.2)

/-- RND(a * b, rm). -/
def fmul32 (rm : Rm) (a b : Lane) : Lane × FFlags :=
  let x := (toFp a).mul (toFp b)
  let r := roundFp rm x.1
  (r.1, x.2 ||| r.2)

/-- RND(a * b + d, rm), one rounding; 0 * infinity sets NV even when d is NaN (R116). -/
def fma32 (rm : Rm) (a b d : Lane) : Lane × FFlags :=
  let x := (toFp a).mul (toFp b)
  let y := x.1.add rm (toFp d)
  let r := roundFp rm y.1
  (r.1, x.2 ||| y.2 ||| r.2)

/-- RND(a / b, rm) (R65). -/
def fdiv32 (rm : Rm) (a b : Lane) : Lane × FFlags :=
  match (toFp a), (toFp b) with
  | .nan, _ => (nan32, 0)
  | _, .nan => (nan32, 0)
  | .inf _, .inf _ => (nan32, fNV)
  | .inf s, y => (BitVec.ofNat 32 (fp32.infBits (s != y.neg)), 0)
  | x, .inf t => (BitVec.ofNat 32 (fp32.sign (x.neg != t)), 0)
  | .num s m e, .num t n f =>
    if n = 0 then
      if m = 0 then (nan32, fNV) else (BitVec.ofNat 32 (fp32.infBits (s != t)), fDZ)
    else
      let r := fp32.round rm (s != t) (2 ^ 64 * m / n) (e - f - 64) (decide (2 ^ 64 * m % n ≠ 0))
      (BitVec.ofNat 32 r.1, r.2)

/-- The integer square root, bit by bit from bit `k - 1` down, above a root found so far. -/
def isqrtFrom : Nat → Nat → Nat → Nat
  | 0, r, _ => r
  | k + 1, r, n => if (r + 2 ^ k) * (r + 2 ^ k) ≤ n then isqrtFrom k (r + 2 ^ k) n else isqrtFrom k r n

/-- The integer square root of a number below 2^256. -/
def isqrt (n : Nat) : Nat := isqrtFrom 128 0 n

/-- An exponent made even, with its mantissa. -/
def evenExp (m : Nat) (e : Int) : Nat × Int := if e % 2 = 0 then (m, e) else (2 * m, e - 1)

/-- RND(sqrt a, rm) (R65). -/
def fsqrt32 (rm : Rm) (a : Lane) : Lane × FFlags :=
  match (toFp a) with
  | .nan => (nan32, 0)
  | .inf s => if s then (nan32, fNV) else (a, 0)
  | .num s m e =>
    if m = 0 then (a, 0)
    else if s then (nan32, fNV)
    else
      let x := evenExp m e
      let n := 2 ^ 64 * x.1
      let r := isqrt n
      let q := fp32.round rm false r (x.2 / 2 - 32) (decide (r * r ≠ n))
      (BitVec.ofNat 32 q.1, q.2)

/-- VRCP (R159). -/
def frcp32 (a : Lane) : Lane × FFlags :=
  match (toFp a) with
  | .nan => (nan32, 0)
  | _ => fdiv32 .rne 0x3F800000 a

/-- VRSQ (R159). -/
def frsq32 (a : Lane) : Lane × FFlags :=
  match (toFp a) with
  | .nan => (nan32, 0)
  | .inf s => if s then (nan32, fNV) else (0, 0)
  | .num s m e =>
    if m = 0 then (BitVec.ofNat 32 (fp32.infBits s), fDZ)
    else if s then (nan32, fNV)
    else
      let x := evenExp m e
      let r := isqrt (2 ^ 160 / x.1)
      let q := fp32.round .rne false r (-(x.2 / 2) - 80) (decide (r * r * x.1 ≠ 2 ^ 160))
      (BitVec.ofNat 32 q.1, q.2)

/-- An order code of an FP32 pattern in the total key order (R66): -0 below +0, NaN above +infinity. -/
def keyOrder (a : Lane) : Nat :=
  if (toFp a).isNan then 2 ^ 33
  else if a.toNat < 2 ^ 31 then 2 ^ 31 + a.toNat else 2 ^ 32 - 1 - a.toNat

/-- FMIN (R117). -/
def fmin32 (a b : Lane) : Lane :=
  if (toFp a).isNan then (if (toFp b).isNan then nan32 else b)
  else if (toFp b).isNan then a
  else if keyOrder a ≤ keyOrder b then a else b

/-- FMAX (R117). -/
def fmax32 (a b : Lane) : Lane :=
  if (toFp a).isNan then (if (toFp b).isNan then nan32 else b)
  else if (toFp b).isNan then a
  else if keyOrder b ≤ keyOrder a then a else b

/-- The value of a pattern as an order code in which -0 = +0. -/
def numOrder (a : Lane) : Nat := if (toFp a).isZero then 2 ^ 31 else keyOrder a

/-- a = b on numbers (R118). -/
def feq32 (a b : Lane) : Bool := !(toFp a).isNan && !(toFp b).isNan && numOrder a == numOrder b

/-- a < b; NV on a NaN operand (R65, R118). -/
def flt32 (a b : Lane) : Bool × FFlags :=
  if (toFp a).isNan || (toFp b).isNan then (false, fNV) else (decide (numOrder a < numOrder b), 0)

/-- a ≤ b; NV on a NaN operand. -/
def fle32 (a b : Lane) : Bool × FFlags :=
  if (toFp a).isNan || (toFp b).isNan then (false, fNV) else (decide (numOrder a ≤ numOrder b), 0)

/-- FCLASS (R119). -/
def fclass32 (a : Lane) : Nat :=
  match (toFp a) with
  | .nan => 2 ^ 8
  | .inf s => if s then 2 ^ 0 else 2 ^ 7
  | .num s m _ =>
    if m = 0 then (if s then 2 ^ 3 else 2 ^ 4)
    else if m < 2 ^ 23 then (if s then 2 ^ 2 else 2 ^ 5)
    else (if s then 2 ^ 1 else 2 ^ 6)

/-- An integer rounded to FP32 (R68). -/
def intToF32 (rm : Rm) (x : Int) : Lane × FFlags :=
  let r := fp32.round rm (decide (x < 0)) x.natAbs 0 false
  (BitVec.ofNat 32 r.1, r.2)

/-- An FP32 value rounded to an integer in a range, saturating (R68). -/
def f32ToInt (rm : Rm) (lo hi : Int) (a : Lane) : Int × FFlags :=
  match (toFp a) with
  | .nan => (0, fNV)
  | .inf s => (if s then lo else hi, fNV)
  | .num s m e =>
    let r := toGrid rm s m e 0 false
    let x := signedMag s r.1
    if x < lo then (lo, fNV) else if hi < x then (hi, fNV) else (x, flagIf r.2 fNX)

/-- A narrower floating-point value as FP32, exactly (R68). -/
def widen (f : Fmt) (x : Nat) : Lane := (roundFp .rne (f.decode x)).1

/-- FP32 to a narrower format, plain (R67). -/
def narrow (f : Fmt) (rm : Rm) (a : Lane) : Nat × FFlags :=
  match (toFp a) with
  | .nan => if f == e2m1 then (8, fNV) else (f.nanBits, 0)
  | .inf s => if f == e4m3 then (0x7F, fNV) else if f == e2m1 then (8, fNV) else (f.infBits s, 0)
  | .num s m e =>
    if m = 0 then (if f == e2m1 then 0 else f.sign s, 0)
    else
      match f.roundMag rm s m e false with
      | (.bits x, fl) => (if f == e2m1 && x == 0 then 0 else f.sign s + x, fl)
      | (.outOf i, fl) =>
        (if i then (if f == e4m3 then 0x7F else if f == e2m1 then 8 else f.infBits s) else f.sign s + f.maxFinite, fl)

/-- FP32 to E4M3, E5M2 or E2M1, saturate-to-finite (R67). -/
def narrowSat (f : Fmt) (rm : Rm) (a : Lane) : Nat × FFlags :=
  match (toFp a) with
  | .nan => if f == e2m1 then (0, fNV) else (f.nanBits, 0)
  | .inf s => (f.sign s + f.maxFinite, fOF ||| fNX)
  | .num s m e =>
    if m = 0 then (if f == e2m1 then 0 else f.sign s, 0)
    else
      match f.roundMag rm s m e false with
      | (.bits x, fl) => (if f == e2m1 && x == 0 then 0 else f.sign s + x, fl)
      | (.outOf _, fl) => (f.sign s + f.maxFinite, fl)

/-- One step of a chain: RNE(acc + a * b), exact product, no flags (R71). -/
def chain (acc : Lane) (x : Fp) : Lane := (roundFp .rne ((toFp acc).add .rne x).1).1

/-- The even and odd chains over exact terms, the first term even. -/
def chains : Lane → Lane → List Fp → Lane × Lane
  | ev, od, [] => (ev, od)
  | ev, od, x :: t => let r := chains od (chain ev x) t; (r.2, r.1)

/-- DOTEO over exact terms (R71). -/
def doteo (l : List Fp) : Lane :=
  let r := chains 0 0 l
  (fadd32 .rne r.1 r.2).1

/-- One level of TREE64: lane i with lane i + h (R73). -/
def treeLevel {α : Type} (op : α → α → α) (h : Nat) (l : List α) : List α := List.zipWith op (l.take h) (l.drop h)

/-- TREE64 (R73). -/
def tree64 {α : Type} (op : α → α → α) (l : List α) : List α :=
  [32, 16, 8, 4, 2, 1].foldl (fun x h => treeLevel op h x) l

/-- Maximum in a reduction: any NaN gives the canonical NaN (R73). -/
def redMax32 (a b : Lane) : Lane := if (toFp a).isNan || (toFp b).isNan then nan32 else if keyOrder a ≤ keyOrder b then b else a

/-- Minimum in a reduction (R73). -/
def redMin32 (a b : Lane) : Lane := if (toFp a).isNan || (toFp b).isNan then nan32 else if keyOrder a ≤ keyOrder b then a else b

/-- The coefficients c_6 down to c_0 of EXP2, FP32 of (ln 2)^k / k! (R76). -/
def exp2Coeffs : List Lane :=
  [0x39218489, 0x3AAEC3FF, 0x3C1D955B, 0x3D635847, 0x3E75FDF0, 0x3F317218, 0x3F800000]

/-- EXP2 (R76), with its flags. -/
def exp2_32 (x : Lane) : Lane × FFlags :=
  match (toFp x) with
  | .nan => (nan32, 0)
  | .inf s => if s then (0, 0) else (0x7F800000, 0)
  | .num s m e =>
    if (flt32 0x43000000 x).1 then (0x7F800000, fOF ||| fNX)
    else if (flt32 x 0xC3170000).1 then (0, fUF ||| fNX)
    else
      let n := toGrid .rne s m e 0 false
      let ni := signedMag s n.1
      let f := (roundFp .rne (Fp.add .rne (.num s m e) (.num (!s) n.1 0)).1).1
      let p := exp2Coeffs.foldl (fun p c => (fma32 .rne p f c).1) 0x377FE5FE
      match (toFp p) with
      | .num ps pm pe =>
        let r := fp32.round .rne ps pm (pe + ni) false
        let tiny := decide (r.1 < 2 ^ 23)
        let fl := if n.2 then r.2 ||| fNX ||| flagIf tiny fUF else r.2
        (BitVec.ofNat 32 r.1, fl)
      | _ => (nan32, 0)

end Sys2Proof.Machine
end

