-- ==== Sys2Proof/Machine/Operands.lean ====
section
/-! DEFINITION. Operand forms: what each format of instruction names (spec/02_encoding.md R33-R37), and the register-to-register shapes. -/

namespace Sys2Proof.Machine

/-- The set of some g registers. -/
def gset (l : List Nat) : RegSet := RegSet.all (l.map RegSet.ofG)

/-- g destination, two g sources. -/
def useRRR (rd ra rb : GReg) : Use := { src := gset [ra, rb], dst := gset [rd] }

/-- g destination, one g source. -/
def useRR (rd ra : GReg) : Use := { src := gset [ra], dst := gset [rd] }

/-- g destination that is also a source, two g sources. -/
def useRRRd (rd ra rb : GReg) : Use := { src := gset [rd, ra, rb], dst := gset [rd] }

/-- g destination only. -/
def useD (rd : GReg) : Use := { dst := gset [rd] }

/-- g sources only. -/
def useS (l : List Nat) : Use := { src := gset l }

/-- A long-latency form. -/
def Use.long (u : Use) (la : La) : Use := { u with la := some la.val }

/-- A form that waits for every pending bit of its thread. -/
def Use.waits (u : Use) : Use := { u with all := true }

/-- The low 32 bits of a g register. -/
def lo32 (x : Word) : Lane := BitVec.ofNat 32 x.toNat

/-- 32 bits sign-extended (R93, SEXT). -/
def sext32 (x : Lane) : Word := x.signExtend 64

/-- 32 bits zero-extended. -/
def zext32 (x : Lane) : Word := x.zeroExtend 64

/-- The effect of writing one g register of the acting thread. -/
def State.putG (s : State) (rd : GReg) (x : Word) : State := s.setCtx s.cur ((s.ctx s.cur).setG rd x)

/-- An instruction that writes `f` of its register values to rd and goes on: register-register forms. -/
def aluRRR (s : State) (rd ra rb : GReg) (f : Word → Word → Word) : Host.Outcome State Fault Refusal :=
  issue s (useRRR rd ra rb) (fun s c => .go (s.putG rd (f (c.gr ra) (c.gr rb))))

/-- The same with one source. -/
def aluRR (s : State) (rd ra : GReg) (f : Word → Word) : Host.Outcome State Fault Refusal :=
  issue s (useRR rd ra) (fun s c => .go (s.putG rd (f (c.gr ra))))

/-- The same with the old value of rd as a further source. -/
def aluRRRd (s : State) (rd ra rb : GReg) (f : Word → Word → Word → Word) : Host.Outcome State Fault Refusal :=
  issue s (useRRRd rd ra rb) (fun s c => .go (s.putG rd (f (c.gr rd) (c.gr ra) (c.gr rb))))

/-- A scalar floating-point form: result to rd, flags ORed into s.fflags (R69, R92). -/
def State.putF (s : State) (rd : GReg) (x : Word) (f : FFlags) : State :=
  s.setCtx s.cur (((s.ctx s.cur).setG rd x).orFlags f)

/-- The two-operand floating-point form. -/
def fpRRR (s : State) (rd ra rb : GReg) (f : Lane → Lane → Lane × FFlags) : Host.Outcome State Fault Refusal :=
  issue s (useRRR rd ra rb) (fun s c => let r := f (lo32 (c.gr ra)) (lo32 (c.gr rb)); .go (s.putF rd (zext32 r.1) r.2))

/-- The two-operand form with a truth value for result. -/
def fpCmp (s : State) (rd ra rb : GReg) (f : Lane → Lane → Bool × FFlags) : Host.Outcome State Fault Refusal :=
  issue s (useRRR rd ra rb) (fun s c => let r := f (lo32 (c.gr ra)) (lo32 (c.gr rb)); .go (s.putF rd (boolWord r.1) r.2))

/-- The unary floating-point form, from the whole register. -/
def fpRR (s : State) (rd ra : GReg) (f : Word → Word × FFlags) : Host.Outcome State Fault Refusal :=
  issue s (useRR rd ra) (fun s c => let r := f (c.gr ra); .go (s.putF rd r.1 r.2))

/-- The state with the flags of a long-latency instruction that sets no pending bit: they accrue at issue, since nothing of it is pending (R70, R79) (DEDUCED, log 56). -/
def State.flagsNow (s : State) (dst : RegSet) (w : Writes) : State :=
  if dst.empty then s.setCtx s.cur ((s.ctx s.cur).orFlags w.flags) else s

/-- The results that such an instruction still has to deliver. -/
def Writes.flagsLater (w : Writes) (dst : RegSet) : Writes := if dst.empty then { w with flags := 0 } else w

/-- A result on its way to registers (R37): the destinations are pending until RESULT_WRITE. The slot's own scalar unit delivers after `delay` cycles (R436). -/
def State.fly (s : State) (t : Thr) (delay : Nat) (dst : RegSet) (w : Writes) : State :=
  let c := s.ctx t
  let slot := (c.name.map Name.slot).getD 0
  let f : Flight := { thr := t, slot := slot, unit := 16, delay := delay, ready := s.time + word delay, epc := c.pc, dest := dst, writes := w }
  let k := s.core t.core
  s.setCore t.core { k with flight := k.flight ++ [f] }

/-- A long-latency scalar form (R102, R116, R436). Into g0, which is never pending, its flags accrue at issue (DEDUCED, log 56). -/
def longRRR (s : State) (delay : Nat) (rd ra rb : GReg) (la : La) (f : Word → Word → Word × FFlags) : Host.Outcome State Fault Refusal :=
  let u := (useRRR rd ra rb).long la
  issue s u (fun s c =>
    let r := f (c.gr ra) (c.gr rb)
    let w : Writes := { g := [(rd.val, r.1)], flags := r.2 }
    .go ((s.flagsNow u.dst w).fly s.cur delay u.dst (w.flagsLater u.dst)))

end Sys2Proof.Machine
end

