-- ==== Sys2Proof/Machine/Transfers.lean ====
section
/-! DEFINITION. Loads and stores (spec/06_transfers.md R121-R134). -/

namespace Sys2Proof.Machine

/-- Read permission. -/
def permR : Perm := ⟨true, false⟩
/-- Write permission. -/
def permW : Perm := ⟨false, true⟩
/-- Both. -/
def permRW : Perm := ⟨true, true⟩

/-- An effect behind the checks of R122. -/
def checked (s : State) (p : Perm) (l : List (Word × Nat)) (k : State → Act) : Act :=
  match s.checkAccess s.cur.core p l with
  | some (code, va) => .trap code 0 va
  | none => k s

/-- Bytes of an access of 2^sz bytes (R47). -/
def szBytes (sz : Size) : Nat := 2 ^ sz.val

/-- The address of a MEM-format access (R121). -/
def memAddr (c : Ctx) (ra : GReg) (sz : Size) (disp : BitVec 7) : Word := effAddr (c.gr ra) disp (szBytes sz)

/-- A load of `n` bytes at `a` issued by the acting thread. -/
def loadAt (s : State) (a : Word) (n : Nat) (o : Order) (d : Dest) : State :=
  s.issueAccess s.cur o d (contiguous a 0 n [])

/-- A store of the low `n` bytes of `x` at `a` issued by the acting thread. -/
def storeAt (s : State) (a : Word) (n : Nat) (x : Word) (o : Order) : State :=
  s.issueAccess s.cur o .none (contiguous a 0 n (leBytes n x.toNat))

/-- The acting thread behind its instruction, held by `b` with this wait word (R89): what FTST, LDF, EXPECT and a barrier do. The windows before it are kept for a fault that the instruction may still raise (R150), and its cycle, since it parks at a later position (R134). -/
def State.goHeld (s : State) (u : Use) (b : Busy) (ev : Word) : State :=
  let t := s.cur
  s.setCtx t { ((s.ctx t).claimed u).advance u false with busy := b, wait := ev, before := (s.ctx t).windows, since := s.time }

/-- A scalar load (R127, R232). -/
def scalarLoad (s : State) (rd ra : GReg) (la : La) (sz : Size) (disp : BitVec 7) (signed : Bool) (o : Order) : Host.Outcome State Fault Refusal :=
  issue s ((useRR rd ra).long la) (fun s c =>
    let a := memAddr c ra sz disp
    checked s permR [(a, szBytes sz)] (fun s =>
      .go (loadAt s a (szBytes sz) o (.g rd.val (szBytes sz) signed))))

/-- A scalar store (R128, R233). -/
def scalarStore (s : State) (rd ra : GReg) (sz : Size) (disp : BitVec 7) (o : Word → Order) : Host.Outcome State Fault Refusal :=
  issue s (useS [rd, ra]) (fun s c =>
    let a := memAddr c ra sz disp
    checked s permW [(a, szBytes sz)] (fun s => .go (storeAt s a (szBytes sz) (c.gr rd) (o a))))

/-- A plain load's order (R223). -/
def plainLoad : Order := { kind := .load, replies := true }
/-- A plain store's order. -/
def plainStore : Order := { kind := .store, replies := false }

/-- LD (R127). -/
def execLd (rd ra : GReg) (la : La) (sz : Size) (sx : Bool) (disp : BitVec 7) (s : State) : Host.Outcome State Fault Refusal :=
  scalarLoad s rd ra la sz disp sx plainLoad

/-- LD.acq (R232): an acquire at its scope, zero-extended. -/
def execLdAcq (rd ra : GReg) (la : La) (sz : Size) (_c : Scope) (disp : BitVec 7) (s : State) : Host.Outcome State Fault Refusal :=
  scalarLoad s rd ra la sz disp false { plainLoad with acq := true }

/-- ST (R128). -/
def execSt (rd ra : GReg) (sz : Size) (disp : BitVec 7) (s : State) : Host.Outcome State Fault Refusal :=
  scalarStore s rd ra sz disp (fun _ => plainStore)

/-- ST.rel (R233): a release at its scope. -/
def execStRel (rd ra : GReg) (sz : Size) (c : Scope) (disp : BitVec 7) (s : State) : Host.Outcome State Fault Refusal :=
  scalarStore s rd ra sz disp (fun a => { plainStore with rel := relOf c a })

/-- The checks of LDS and STF in their order (R239): alignment, a full/empty bit, then R122. -/
def granuleChecked (s : State) (p : Perm) (a : Word) (n : Nat) (k : State → Act) : Act :=
  if a.toNat % n ≠ 0 then .trap cATOMIC_ALIGN 0 a
  else
    match s.checkFull s.cur.core [(a, n)] with
    | some va => .trap cBAD_OWNER 0 va
    | none => checked s p [(a, n)] k

/-- STF (R240): a store that sets the granule's full bit, a release at .sys. -/
def execStf (rd ra : GReg) (sz : Size) (disp : BitVec 7) (s : State) : Host.Outcome State Fault Refusal :=
  issue s (useS [rd, ra]) (fun s c =>
    let a := memAddr c ra sz disp
    granuleChecked s permW a (szBytes sz) (fun s =>
      .go (storeAt s a (szBytes sz) (c.gr rd) { kind := .stf, replies := false, rel := 2 })))

/-- LDS and LDS.c (R241): waits for a full granule; an acquire at .sys. -/
def execLds (rd ra : GReg) (la : La) (sz : Size) (clr : Bool) (disp : BitVec 7) (s : State) : Host.Outcome State Fault Refusal :=
  issue s ((useRR rd ra).long la) (fun s c =>
    let a := memAddr c ra sz disp
    granuleChecked s permR a (szBytes sz) (fun s =>
      .go (loadAt s a (szBytes sz) { kind := .lds clr, replies := true, acq := true } (.g rd.val (szBytes sz) false))))

/-- LDF (R133, R134): a load whose thread issues nothing further, and may park, until the reply has written rd. -/
def execLdf (rd ra : GReg) (sz : Size) (disp : BitVec 7) (s : State) : Host.Outcome State Fault Refusal :=
  let u := (useRR rd ra).waits
  issue s u (fun s c =>
    let a := memAddr c ra sz disp
    checked s permR [(a, szBytes sz)] (fun s =>
      let s := loadAt s a (szBytes sz) plainLoad (.far rd.val (szBytes sz))
      .jump (s.goHeld u .reply (waitWord 6 rd.val 0 sz.val 0 0))))

/-! ## Vector transfers (R129-R132) -/

/-- The active lanes of a mask, lowest first. -/
def activeLanes (m : Word) : List Nat := (rangeFrom 0 64).filter (maskBit m)

/-- Lane stretches: four bytes for each active lane (R121). -/
def laneRanges (lanes : List Nat) (addr : Nat → Word) : List (Word × Nat) := lanes.map (fun i => (addr i, 4))

/-- The bytes of the active lanes, by address. -/
def laneBytes (lanes : List Nat) (addr : Nat → Word) (vals : VWord) : List EByte :=
  sortBytes (lanes.flatMap (fun i => contiguous (addr i) (4 * i) 4 (leBytes 4 (VWord.lane vals i).toNat)))

/-- Of the bytes at one location only the one of the highest lane is stored (R132). -/
def topBytes (l : List EByte) : List EByte :=
  l.filter (fun b => !l.any (fun x => x.loc == b.loc && decide (b.idx < x.idx)))

/-- A vector load of the active lanes (R129, R131); with none active nothing is outstanding (R122). -/
def vectorLoad (s : State) (rd : VReg) (m : Word) (addr : Nat → Word) : Act :=
  let lanes := activeLanes m
  checked s permR (laneRanges lanes addr) (fun s =>
    if lanes.isEmpty then .goNow s
    else .go (s.issueAccess s.cur plainLoad (.v rd.val m) (laneBytes lanes addr 0)))

/-- A vector store of the active lanes. -/
def vectorStore (s : State) (x : VWord) (m : Word) (addr : Nat → Word) : Act :=
  let lanes := activeLanes m
  checked s permW (laneRanges lanes addr) (fun s =>
    .go (s.issueAccess s.cur plainStore .none (topBytes (s.located s.cur.core (laneBytes lanes addr x)))))

/-- Lane addresses of VLD and VST (R129). -/
def rowAddr (a : Word) (i : Nat) : Word := a + word (4 * i)

/-- Lane addresses of VLDS and VSTS: a byte stride of any sign (R131). -/
def strideAddr (a stride : Word) (i : Nat) : Word := a + word i * stride

/-- Lane addresses of VLDI and VSTI: element indices (R131). -/
def indexAddr (a : Word) (x : VWord) (i : Nat) : Word := a + 4 * (VWord.lane x i).signExtend 64

/-- The first byte of the active lanes of a VLD or VST at `a` that lies in another module than the byte at `a`, or has no owner (R122 check 1). -/
def State.rowFail (s : State) (a m : Word) : Option Word :=
  s.firstFailAll s.cur.core (s.ownerOk s.cur.core (s.canonModule (moduleOf a))) (laneRanges (activeLanes m) (rowAddr a))

/-- A VLD or VST behind check 1 of R122, which takes its module from the byte at `a`, be lane 0 active or not. -/
def inRow (s : State) (a m : Word) (k : Act) : Act :=
  match s.rowFail a m with
  | some b => .trap cBAD_OWNER 0 b
  | none => k

/-- The set of a v register and what else a vector transfer names. -/
def useV (v g k : List Nat) : RegSet := (gset g).union ((RegSet.all (v.map RegSet.ofV)).union (RegSet.all (k.map RegSet.ofK)))

/-- The v sources of a form with a write mask: encoded with a mask other than k0 it reads vd as well (R157). -/
def maskSrc (rd : VReg) (k : KReg) (v : List Nat) : List Nat := if k.val = 0 then v else rd.val :: v

/-- VLD (R129). -/
def execVld (rd : VReg) (ra : GReg) (la : La) (k : KReg) (disp : BitVec 7) (s : State) : Host.Outcome State Fault Refusal :=
  issue s { src := useV (maskSrc rd k []) [ra] [k], dst := RegSet.ofV rd, la := some la.val } (fun s c =>
    let a := effAddr (c.gr ra) disp 256
    inRow s a (c.kr k) (vectorLoad s rd (c.kr k) (rowAddr a)))

/-- VST (R129). -/
def execVst (rd : VReg) (ra : GReg) (k : KReg) (disp : BitVec 7) (s : State) : Host.Outcome State Fault Refusal :=
  issue s { src := useV [rd] [ra] [k] } (fun s c =>
    let a := effAddr (c.gr ra) disp 256
    inRow s a (c.kr k) (vectorStore s (c.vr rd) (c.kr k) (rowAddr a)))

/-- VLDS (R131). -/
def execVlds (rd : VReg) (ra rb : GReg) (la : La) (k : KReg) (s : State) : Host.Outcome State Fault Refusal :=
  issue s { src := useV (maskSrc rd k []) [ra, rb] [k], dst := RegSet.ofV rd, la := some la.val } (fun s c =>
    vectorLoad s rd (c.kr k) (strideAddr (c.gr ra) (c.gr rb)))

/-- VSTS (R131, R132). -/
def execVsts (rd : VReg) (ra rb : GReg) (k : KReg) (s : State) : Host.Outcome State Fault Refusal :=
  issue s { src := useV [rd] [ra, rb] [k] } (fun s c =>
    vectorStore s (c.vr rd) (c.kr k) (strideAddr (c.gr ra) (c.gr rb)))

/-- VLDI (R131). -/
def execVldi (rd : VReg) (ra : GReg) (rb : VReg) (la : La) (k : KReg) (s : State) : Host.Outcome State Fault Refusal :=
  issue s { src := useV (maskSrc rd k [rb]) [ra] [k], dst := RegSet.ofV rd, la := some la.val } (fun s c =>
    vectorLoad s rd (c.kr k) (indexAddr (c.gr ra) (c.vr rb)))

/-- VSTI (R131, R132). -/
def execVsti (rd : VReg) (ra : GReg) (rb : VReg) (k : KReg) (s : State) : Host.Outcome State Fault Refusal :=
  issue s { src := useV [rd, rb] [ra] [k] } (fun s c =>
    vectorStore s (c.vr rd) (c.kr k) (indexAddr (c.gr ra) (c.vr rb)))

end Sys2Proof.Machine
end

