-- ==== Sys2Proof/Machine/Atomics.lean ====
section
/-! DEFINITION. Atomics, fences and flags (spec/12_atomics.md R234-R247; 11_ordering.md R218, R224). -/

namespace Sys2Proof.Machine

/-- The new value of an atomic (R236): old value m, operand b, compare value c, on n bytes; none where ACAS does not write. -/
def atomicNew (op n m b c : Nat) : Option Nat :=
  let w := 8 * n
  let sm := signedOf w m
  let sb := signedOf w b
  if op = 0 then some b
  else if op = 1 then some ((m + b) % 2 ^ w)
  else if op = 2 then some (m &&& b)
  else if op = 3 then some (m ||| b)
  else if op = 4 then some (m ^^^ b)
  else if op = 5 then some (if sm ≤ sb then m else b)
  else if op = 6 then some (if sb ≤ sm then m else b)
  else if op = 7 then some (if m ≤ b then m else b)
  else if op = 8 then some (if b ≤ m then m else b)
  else if op = 9 then some (fadd32 .rne (BitVec.ofNat 32 m) (BitVec.ofNat 32 b)).1.toNat
  else if m = c then some b else none

/-- The order of an atomic with a scope: a release and an acquire as one access (R238). -/
def atomicOrder (op n b c : Nat) (sc : Scope) (a : Word) : Order :=
  { kind := .atomic op n b c, replies := true, acq := true, rel := relOf sc a }

/-- An atomic behind its checks (R235): alignment, then R122 with both permissions. -/
def atomicAct (s : State) (a : Word) (o : Order) (n : Nat) (d : Dest) : Act :=
  if a.toNat % n ≠ 0 then .trap cATOMIC_ALIGN 0 a
  else checked s permRW [(a, n)] (fun s => .go (s.issueAccess s.cur o d (contiguous a 0 n [])))

/-- A 4- or 8-byte atomic (R236, R237). -/
def atomicWD (s : State) (rd ra rb : GReg) (la : La) (sc : Scope) (op n : Nat) : Host.Outcome State Fault Refusal :=
  issue s { src := if op = 10 then gset [rd, ra, rb] else gset [ra, rb], dst := gset [rd], la := some la.val } (fun s c =>
    let a := c.gr ra
    atomicAct s a (atomicOrder op n ((c.gr rb).toNat % 2 ^ (8 * n)) ((c.gr rd).toNat % 2 ^ (8 * n)) sc a) n (.g rd.val n false))

/-- The 128-bit value of a pair of g registers, the low doubleword in the first (R237). -/
def Ctx.pair (c : Ctx) (p : GPair) : Nat := (c.gr (2 * p.val)).toNat + 2 ^ 64 * (c.gr (2 * p.val + 1)).toNat

/-- A 16-byte atomic (R237). -/
def atomicQ (s : State) (rd : GPair) (ra : GReg) (rb : GPair) (la : La) (sc : Scope) (op : Nat) : Host.Outcome State Fault Refusal :=
  let dst := gset [2 * rd.val, 2 * rd.val + 1]
  let src := gset [ra, 2 * rb.val, 2 * rb.val + 1]
  issue s { src := if op = 10 then src.union dst else src, dst := dst, la := some la.val } (fun s c =>
    let a := c.gr ra
    atomicAct s a (atomicOrder op 16 (c.pair rb) (c.pair rd) sc a) 16 (.pair (2 * rd.val)))

/-- ASWAP.w (R236). -/
def execAswapW (rd ra rb : GReg) (la : La) (c : Scope) (s : State) : Host.Outcome State Fault Refusal :=
  atomicWD s rd ra rb la c 0 4

/-- ASWAP.d (R236). -/
def execAswapD (rd ra rb : GReg) (la : La) (c : Scope) (s : State) : Host.Outcome State Fault Refusal :=
  atomicWD s rd ra rb la c 0 8

/-- AADD.w (R236). -/
def execAaddW (rd ra rb : GReg) (la : La) (c : Scope) (s : State) : Host.Outcome State Fault Refusal :=
  atomicWD s rd ra rb la c 1 4

/-- AADD.d (R236). -/
def execAaddD (rd ra rb : GReg) (la : La) (c : Scope) (s : State) : Host.Outcome State Fault Refusal :=
  atomicWD s rd ra rb la c 1 8

/-- AAND.w (R236). -/
def execAandW (rd ra rb : GReg) (la : La) (c : Scope) (s : State) : Host.Outcome State Fault Refusal :=
  atomicWD s rd ra rb la c 2 4

/-- AAND.d (R236). -/
def execAandD (rd ra rb : GReg) (la : La) (c : Scope) (s : State) : Host.Outcome State Fault Refusal :=
  atomicWD s rd ra rb la c 2 8

/-- AOR.w (R236). -/
def execAorW (rd ra rb : GReg) (la : La) (c : Scope) (s : State) : Host.Outcome State Fault Refusal :=
  atomicWD s rd ra rb la c 3 4

/-- AOR.d (R236). -/
def execAorD (rd ra rb : GReg) (la : La) (c : Scope) (s : State) : Host.Outcome State Fault Refusal :=
  atomicWD s rd ra rb la c 3 8

/-- AXOR.w (R236). -/
def execAxorW (rd ra rb : GReg) (la : La) (c : Scope) (s : State) : Host.Outcome State Fault Refusal :=
  atomicWD s rd ra rb la c 4 4

/-- AXOR.d (R236). -/
def execAxorD (rd ra rb : GReg) (la : La) (c : Scope) (s : State) : Host.Outcome State Fault Refusal :=
  atomicWD s rd ra rb la c 4 8

/-- AMIN.w (R236). -/
def execAminW (rd ra rb : GReg) (la : La) (c : Scope) (s : State) : Host.Outcome State Fault Refusal :=
  atomicWD s rd ra rb la c 5 4

/-- AMIN.d (R236). -/
def execAminD (rd ra rb : GReg) (la : La) (c : Scope) (s : State) : Host.Outcome State Fault Refusal :=
  atomicWD s rd ra rb la c 5 8

/-- AMAX.w (R236). -/
def execAmaxW (rd ra rb : GReg) (la : La) (c : Scope) (s : State) : Host.Outcome State Fault Refusal :=
  atomicWD s rd ra rb la c 6 4

/-- AMAX.d (R236). -/
def execAmaxD (rd ra rb : GReg) (la : La) (c : Scope) (s : State) : Host.Outcome State Fault Refusal :=
  atomicWD s rd ra rb la c 6 8

/-- AMINU.w (R236). -/
def execAminuW (rd ra rb : GReg) (la : La) (c : Scope) (s : State) : Host.Outcome State Fault Refusal :=
  atomicWD s rd ra rb la c 7 4

/-- AMINU.d (R236). -/
def execAminuD (rd ra rb : GReg) (la : La) (c : Scope) (s : State) : Host.Outcome State Fault Refusal :=
  atomicWD s rd ra rb la c 7 8

/-- AMAXU.w (R236). -/
def execAmaxuW (rd ra rb : GReg) (la : La) (c : Scope) (s : State) : Host.Outcome State Fault Refusal :=
  atomicWD s rd ra rb la c 8 4

/-- AMAXU.d (R236). -/
def execAmaxuD (rd ra rb : GReg) (la : La) (c : Scope) (s : State) : Host.Outcome State Fault Refusal :=
  atomicWD s rd ra rb la c 8 8

/-- Afadd (R236). -/
def execAfadd (rd ra rb : GReg) (la : La) (c : Scope) (s : State) : Host.Outcome State Fault Refusal :=
  atomicWD s rd ra rb la c 9 4

/-- AcasW (R236). -/
def execAcasW (rd ra rb : GReg) (la : La) (c : Scope) (s : State) : Host.Outcome State Fault Refusal :=
  atomicWD s rd ra rb la c 10 4

/-- AcasD (R236). -/
def execAcasD (rd ra rb : GReg) (la : La) (c : Scope) (s : State) : Host.Outcome State Fault Refusal :=
  atomicWD s rd ra rb la c 10 8

/-- AswapQ (R237). -/
def execAswapQ (rd : GPair) (ra : GReg) (rb : GPair) (la : La) (c : Scope) (s : State) : Host.Outcome State Fault Refusal :=
  atomicQ s rd ra rb la c 0

/-- AcasQ (R237). -/
def execAcasQ (rd : GPair) (ra : GReg) (rb : GPair) (la : La) (c : Scope) (s : State) : Host.Outcome State Fault Refusal :=
  atomicQ s rd ra rb la c 10

/-- FENCE (R244). -/
def execFence (c : Scope) (s : State) : Host.Outcome State Fault Refusal :=
  issue s {} (fun s _ => s.fenced (decide (c ≠ .core)) .go)

/-- XFENCE (R245): FENCE.sys; an engine command issued later is accepted after its echoes (R228). -/
def execXfence (s : State) : Host.Outcome State Fault Refusal :=
  issue s {} (fun s _ => s.fenced true .go)

/-- The granules of a stretch, one byte entry each. -/
def granules : Nat → Word → List EByte
  | 0, _ => []
  | n + 1, a => { va := a, loc := 0, idx := 0 } :: granules n (a + 16)

/-- FECLR (R243): the granules' full bits clear, each in one move of its own. -/
def execFeclr (rd ra : GReg) (s : State) : Host.Outcome State Fault Refusal :=
  issue s (useS [rd, ra]) (fun s c =>
    let a := word ((c.gr ra).toNat / 16 * 16)
    let n := (c.gr rd).toNat
    if n = 0 then .go s
    else
      match s.checkFull s.cur.core [(a, 16 * n)] with
      | some va => .trap cBAD_OWNER 0 va
      | none => checked s permW [(a, 16 * n)] (fun s =>
          .go (s.issueAccess s.cur { kind := .feclr, replies := false } .none (granules n a))))

/-- The address of flag f = (ga + n) mod 1,024 of the acting thread's core (R197, R246). -/
def flagAddr (core : Nat) (x : Word) (n : Nat) : Word := word (flagLoc core ((x.toNat + n) % 1024))

/-- An access to a flag word, performed in one move (R246). -/
def flagAccess (s : State) (c : Ctx) (ra : GReg) (n : Fin 1024) (o : Order) (d : Dest) : State :=
  s.issueAccess s.cur o d (contiguous (flagAddr s.cur.core (c.gr ra) n.val) 0 8 [])

/-- FSET (R246): a release at .sys. -/
def execFset (ra : GReg) (n : Fin 1024) (s : State) : Host.Outcome State Fault Refusal :=
  issue s (useS [ra]) (fun s c => .go (flagAccess s c ra n { kind := .fset, replies := false, rel := 2 } .none))

/-- FCLR (R246): plain. -/
def execFclr (ra : GReg) (n : Fin 1024) (s : State) : Host.Outcome State Fault Refusal :=
  issue s (useS [ra]) (fun s c => .go (flagAccess s c ra n { kind := .fclr, replies := false } .none))

/-- FTST (R246): the thread issues nothing further until the reply has written rd. -/
def execFtst (rd ra : GReg) (n : Fin 1024) (s : State) : Host.Outcome State Fault Refusal :=
  let u := useRR rd ra
  issue s u (fun s c =>
    let s := flagAccess s c ra n { kind := .ftst, replies := true, acq := true } (.test rd.val)
    .jump (s.goHeld u .reply 0))

/-- FWAIT (R247): one entry to the flag word; the thread waits at the FWAIT, and may park, until it wakes. One that woke while its thread was parked issues again when the thread binds (R89), and is done without a second entry (DEDUCED, log 16). -/
def execFwait (ra : GReg) (clr : Bool) (n : Fin 1024) (s : State) : Host.Outcome State Fault Refusal :=
  issue s (useS [ra]).waits (fun s c =>
    let ev := waitWord 7 0 (if clr then 1 else 0) 0 (((c.gr ra).toNat + n.val) % 1024) 0
    if c.busy = .flag then .block s ev .memory .barrier
    else if c.woken = some c.pc then .go (s.setCtx s.cur { c with woken := none })
    else
      let s := flagAccess s c ra n { kind := .fwait clr, replies := true, acq := true } .wake
      .jump (s.setCtx s.cur { s.ctx s.cur with busy := .flag, wait := ev, since := s.time }))

end Sys2Proof.Machine
end

