-- ==== Sys2Proof/Config.lean ====
section
/-! DEFINITION. What an implementation fixes, and the functions that the spec names without giving them: they have no body, so no proof can rest on a value of theirs. -/

namespace Sys2Proof

/-- SHA3-512 of a byte string, 64 bytes (R419-R423): the spec names the function and does not define it (DESIGN CHOICE, log 7). -/
opaque Config.sha3_512 : List Byte → Vector Byte 64

/-- ML-DSA-87 verification of a signature over a digest with a public key (R419, R420) (log 7). -/
opaque Config.mldsaVerify : List Byte → List Byte → List Byte → Bool

/-- The ML-DSA-87 public key of 2,592 bytes generated from a 32-byte seed (R421, R423) (log 7). -/
opaque Config.mldsaPublic : List Byte → Vector Byte 2592

/-- The ML-DSA-87 signature of 4,627 bytes over a digest with the key generated from a seed (R423) (log 7). -/
opaque Config.mldsaSign : List Byte → List Byte → Vector Byte 4627

/-- The digest of the signing key held in the boot ROM (R420) (log 7). -/
opaque Config.romDigest : Vector Byte 64

/-- A value that the spec leaves open, numbered by the counter of the state (log 5). -/
opaque Config.freeNat : Nat → Nat

/-- The off-module samovar port, 0-7 modulo 8, on the fixed route from the tray of a pot to a tray of another module, by that module's number and the pot there (R289): the spec gives no route (log 44). -/
opaque Config.samovarRoute : Nat → Nat → Nat → Nat

/-- The `n`-th value of the configuration block inside the image body, where the block declares it: the format of the body is not in the spec, so the fields of R422 are numbered readings of it (log 7). -/
opaque Config.confWord : List Byte → Nat → Option Nat

/-- The Brixhild route tables that the configuration block declares (R276, R422), as it holds them: the spec gives their content no form (log 7). -/
opaque Config.routeTables : List Byte → Option (List Byte)

/-- The error-corrected response of this module's PUF, the same at every boot (R421) (log 7). -/
opaque Config.puf : List Byte

/-- The configuration block inside the image body (R419, R423) (log 7). -/
opaque Config.confBlock : List Byte → List Byte

/-- What else a configuration block must meet whose form the spec does not give, its route tables among it (R420, R422) (log 7). -/
opaque Config.confValid : List Byte → Bool

end Sys2Proof
end

