-- ==== Sys2Proof/Machine/Engine.lean ====
section
/-! DEFINITION. Engine commands: handles, slot queues, parameter blocks, the pieces an engine sends, and the effect of completion (spec/13_engines.md R249-R253, 18_tables.md R394-R395, 11_ordering.md R227). -/

namespace Sys2Proof.Machine

/-- The handle-table entry a new command takes (R395): the lowest FREE one, or else the lowest RESOLVED one. -/
def Core.freeHandle (c : Core) : Option Nat :=
  match (rangeFrom 0 64).find? (fun i => (c.handle i).st == .free) with
  | some i => some i
  | none => (rangeFrom 0 64).find? (fun i => (c.handle i).st == .resolved)

/-- The identity of a thread's context within its core; kettle threads issue no commands. -/
def Thr.id : Thr → Nat
  | .ctx _ i => i
  | _ => 0

/-- The acting thread's new command, without a handle yet. -/
def State.mkCmd (s : State) (i : Instr) (rd : Nat) (ra : Word) (st : Stage) : Cmd :=
  let t := s.cur
  { id := s.next, core := t.core, ctx := t.id, slot := s.slotOf t, inc := ((s.ctx t).name.map Name.inc).getD 0, gang := (s.core t.core).gang.getD 0, instr := i,
    epc := (s.ctx t).pc, env := s.env t.core, toG0 := decide (rd = 0), rd := rd, ra := ra, stage := st }

/-- A command takes handle-table entry `h`, whose VADDR and CODE stand, and its thread's register receives the handle, marked pending (R82, R394, R395). -/
def State.giveHandle (s : State) (t : Thr) (c : Cmd) (h : Nat) : State × Cmd :=
  let k := s.core c.core
  let gen := ((k.handle h).gen + 1) % 256
  let s := s.setCore c.core (k.setHandle h { k.handle h with epc := c.epc, gen := gen, st := .pending, holder := c.ctx })
  let x := (s.ctx t).setG c.rd (handleWord c.core gen h)
  let x := if c.rd = 0 then x else { x with hpend := x.hpend ||| bit32 c.rd }
  (s.setCtx t x, { c with hidx := h })

/-- The numbers of the commands in a list that stand in a slot. -/
def State.inSlot (s : State) (l : List Nat) (core slot : Nat) : List Nat :=
  l.filter (fun i => match SMap.find s.cmds i with | some c => c.core == core && c.slot == slot && !c.ended | none => false)

/-- The instructions that stay in the tray queue (R248). -/
def isTrayInstr : Instr → Bool
  | .trayGather .. | .trayScatter .. | .trayReduce .. | .traySub .. | .trayUnsub .. => true
  | .allred .. | .allgath .. | .stvec .. | .ldnear .. | .ixdel .. | .ixsnap .. => true
  | _ => false

/-- The cause with which a command's handle resolves: ECC_UNCORR before RNR_LIMIT (R252). -/
def Cmd.faultCode (c : Cmd) : Nat × Word :=
  if c.code ≠ 0 then (c.code, c.vaddr)
  else match c.ecc, c.rnr with
    | some a, _ => (cECC_UNCORR, a)
    | none, some a => (cRNR_LIMIT, a)
    | none, none => (0, 0)

/-- A piece of the command failed (R252). -/
def Cmd.failed (c : Cmd) : Bool := c.faultCode.1 != 0

/-! ## Parameter blocks (R249-R251) -/

/-- The start of the block that `ga` points to. -/
def blockAddr (x : Word) : Word := word (x.toNat / 64 * 64)

/-- An address lies in the scratchpad of a core, in this module (R249). -/
def State.inPad (s : State) (core : Nat) (a : Word) (n : Nat) : Bool :=
  s.canonModule (moduleOf a) == ownModule && decide (ownerOf a = potOf core) && decide (0x80000 * (core % 512) ≤ offsetOf a)
    && decide (offsetOf a + n ≤ 0x80000 + 0x80000 * (core % 512))

/-- A command with a parameter block, up to the block read (R249, R250 steps 1-3): the thread is held until BLOCK_READ_RETURN. -/
def blockCommand (s : State) (i : Instr) (u : Use) (rd ra : GReg) : Host.Outcome State Fault Refusal :=
  issue s u (fun s c =>
    match c.busy with
    | .block _ => .stay s .memory .none
    | _ =>
      let a := blockAddr (c.gr ra)
      if !s.inPad s.cur.core a 64 then .trap cBAD_OWNER 0 a
      else checked s permR [(a, 64)] (fun s =>
        let k := s.mkCmd i rd.val a .block
        let s := { s.setCmd k with next := s.next + 1 }
        let s := loadAt s a 64 plainLoad (.block k.id)
        .jump (s.setCtx s.cur { s.ctx s.cur with busy := .block k.id })))

/-- A doubleword of a command's block. -/
def Cmd.dw (c : Cmd) (o : Nat) : Word := word (ofLeBytes ((c.block.drop o).take 8))

/-- An address with its low bits cleared (the X' of R249). -/
def clr4 (a : Word) : Word := word (a.toNat / 16 * 16)
/-- An address with bits [1:0] cleared. -/
def clr2 (a : Word) : Word := word (a.toNat / 4 * 4)
/-- A size with bits [3:0] cleared. -/
def low16 (n : Nat) : Nat := n / 16 * 16

/-- The check of a flag address for a command or access of world `w` (R138, R251): cause code and datum; `land` allows a fabric number. The address that s.vaddr names has bits [2:0] clear (DESIGN CHOICE, log 73). -/
def State.checkFlagIn (s : State) (core : Nat) (w : Bool) (a : Word) (land : Bool) : Option (Nat × Word) :=
  let a := word (a.toNat / 8 * 8)
  if a = 0 then none
  else
    let m := s.canonModule (moduleOf a)
    let span := decide (ownerOf a < 32) && decide (ctlBase ≤ offsetOf a) && decide (offsetOf a < imageBase)
    if !span || m == blendModule then some (cBAD_OWNER, a)
    else
      let n := flagCore (mkLoc m (ownerOf a) (offsetOf a))
      let k := s.core core
      if m = ownModule then
        if (s.core n).gang ≠ k.gang then some (cQUEUE, word n)
        else if (s.core n).secure ≠ w then some (cWORLD, 0) else none
      else if !land then some (cBAD_OWNER, a)
      else if (rangeFrom 0 k.blendSize).any (fun r => (k.blendEntry r).res && (k.blendEntry r).module == m) then none
      else some (cQUEUE, word n)

/-- The check of a flag address for an instruction that a core issues now. -/
def State.checkFlagAddr (s : State) (core : Nat) (a : Word) (land : Bool) : Option (Nat × Word) := s.checkFlagIn core (s.core core).secure a land

/-- The location of a flag address. -/
def State.flagAt (s : State) (a : Word) : Nat := mkLoc (s.canonModule (moduleOf a)) (ownerOf a) (offsetOf a / 8 * 8)

/-- The first of `n` bytes from `a` on that lies in none of the ranges, given by their first and last-plus-one lease keys. -/
def State.firstOutside (s : State) (rs : List (Nat × Nat)) : Nat → Word → Nat → Option Word
  | 0, _, _ => none
  | fuel + 1, a, n =>
    let x := s.leaseKey a
    match rs.find? (fun r => decide (r.1 ≤ x) && decide (x < r.2)) with
    | none => some a
    | some r => if n ≤ r.2 - x then none else s.firstOutside rs fuel (a + word (r.2 - x)) (n - (r.2 - x))

/-- Where the data bytes of a pot's SRAM lie (R196). -/
def sramRange (pot : Nat) : Nat × Nat := (mkLoc ownModule pot 0, mkLoc ownModule pot ctlBase)
/-- The SRAM of this module. -/
def sramRanges : List (Nat × Nat) := (rangeFrom 0 32).map sramRange
/-- Every byte of pot SRAM owners of this module. -/
def potRanges : List (Nat × Nat) := (rangeFrom 0 32).map (fun p => (mkLoc ownModule p 0, mkLoc ownModule (p + 1) 0))
/-- The HBM stack of a pot. -/
def hbmRange (pot : Nat) : Nat × Nat := (mkLoc ownModule (32 + pot) 0, mkLoc ownModule (33 + pot) 0)
/-- A core's scratchpad and its cluster's slice (R256). -/
def nearRanges (core : Nat) : List (Nat × Nat) :=
  [(padLoc core, 0x80000 + padLoc core), (sliceLoc (clusterOf core), 0x2000000 + sliceLoc (clusterOf core))]

/-- A buffer of a command: where it may lie, whether its granules' full bits change, the permission it needs, and its stretches of bytes. -/
structure Buf where
  rule : Option (List (Nat × Nat))
  full : Bool
  perm : Perm
  rows : List (Word × Nat)
deriving DecidableEq, Repr

/-- The state in which a core has a command's world, in which its memory is checked: that of the core at the command's issue (R138, R140). -/
def State.inWorldOf (s : State) (c : Cmd) : State := s.setCore c.core { s.core c.core with secure := c.env.secure }

/-- Steps 4 to 6 of R250 on the buffers of a command; a buffer of size zero checks nothing. -/
def State.bufChecks (s : State) (core : Nat) (l : List Buf) : Option (Nat × Word) :=
  let l := (l.map (fun b => { b with rows := b.rows.filter (fun r => decide (0 < r.2)) })).filter (fun b => !b.rows.isEmpty)
  let out (b : Buf) : Option (Nat × Word) :=
    match b.rule with
    | some rs => (b.rows.findSome? (fun r => s.firstOutside rs 40 r.1 r.2)).map (fun a => (cBAD_OWNER, a))
    | none => none
  match l.findSome? out with
  | some r => some r
  | none =>
    match l.findSome? (fun b => if b.full then (s.checkFull core b.rows).map (fun a => (cBAD_OWNER, a)) else none) with
    | some r => some r
    | none => l.findSome? (fun b => s.checkAccess core b.perm b.rows)

/-! ## Pieces of a command (R227) -/

/-- What an engine does next for a command: read bytes, write bytes setting full bits or not, clear full bits, add words in one move each; or nothing more. -/
inductive Plan where
  | read (l : List EByte) (aux : List Nat)
  /-- Bytes to write, and the addresses of bytes left out because their data failed. -/
  | write (l : List EByte) (missing : List Word)
  | add (l : List EByte)
  | clear (l : List EByte)
  | skip
  | done
  | wait
deriving DecidableEq, Repr

/-- The source port of a command's engine (R210): its core for matrix and copy engines, its tray otherwise. -/
def Cmd.port (c : Cmd) (pot : Nat) : Nat := if isTrayInstr c.instr then 16384 + pot else c.core

/-- Entries of the pieces of a command. -/
def cmdEntries (c : Cmd) (port : Nat) (k : EKind) : Nat → List (Nat × List EByte) → List Entry
  | _, [] => []
  | n, (b, l) :: r =>
    { id := n, src := .cmd c.id, port := port, tgt := b, cls := .engine, phase := .egress, kind := k, bytes := l, env := c.env, epc := c.epc,
      low := (l.head?.map EByte.va).getD 0 } :: cmdEntries c port k (n + 1) r

/-- The byte's granule has no missing byte, so that its write sets the full bit (R252, R265) (DEDUCED, log 20). -/
def wholeGranule (missing : List Word) (b : EByte) : Bool := !missing.any (fun a => a.toNat / 16 == b.va.toNat / 16)

/-- The pieces of an engine: those of an access, each cut at 2 MiB virtual pages, so that a page that refuses fails its own bytes only (R252, R265; DEDUCED, log 10). -/
def enginePieces (l : List EByte) : List (Nat × List EByte) :=
  (splitPieces l).flatMap (fun p => (p.2.foldl (fun q b => addPiece (pageOf b.loc) b q) []).map (fun q => (p.1, q.2)))

/-- Pieces placed in the engine's egress (R227). -/
def State.emit (s : State) (c : Cmd) (port : Nat) (k : EKind) (l : List EByte) : State × Nat :=
  let ps := enginePieces (s.located c.core (sortBytes l))
  ({ s with ents := s.ents ++ cmdEntries c port k s.next ps, next := s.next + ps.length }, ps.length)

/-- The address of a location as an engine names it: a location of this module is written with MODULE 0xFFF. -/
def addrOfLoc (l : Nat) : Word := word l

/-- One ENGINE move for a command at its pot: the pieces of its plan's next step, once none is out. -/
def State.engineStep (s : State) (c : Cmd) (pot : Nat) (p : Plan) : State :=
  let port := c.port pot
  let go (s : State) (n : Nat) (c : Cmd) : State := s.setCmd { c with out := n, line := c.line + 1 }
  match p with
  | .read l aux =>
    let r := s.emit c port .engRead l
    go r.1 r.2 { c with buf := List.replicate (l.foldl (fun m b => Nat.max m (b.idx + 1)) 0) none, aux := aux }
  | .write l missing =>
    let r := s.emit c port .engWrite (l.filter (wholeGranule missing))
    let q := r.1.emit c port .store (l.filter (fun b => !wholeGranule missing b))
    go q.1 (r.2 + q.2) c
  | .add l => let r := s.emit c port .engAdd l; go r.1 r.2 c
  | .clear l => let r := s.emit c port .engClear l; go r.1 r.2 c
  | .skip => go s 0 c
  | .done => s.setCmd { c with stage := .finished }
  | .wait => s

/-- Bytes read into a command's buffer at the places of a reply. -/
def Cmd.fill (c : Cmd) (l : List (Nat × Byte)) : Cmd :=
  { c with buf := l.foldl (fun b x => b.set x.1 (some x.2)) c.buf }

/-- A byte of the buffer. -/
def Cmd.at (c : Cmd) (i : Nat) : Option Byte := (c.buf[i]?).join

/-- `n` bytes of the buffer as a number, none where one is missing. -/
def Cmd.num' (c : Cmd) (i n : Nat) : Option Nat :=
  let l := (rangeFrom i n).map c.at
  if l.all Option.isSome then some (ofLeBytes (l.map (fun o => o.getD 0))) else none

/-- The addresses of the missing bytes of an optional list from `a` on (DEDUCED, log 47). -/
def missingAt (a : Word) (l : List (Option Byte)) : List Word :=
  (List.zip (rangeFrom 0 l.length) l).filterMap (fun p => if p.2.isNone then some (a + word p.1) else none)

/-- Engine bytes to write from an optional list, missing ones left out. -/
def writeBytes (a : Word) (l : List (Option Byte)) : List EByte :=
  (List.zip (rangeFrom 0 l.length) l).filterMap (fun p => p.2.map (fun b => { va := a + word p.1, loc := 0, idx := p.1, val := b }))

/-- `n` bytes to read from `a`, the first at place `i` of the buffer. -/
def readBytes (a : Word) (i n : Nat) : List EByte := contiguous a i n []

/-- The plan that writes an optional list from `a` on. -/
def planWrite (a : Word) (l : List (Option Byte)) : Plan := .write (writeBytes a l) (missingAt a l)

/-! ## Flags and landings (R251, R252, R404) -/

/-- The entry is an FWAIT that waits at the flag word of a location. -/
def Entry.waitsAt (e : Entry) (l : Nat) : Bool :=
  match e.kind with
  | .fwait _ => e.phase == .waitlist && e.bytes.any (fun b => b.loc / 8 == l / 8)
  | _ => false

/-- The waiters of a flag, woken in the order they began to wait until one clears it (R247): the entries that wake, and whether SET stays. `due` holds the order of waiting. -/
def wakeOrder (l : Nat) : List Entry → List Nat × Bool
  | [] => ([], true)
  | e :: t =>
    if !e.waitsAt l then wakeOrder l t
    else
      match e.kind with
      | .fwait true => ([e.id], false)
      | _ => let r := wakeOrder l t; (e.id :: r.1, r.2)

/-- An entry put in order of `due`. -/
def insDue (e : Entry) : List Entry → List Entry
  | [] => [e]
  | x :: t => if e.due < x.due then e :: x :: t else x :: insDue e t

/-- SET of a flag word becomes 1, which wakes its waiters in the same move (R246, R247). -/
def State.setSet (s : State) (l : Nat) : State :=
  let r := wakeOrder l ((s.ents.filter (fun e => e.waitsAt l)).foldl (fun m e => insDue e m) [])
  let s := { s with ents := s.ents.map (fun (e : Entry) => if r.1.contains e.id then { e with phase := .reply, due := 0 } else e) }
  s.setFlag l (if r.2 then s.flag l ||| 1 else s.flag l &&& ~~~ 1)

/-- A landing at a flag word (R404). -/
def State.landing (s : State) (l : Nat) : State :=
  let w := s.flag l
  let p := w.bits 32 20
  if 0 < p then
    let s := s.setFlag l (word (w.toNat % 2 + 2 ^ 32 * (p - 1)))
    if p = 1 then s.setSet l else s
  else if locModule l = ownModule then s.countAt (flagCore l) 0x032 else s

/-- Step 2 of R252: the landing and the flag writes that a command names leave in the engine class, once everything it wrote has performed; address 0 names none, and a command with a failed piece sends none. -/
def State.sendFlags (s : State) (c : Cmd) (pot : Nat) (l : List (EKind × Word)) : State :=
  let l := if c.failed then [] else l.filter (fun p => decide (p.2.toNat / 8 ≠ 0))
  let r := l.foldl (fun (r : State × Nat) p =>
    let q := r.1.emit c (c.port pot) p.1 (contiguous (word (p.2.toNat / 8 * 8)) 0 8 [])
    (q.1, r.2 + q.2)) (s, 0)
  r.1.setCmd { c with stage := .flagging, out := r.2 }

/-- A doubleword of a command's block written by its engine at the command's end, STATUS or RESULT (R267, R297, R376); its flag follows. -/
def State.sendWord (s : State) (c : Cmd) (pot off x : Nat) : State :=
  let r := s.emit c (c.port pot) .engWrite (contiguous (c.ra + word off) 0 8 (leBytes 8 x))
  r.1.setCmd { c with stage := .finished, out := r.2 }

/-- The command is done: its handle resolves next (R252 step 4). -/
def State.toResolve (s : State) (c : Cmd) : State := s.setCmd { c with stage := .resolving }

end Sys2Proof.Machine
end

