-- ==== Sys2Proof/Machine/Matrix.lean ====
section
/-! DEFINITION. The matrix engine (spec/09_matrix.md R170-R190). -/

namespace Sys2Proof.Machine

/-- The element format of a fmt code for multiplies (R170). -/
def fmtOf (f : Nat) : Fmt := if f = 0 then bf16 else if f = 1 then fp16 else if f = 2 then e4m3 else if f = 3 then e5m2 else e2m1

/-- Bits of an element of a fmt code (R170). -/
def fmtBits (f : Nat) : Nat := if f ≤ 1 then 16 else if f = 4 ∨ f = 7 then 4 else 8

/-- Bytes of an operand image (R170). -/
def imageBytes (f : Nat) : Nat := 128 * fmtBits f

/-- Element k of row or column i of an operand that stands in bytes (R171). -/
def operandElem (b : SMap Byte) (f i k : Nat) : Nat :=
  let w := fmtBits f
  let at_ := i * 4 * w + k * w / 8
  let x := (SMap.get 0 b at_).toNat
  if w = 16 then x + 256 * (SMap.get 0 b (at_ + 1)).toNat
  else if w = 8 then x
  else if k % 2 = 0 then x % 16 else x / 16

/-- A row or column of 32 elements as exact values. -/
def operandRow (b : SMap Byte) (f i : Nat) : List Fp := (rangeFrom 0 32).map (fun k => (fmtOf f).decode (operandElem b f i k))

/-- A row or column of 32 elements as integers. -/
def operandInts (b : SMap Byte) (f i : Nat) : List Int :=
  (rangeFrom 0 32).map (fun k => signedOf (fmtBits f) (operandElem b f i k))

/-- The elements of a tile, row by row. -/
def Core.tile (c : Core) (t : Nat) : List Lane := SMap.getRange 0 c.tiles (1024 * t) 1024

/-- A core with a tile written. -/
def Core.setTile (c : Core) (t : Nat) (l : List Lane) : Core := { c with tiles := SMap.setRange 0 c.tiles (1024 * t) l }

/-- Every pair (i, j) of a tile, row by row, through a function of row and column. -/
def tileMap {α β : Type} (rows cols : List α) (f : α → α → β) : List β := rows.flatMap (fun r => cols.map (f r))

/-- The dot products of every row of A with every column of B (R71). -/
def dots (a b : SMap Byte) (f : Nat) : List Lane :=
  tileMap ((rangeFrom 0 32).map (operandRow a f)) ((rangeFrom 0 32).map (operandRow b f))
    (fun x y => doteo (List.zipWith (fun p q => (p.mul q).1) x y))

/-- A group record's scale and zero point (R59). -/
def groupZp (r : Nat) : Int := signedOf 8 (bits r 16 8)
/-- The scale as FP32, exactly. -/
def groupScale (r : Nat) : Lane := widen fp16 (bits r 0 16)

/-- The 4-byte record `i` of a block of bytes. -/
def blockRec (l : List Byte) (i : Nat) : Nat := ofLeBytes ((l.drop (4 * i)).take 4)

/-- The integer dot products of MMAI (R186). -/
def idots (a b : SMap Byte) (f : Nat) (blk : List Byte) : List Int :=
  let rows := (rangeFrom 0 32).map (fun i => (operandInts a f i).map (fun x => x - groupZp (blockRec blk i)))
  let cols := (rangeFrom 0 32).map (fun j => (operandInts b f j).map (fun x => x - groupZp (blockRec blk (32 + j))))
  tileMap rows cols (fun x y => (List.zipWith (fun p q => p * q) x y).foldl (fun m n => m + n) 0)

/-- RNE(z + y * 2^(ea + eb - 254)) (R187). -/
def scaleMx (ea eb : Nat) (z y : Lane) : Lane :=
  if ea = 255 ∨ eb = 255 then nan32
  else
    let p := match toFp y with
      | .num s m e => Fp.num s m (e + ea + eb - 254)
      | x => x
    (roundFp .rne ((toFp z).add .rne p).1).1

/-- The grouped scaling of R187. -/
def scaleGrp (ra rb : Nat) (z y : Lane) : Lane :=
  let t := (intToF32 .rne y.toInt).1
  let u := (fmul32 .rne t (groupScale ra)).1
  let w := (fmul32 .rne u (groupScale rb)).1
  (fadd32 .rne z w).1

/-- The scaled tile of MSCA. -/
def scaleTile (grp : Bool) (blk : List Byte) (z y : List Lane) : List Lane :=
  let f (i j : Nat) (z y : Lane) : Lane :=
    if grp then scaleGrp (blockRec blk i) (blockRec blk (32 + j)) z y
    else scaleMx (blk.getD i 0).toNat (blk.getD (32 + j) 0).toNat z y
  List.zipWith (fun p q => f (p / 32) (p % 32) q.1 q.2) (rangeFrom 0 1024) (List.zip z y)

/-- The bytes that MDRAIN writes for an element (R189). -/
def drainElem (f : Nat) (x : Lane) : List Byte :=
  if f = 8 ∨ f = 9 then leBytes 4 x.toNat
  else if f = 0 then leBytes 2 (narrow bf16 .rne x).1
  else if f = 1 then leBytes 2 (narrow fp16 .rne x).1
  else leBytes 1 (narrowSat (if f = 2 then e4m3 else e5m2) .rne x).1

/-- Bytes of a drained element. -/
def drainSize (f : Nat) : Nat := if f = 8 ∨ f = 9 then 4 else if f ≤ 1 then 2 else 1

/-! ## Holding tiles (R83, R172) -/

/-- A y tile's number among the holders. -/
def yTile (u : Nat) : Nat := 8 + u

/-- The datum of MATRIX_OWNER: [2:0] the tile, [3] set for a y tile (R150). -/
def tileDatum (t : Nat) : Word := if t < 8 then word t else word (t - 8 + 8)

/-- The tile counts as held. -/
def Core.held (c : Core) (t : Nat) : Bool := (SMap.find c.holders t).isSome

/-- The context holds the tile and has not given it up. -/
def Core.holds (c : Core) (ctx t : Nat) : Bool := SMap.find c.holders t == some (ctx, false)

/-- The tile is a shadow under twin mode (R180). -/
def Core.shadowed (c : Core) (t : Nat) : Bool := c.twin && (decide (4 ≤ t ∧ t < 8) || t == 9)

/-- A core with a tile taken by a context. -/
def Core.take (c : Core) (t ctx : Nat) : Core := { c with holders := SMap.ins c.holders t (ctx, false) }

/-- A core with a tile given up by its holder; it is released later (R172). -/
def Core.giveUp (c : Core) (t : Nat) : Core :=
  { c with holders := c.holders.map (fun (p : Nat × (Nat × Bool)) => if p.1 = t then (t, (p.2.1, true)) else p) }

/-- The matrix commands of a core that are still queued or in the stream. -/
def State.matrixCmds (s : State) (core : Nat) : List Cmd :=
  ((s.core core).stream ++ (s.core core).mq).filterMap (SMap.find s.cmds)

/-- The tiles that a command names. -/
def tilesOf (c : Cmd) : List Nat :=
  match c.instr with
  | .mma z .. => [z.val]
  | .mmab y .. => [yTile y.val]
  | .mmai y .. => [yTile y.val]
  | .msca z _ u .. => [z.val, yTile u.val]
  | .mzero z _ => [z.val]
  | .mdrain z .. => [z.val]
  | _ => []

/-- Tiles given up that no command names any more are released (R172): a z tile by MFREE, a y tile by the MSCA that has read it. An MSCA whose block is uncorrectable releases its y tile too (DESIGN CHOICE, log 61). -/
def State.releaseIdle (s : State) (core : Nat) : State :=
  let c := s.core core
  let busy := (s.matrixCmds core).flatMap tilesOf
  s.setCore core { c with holders := c.holders.filter (fun (p : Nat × (Nat × Bool)) => !(p.2.2 && !busy.contains p.1)) }

/-- A retiring or departing context gives up its tiles (R83, R172). -/
def State.dropTiles (s : State) (core ctx : Nat) : State :=
  let c := s.core core
  let c := { c with holders := c.holders.map (fun (p : Nat × (Nat × Bool)) => if p.2.1 = ctx then (p.1, (ctx, true)) else p) }
  (s.setCore core c).releaseIdle core

/-! ## Issue (R173, R176, R181) -/

/-- The location rule of a matrix image (R176): a scratchpad of the issuing core's cluster, or the cluster's slice. For an image that straddles two scratchpads, none of whose bytes lies outside both, the first byte past the one it starts in is named (DESIGN CHOICE, log 69). -/
def State.imageFirstOutside (s : State) (core : Nat) (a : Word) (n : Nat) : Option Word :=
  let cl := clusterOf core
  let lo := 0x80000 * (cl % 8 * 64)
  let sl := 0x10000000 + 0x2000000 * (cl % 8)
  let here := s.canonModule (moduleOf a) == ownModule && decide (ownerOf a = potOf core)
  let f := offsetOf a
  if !here then some a
  else if decide (lo ≤ f) && decide (f < lo + 64 * 0x80000) then
    let e := 0x80000 + 0x80000 * (f / 0x80000)
    if f + n ≤ e then none else some (a + word (e - f))
  else if decide (sl ≤ f) && decide (f < 0x2000000 + sl) then
    if f + n ≤ 0x2000000 + sl then none else some (a + word (0x2000000 + sl - f))
  else some a

/-- The memory checks of R176 on an image: checks 1 to 3 of R122, then the location rule. -/
def imageChecked (s : State) (p : Perm) (a : Word) (n : Nat) (k : State → Act) : Act :=
  match s.checkAccess s.cur.core p [(a, n)] with
  | some (code, va) => if code = cPEER_GONE then .trap cBAD_OWNER 0 a else .trap code 0 va
  | none =>
    match s.imageFirstOutside s.cur.core a n with
    | some va => .trap cBAD_OWNER 0 va
    | none => k s

/-- A matrix command placed in its slot queue (R173, R177): it waits while the queue is full or no handle entry is free; where both hold the sub-reason is hazard (DESIGN CHOICE, log 60). -/
def matrixPlace (s : State) (i : Instr) (rh : GReg) (a : Word) (fresh : Bool) (k : State → State) : Act :=
  let t := s.cur
  let c := s.core t.core
  if 2 ≤ (s.inSlot c.mq t.core (s.slotOf t)).length then .stay s .memory .hazard
  else
    match c.freeHandle with
    | none => .stay s .memory .handle
    | some h =>
      let m := { s.mkCmd i rh.val a .queued with fresh := fresh }
      let s := { s with next := s.next + 1 }
      let r := s.giveHandle t m h
      let s := r.1.setCmd r.2
      let c := s.core t.core
      .go (k (s.setCore t.core { c with mq := c.mq ++ [m.id] }))

/-- What a matrix word names: the address register as a source, the handle as destination. -/
def useMat (ra rh : GReg) : Use := { src := gset [ra], dst := gset [rh] }

/-- The image address of a register (R176). -/
def imageAddr (c : Ctx) (ra : GReg) : Word := clr4 (c.gr ra)

/-- MCLAIM (R182): takes the tile and zeroes it, and its shadow in twin mode. -/
def execMclaim (zt : Fin 8) (s : State) : Host.Outcome State Fault Refusal :=
  issue s {} (fun s _ =>
    let t := s.cur
    let c := s.core t.core
    if c.held zt.val || c.shadowed zt.val then .trap cMATRIX_OWNER 0 (tileDatum zt.val)
    else
      let zero := List.replicate 1024 (0 : Lane)
      let c := (c.take zt.val t.id).setTile zt.val zero
      .go (s.setCore t.core (if c.twin then c.setTile (zt.val + 4) zero else c)))

/-- MFREE (R182, R172): gives the tile up; it is released when no earlier command names it. -/
def execMfree (zt : Fin 8) (s : State) : Host.Outcome State Fault Refusal :=
  issue s {} (fun s _ =>
    let t := s.cur
    let c := s.core t.core
    if !c.holds t.id zt.val || c.shadowed zt.val then .trap cMATRIX_OWNER 0 (tileDatum zt.val)
    else .go ((s.setCore t.core (c.giveUp zt.val)).releaseIdle t.core))

/-- MLDA (R183). -/
def execMlda (fmt : Fin 16) (ra rh : GReg) (s : State) : Host.Outcome State Fault Refusal :=
  issue s (useMat ra rh) (fun s c =>
    imageChecked s permR (imageAddr c ra) (imageBytes fmt.val) (fun s => matrixPlace s (.mlda fmt ra rh) rh (imageAddr c ra) false id))

/-- MLDB (R183). -/
def execMldb (fmt : Fin 16) (ra rh : GReg) (s : State) : Host.Outcome State Fault Refusal :=
  issue s (useMat ra rh) (fun s c =>
    imageChecked s permR (imageAddr c ra) (imageBytes fmt.val) (fun s => matrixPlace s (.mldb fmt ra rh) rh (imageAddr c ra) false id))

/-- The next core of the leaf ring (R179). -/
def ringNext (n : Nat) : Nat := n / 16 * 16 + (n % 16 + 1) % 16

/-- RPASS (R184): the next core must be of the gang and of the world. -/
def execRpass (rh : GReg) (s : State) : Host.Outcome State Fault Refusal :=
  issue s (useMat 0 rh) (fun s _ =>
    let n := ringNext s.cur.core
    let c := s.core s.cur.core
    if (s.core n).gang ≠ c.gang then .trap cQUEUE 0 (word n)
    else if (s.core n).secure ≠ c.secure then .trap cWORLD 0 0
    else matrixPlace s (.rpass rh) rh 0 false id)

/-- The holding check of MMA, MZERO and MDRAIN (R185). -/
def zHeld (s : State) (z : Nat) (k : State → Act) : Act :=
  let c := s.core s.cur.core
  if !c.holds s.cur.id z || c.shadowed z then .trap cMATRIX_OWNER 0 (tileDatum z) else k s

/-- MMA (R185). -/
def execMma (zt : Fin 8) (fmt : Fin 16) (rh : GReg) (s : State) : Host.Outcome State Fault Refusal :=
  issue s (useMat 0 rh) (fun s _ => zHeld s zt.val (fun s => matrixPlace s (.mma zt fmt rh) rh 0 false id))

/-- The taking of a y tile by MMAB and MMAI (R172, R186): held by another, or y1 in twin mode, raises MATRIX_OWNER; the multiply is fresh where the tile is taken at this issue. -/
def yTaken (s : State) (y : Nat) (k : Bool → (State → State) → Act) : Act :=
  let t := s.cur
  let c := s.core t.core
  let n := yTile y
  if c.shadowed n then .trap cMATRIX_OWNER 0 (tileDatum n)
  else
    let take (s : State) : State := s.setCore t.core ((s.core t.core).take n t.id)
    match SMap.find c.holders n with
    | none => k true take
    | some (x, up) => if x ≠ t.id then .trap cMATRIX_OWNER 0 (tileDatum n) else if up then k true take else k false id

/-- MMAB (R186). -/
def execMmab (y : Fin 2) (fmt : Fin 16) (rh : GReg) (s : State) : Host.Outcome State Fault Refusal :=
  issue s (useMat 0 rh) (fun s _ => yTaken s y.val (fun fresh take => matrixPlace s (.mmab y fmt rh) rh 0 fresh take))

/-- MMAI (R186): its group block is 256 bytes. -/
def execMmai (y : Fin 2) (fmt : Fin 16) (ra rh : GReg) (s : State) : Host.Outcome State Fault Refusal :=
  issue s (useMat ra rh) (fun s c => yTaken s y.val (fun fresh take =>
    imageChecked s permR (imageAddr c ra) 256 (fun s => matrixPlace s (.mmai y fmt ra rh) rh (imageAddr c ra) fresh take)))

/-- MSCA (R187): the thread holds the y tile no longer (R172). A thread that holds neither tile faults with the z tile (DESIGN CHOICE, log 68). -/
def execMsca (zt k : Fin 8) (u : Fin 2) (ra rh : GReg) (s : State) : Host.Outcome State Fault Refusal :=
  issue s (useMat ra rh) (fun s c =>
    let q := s.core s.cur.core
    zHeld s zt.val (fun s =>
      if !q.holds s.cur.id (yTile u.val) || q.shadowed (yTile u.val) then .trap cMATRIX_OWNER 0 (tileDatum (yTile u.val))
      else imageChecked s permR (imageAddr c ra) (if k.val = 0 then 64 else 256) (fun s =>
        matrixPlace s (.msca zt k u ra rh) rh (imageAddr c ra) false (fun s =>
          s.setCore s.cur.core ((s.core s.cur.core).giveUp (yTile u.val))))))

/-- MZERO (R188). -/
def execMzero (zt : Fin 8) (rh : GReg) (s : State) : Host.Outcome State Fault Refusal :=
  issue s (useMat 0 rh) (fun s _ => zHeld s zt.val (fun s => matrixPlace s (.mzero zt rh) rh 0 false id))

/-- MDRAIN (R189): it sets full bits, so the check of R199 comes before the lease check (R198). -/
def execMdrain (zt : Fin 8) (fmt : Fin 16) (ra rh : GReg) (s : State) : Host.Outcome State Fault Refusal :=
  issue s (useMat ra rh) (fun s c => zHeld s zt.val (fun s =>
    match s.checkFull s.cur.core [(imageAddr c ra, 1024 * drainSize fmt.val)] with
    | some va => .trap cBAD_OWNER 0 va
    | none => imageChecked s permW (imageAddr c ra) (1024 * drainSize fmt.val) (fun s => matrixPlace s (.mdrain zt fmt ra rh) rh (imageAddr c ra) false id)))

/-- MTWIN (R180, R190): a command of the stream without a handle. On: refused while z4-z7 or y1 is held. -/
def execMtwin (on : Bool) (s : State) : Host.Outcome State Fault Refusal :=
  issue s {} (fun s _ =>
    let t := s.cur
    let c := s.core t.core
    match (if on then [4, 5, 6, 7, 9].find? c.held else none) with
    | some n => .trap cMATRIX_OWNER 0 (tileDatum n)
    | none =>
      if 2 ≤ (s.inSlot c.mq t.core (s.slotOf t)).length then .stay s .memory .hazard
      else
        let m := { s.mkCmd (.mtwin on) 0 0 .queued with hidx := 64 }
        let s := { s.setCmd m with next := s.next + 1 }
        .go (s.setCore t.core { c with mq := c.mq ++ [m.id] }))

/-! ## The stream (R173-R180) -/

/-- The code of a MAT instruction for trace records: fn and zd (R49, R410). -/
def matFn : Instr → Nat × Nat
  | .mlda .. => (2, 0) | .mldb .. => (3, 0) | .rpass .. => (4, 0)
  | .mma z .. => (5, z.val) | .mmab y .. => (6, y.val) | .mmai y .. => (7, y.val)
  | .msca z .. => (8, z.val) | .mzero z _ => (9, z.val) | .mdrain z .. => (10, z.val)
  | .mtwin _ => (11, 0)
  | _ => (0, 0)

/-- MATRIX_STREAM_ACCEPT (R173): a queue head, round-robin by slot after the slot taken last, enters the stream while it has room. -/
def execMatrixStreamAccept (s : State) : Host.Outcome State Fault Refusal :=
  let n := s.sel.a
  let c := s.core n
  if 8 ≤ c.stream.length then .next s
  else
    let slots := (rangeFrom 1 15).map (fun i => (c.mlast + i) % 15)
    match slots.findSome? (fun sl => ((s.inSlot c.mq n sl).head?).map (fun i => (sl, i))) with
    | none => .next s
    | some (sl, i) =>
      let s := s.setCore n { c with mq := c.mq.filter (fun x => x != i), stream := c.stream ++ [i], mlast := sl }
      match SMap.find s.cmds i with
      | none => .next s
      | some m =>
        let s := s.setCmd { m with stage := .arrived }
        .next (s.trace n 9 0x03 (matFn m.instr).1 m.inc m.slot (matFn m.instr).2 m.epc 0)

/-- The twin mismatch of a drain (R180). -/
def Core.twinMismatch (c : Core) (z : Nat) : Bool := c.twin && decide (z < 4) && c.tile z != c.tile (z + 4)

/-- The command needs bl0 and finds it empty (R178). -/
def Core.needsB (c : Core) (m : Cmd) : Bool :=
  match m.instr with
  | .mma .. | .mmab .. | .mmai .. => !c.bl0Full
  | _ => false

/-- The twin of a tile number under twin mode, if it has one (R180). -/
def Core.twins (c : Core) (t : Nat) : List Nat :=
  if c.twin then (if t < 4 then [t, t + 4] else if t = 8 then [8, 9] else [t]) else [t]

/-- The resource that a matrix command occupies (R174, R175): 1 load port, 2 ring port, 3 array, 4 scale stage, 5 drain port; MTWIN none. -/
def matResource : Instr → Nat
  | .mlda .. | .mldb .. => 1
  | .rpass .. => 2
  | .mma .. | .mmab .. | .mmai .. | .mzero .. => 3
  | .msca .. => 4
  | .mdrain .. => 5
  | _ => 0

/-- The tiles by number, the A latch (10) and bl0 (11) that a command reads. -/
def Core.matReads (c : Core) (m : Cmd) : List Nat :=
  match m.instr with
  | .rpass _ => [11]
  | .mma .. | .mmab .. | .mmai .. => (tilesOf m).flatMap c.twins ++ [10, 11]
  | .msca .. | .mdrain .. => (tilesOf m).flatMap c.twins
  | .mtwin _ => rangeFrom 0 10
  | _ => []

/-- The tiles and latches that a command writes. -/
def Core.matWrites (c : Core) (m : Cmd) : List Nat :=
  match m.instr with
  | .mlda .. => [10]
  | .mldb .. | .rpass _ => [11]
  | .msca z .. => c.twins z.val
  | .mma .. | .mmab .. | .mmai .. | .mzero .. => (tilesOf m).flatMap c.twins
  | .mtwin _ => rangeFrom 0 10
  | _ => []

/-- The length of the memory image that a command names (R170, R171, R176). -/
def imageLen : Instr → Nat
  | .mlda f _ _ => imageBytes f.val
  | .mldb f _ _ => imageBytes f.val
  | .mmai .. => 256
  | .msca _ k _ _ _ => if k.val = 0 then 64 else 256
  | .mdrain _ f _ _ => 1024 * drainSize f.val
  | _ => 0

/-- The images of two commands overlap, by whatever names of their bytes (R195), and one of them is written. -/
def State.imagesClash (s : State) (e m : Cmd) : Bool :=
  let x := s.vloc e.core e.ra
  let y := s.vloc m.core m.ra
  (matResource e.instr == 5 || matResource m.instr == 5) && decide (x < y + imageLen m.instr ∧ y < x + imageLen e.instr)

/-- A command waits for an earlier one of its stream (R174): they share a resource, or a latch, tile or memory range that one of them writes (DEDUCED, log 50). -/
def State.matAfter (s : State) (n : Nat) (e m : Cmd) : Bool :=
  let c := s.core n
  (matResource m.instr != 0 && matResource e.instr == matResource m.instr)
    || (c.matWrites e).any (fun x => (c.matReads m).contains x || (c.matWrites m).contains x) || (c.matReads e).any (c.matWrites m).contains || s.imagesClash e m

/-- Every earlier command of the stream that the command waits for has finished. -/
def State.matFree (s : State) (n : Nat) (m : Cmd) : Bool :=
  ((s.core n).stream.takeWhile (fun i => i != m.id)).all (fun i => match SMap.find s.cmds i with
    | some e => !s.matAfter n e m
    | none => true)

/-- The command at a place of a core's stream, once it waits for no earlier one. -/
def State.streamAt (s : State) (n k : Nat) : Option Cmd := (((s.core n).stream[k]?).bind (SMap.find s.cmds)).filter (s.matFree n)

/-- The RPASS whose turn on the ring port it is, once it waits for no earlier command (R174, R179). -/
def State.rpassAt (s : State) (n : Nat) : Option Cmd :=
  (((s.core n).stream.filterMap (SMap.find s.cmds)).find? (fun m => matResource m.instr == 2)).filter (s.matFree n)

/-- The memory work of a matrix command, step by step (R174, R176) (DEDUCED, log 50). A multiply that finds bl0 empty, and an RPASS, have not begun while they wait (R177-R179). -/
def matrixPlan (k : Core) (c : Cmd) : Plan :=
  let rd (n : Nat) : Plan := if c.line = 0 then .read (readBytes c.ra 0 n) [] else .done
  if k.needsB c then .wait
  else match c.instr with
  | .rpass _ => .wait
  | .mlda f _ _ => rd (imageBytes f.val)
  | .mldb f _ _ => rd (imageBytes f.val)
  | .mmai _ _ _ _ => rd 256
  | .msca _ q _ _ _ => rd (if q.val = 0 then 64 else 256)
  | .mdrain z f _ _ =>
    if c.line = 0 then
      if k.twinMismatch z.val then .skip
      else .write (contiguous c.ra 0 (1024 * drainSize f.val) ((k.tile z.val).flatMap (drainElem f.val))) []
    else .done
  | _ => .done

/-- bl1 moves into an empty bl0 (R178); its bytes are then zero, where the spec is silent (DESIGN CHOICE, log 67). -/
def Core.swapped (c : Core) : Core :=
  if !c.bl0Full && c.bl1Full then { c with bl0 := c.bl1, bl0Full := true, bl1 := [], bl1Full := false } else c

/-- A multiply's tile update on one pair of tiles. -/
def Core.multiply (c : Core) (m : Cmd) (blk : List Byte) (t : Nat) : Core :=
  match m.instr with
  | .mma _ f _ => c.setTile t (List.zipWith (fun z d => (fadd32 .rne z d).1) (c.tile t) (dots c.alatch c.bl0 f.val))
  | .mmab _ f _ =>
    let d := dots c.alatch c.bl0 f.val
    c.setTile t (if m.fresh then d else List.zipWith (fun y p => (fadd32 .rne y p).1) (c.tile t) d)
  | .mmai _ f _ _ =>
    let d := (idots c.alatch c.bl0 f.val blk).map (BitVec.ofInt 32)
    c.setTile t (if m.fresh then d else List.zipWith (fun y p => y + p) (c.tile t) d)
  | _ => c

/-- A core whose RPASS has moved its tile: bl0 empties, and the swap of R178 follows (R179). -/
def Core.afterRpass (c : Core) : Core := ({ c with bl0Full := false }).swapped

/-- What a command does to latches and tiles at its turn (R183-R190), its memory data read. MTWIN.on with twin mode already on copies nothing (DESIGN CHOICE, log 62); a holder of z4-z7 or y1 that came between its issue and its turn stays, and a command that names such a tile acts on that tile alone (DESIGN CHOICE, log 66). -/
def Core.matrixEffect (c : Core) (m : Cmd) : Core :=
  let data := m.buf.map (fun b => b.getD 0)
  match m.instr with
  | .mlda _ _ _ => { c with alatch := SMap.setRange 0 c.alatch 0 data }
  | .mldb _ _ _ => { c with bl0 := SMap.setRange 0 c.bl0 0 data, bl0Full := true }
  | .mma z _ _ => (c.twins z.val).foldl (fun c t => c.multiply m data t) c
  | .mmab y _ _ => (c.twins (yTile y.val)).foldl (fun c t => c.multiply m data t) c
  | .mmai y _ _ _ => (c.twins (yTile y.val)).foldl (fun c t => c.multiply m data t) c
  | .msca z k u _ _ =>
    (List.zip (c.twins z.val) (c.twins (yTile u.val))).foldl
      (fun c p => c.setTile p.1 (scaleTile (k.val == 1) data (c.tile p.1) (c.tile p.2))) c
  | .mzero z _ => (c.twins z.val).foldl (fun c t => c.setTile t (List.replicate 1024 0)) c
  | .mtwin on =>
    if on && !c.twin then
      let c := [0, 1, 2, 3].foldl (fun c t => c.setTile (t + 4) (c.tile t)) c
      { c.setTile 9 (c.tile 8) with twin := true }
    -- Twin mode that is on already copies nothing again (DESIGN CHOICE, log 62); turning it off leaves the shadows free.
    else if !on && c.twin then { c with twin := false, holders := c.holders.filter (fun p => !(c.shadowed p.1)) }
    else c
  | _ => c

/-- The end of a matrix command: out of the stream, its handle to resolve; MTWIN has none. -/
def State.matrixDone (s : State) (n : Nat) (m : Cmd) : State :=
  let c := s.core n
  let s := s.setCore n { c with stream := c.stream.filter (fun i => i != m.id) }
  let s := match m.instr with
    | .mtwin _ => { s with cmds := SMap.del s.cmds m.id }
    | _ => s.toResolve m
  s.releaseIdle n

/-- MATRIX_COMMAND_FINISH (R174, R175): a command of the stream, by its place, that waits for no earlier one and whose memory work is done changes latches and tiles and finishes. A command whose data failed changes nothing (R177), but for the y tile of an MSCA, which is released (DESIGN CHOICE, log 61). -/
def execMatrixCommandFinish (s : State) : Host.Outcome State Fault Refusal :=
  let n := s.sel.a
  match s.streamAt n s.sel.b with
  | none => .next s
  | some m =>
    match m.instr with
    | .rpass _ => .next s
    | _ =>
      if m.stage ≠ .finished || decide (0 < m.out) || (s.core n).needsB m then .next s
      else
        let bad : Nat × Word := match m.instr with
          | .mdrain z _ _ _ => if (s.core n).twinMismatch z.val then (cTWIN_MISMATCH, word z.val) else (0, 0)
          | _ => (0, 0)
        let m := if m.failed || bad.1 = 0 then m else { m with code := bad.1, vaddr := bad.2 }
        let c := s.core n
        let s := if m.failed then s else s.setCore n (c.matrixEffect m).swapped
        .next (s.matrixDone n m)

/-- An RPASS of core n is ready (R179). -/
def State.rpassReady (s : State) (n : Nat) : Bool := (s.rpassAt n).isSome && (s.core n).bl0Full

/-- The cores from n on whose RPASS moves together: each next core's bl1 is full and its own RPASS is ready; none where the chain ends at a core that cannot receive. -/
def State.ringChain (s : State) : Nat → Nat → Nat → Option (List Nat)
  | 0, _, _ => none
  | fuel + 1, start, n =>
    if !s.rpassReady n then none
    else
      let m := ringNext n
      if !(s.core m).bl1Full then some [n]
      else if m = start then some [n]
      else match s.ringChain fuel start m with
        | some l => some (n :: l)
        | none => none

/-- A matrix command waits for a ring arrival, or an RPASS for the next core's bl1 (R177-R179). -/
def State.matWaits (s : State) (n : Nat) (m : Cmd) : Bool :=
  m.out == 0 && (if matResource m.instr = 2 then (s.ringChain 16 n n).isNone else (s.core n).needsB m)

/-- The commands of a core's stream whose turn it is all wait, and no queue head can enter it. -/
def State.streamStuck (s : State) (n : Nat) : Bool :=
  let k := s.core n
  (k.mq.isEmpty || decide (8 ≤ k.stream.length)) && (k.stream.filterMap (SMap.find s.cmds)).all (fun m => !s.matFree n m || s.matWaits n m)

end Sys2Proof.Machine
end

