-- ==== Sys2Proof/Machine/Scalar.lean ====
section
/-! DEFINITION. The scalar, control and floating-point instructions (spec/05_scalar.md R91-R120). -/

namespace Sys2Proof.Machine

/-- The shift count of the register forms (R98). -/
def shiftCount (x : Word) : Nat := x.bits 0 6

/-- SHL by c (R98). -/
def shl64 (x : Word) (c : Nat) : Word := x <<< c
/-- SHR by c. -/
def shr64 (x : Word) (c : Nat) : Word := x >>> c
/-- SRA by c. -/
def sra64 (x : Word) (c : Nat) : Word := x.sshiftRight c
/-- ROL by c. -/
def rol64 (x : Word) (c : Nat) : Word := x.rotateLeft c
/-- ROR by c. -/
def ror64 (x : Word) (c : Nat) : Word := x.rotateRight c

/-- The high half of a 128-bit product (R101). -/
def mulHigh (a b : Int) : Word := BitVec.ofInt 64 (a * b / 2 ^ 64)

/-- DIV (R102). -/
def div64 (a b : Word) : Word :=
  if b = 0 then BitVec.allOnes 64 else BitVec.ofInt 64 (a.toInt.tdiv b.toInt)

/-- REM (R102). -/
def rem64 (a b : Word) : Word :=
  if b = 0 then a else BitVec.ofInt 64 (a.toInt - a.toInt.tdiv b.toInt * b.toInt)

/-- DIVU (R102). -/
def divu64 (a b : Word) : Word := if b = 0 then BitVec.allOnes 64 else word (a.toNat / b.toNat)

/-- REMU (R102). -/
def remu64 (a b : Word) : Word := if b = 0 then a else word (a.toNat % b.toNat)

/-- CLZ (R103). -/
def clz64 (a : Word) : Word := word (64 - bitLen a.toNat)

/-- CTZ (R103): the length of the run of clear bits from bit i up. -/
def ctzFrom : Nat → Nat → Nat
  | 0, _ => 0
  | n + 1, x => if x % 2 = 1 then 0 else 1 + ctzFrom n (x / 2)

/-- The number of set bits. -/
def popCount : Nat → Nat → Nat
  | 0, _ => 0
  | n + 1, x => x % 2 + popCount n (x / 2)

/-- BREV (R103). -/
def brev64 (a : Word) : Word := a.reverse

/-- BSWAP (R103). -/
def bswap64 (a : Word) : Word := word (ofLeBytes (leBytes 8 a.toNat).reverse)

/-- The low n bits sign-extended (R93). -/
def sextLow (n : Nat) (a : Word) : Word := (BitVec.ofNat n a.toNat).signExtend 64

/-- INSH: quarter q replaced (R107). -/
def insQuarter (x : Word) (q : Nat) (v : BitVec 16) : Word :=
  (x &&& ~~~ (word (0xFFFF * 2 ^ (16 * q)))) ||| word (v.toNat * 2 ^ (16 * q))

/-- Add (R97). -/
def execAdd (rd ra rb : GReg) (s : State) : Host.Outcome State Fault Refusal :=
  aluRRR s rd ra rb (fun a b => a + b)

/-- Sub (R97). -/
def execSub (rd ra rb : GReg) (s : State) : Host.Outcome State Fault Refusal :=
  aluRRR s rd ra rb (fun a b => a - b)

/-- Addw (R97). -/
def execAddw (rd ra rb : GReg) (s : State) : Host.Outcome State Fault Refusal :=
  aluRRR s rd ra rb (fun a b => sext32 (lo32 a + lo32 b))

/-- Subw (R97). -/
def execSubw (rd ra rb : GReg) (s : State) : Host.Outcome State Fault Refusal :=
  aluRRR s rd ra rb (fun a b => sext32 (lo32 a - lo32 b))

/-- And (R97). -/
def execAnd (rd ra rb : GReg) (s : State) : Host.Outcome State Fault Refusal :=
  aluRRR s rd ra rb (fun a b => a &&& b)

/-- Or (R97). -/
def execOr (rd ra rb : GReg) (s : State) : Host.Outcome State Fault Refusal :=
  aluRRR s rd ra rb (fun a b => a ||| b)

/-- Xor (R97). -/
def execXor (rd ra rb : GReg) (s : State) : Host.Outcome State Fault Refusal :=
  aluRRR s rd ra rb (fun a b => a ^^^ b)

/-- Andn (R97). -/
def execAndn (rd ra rb : GReg) (s : State) : Host.Outcome State Fault Refusal :=
  aluRRR s rd ra rb (fun a b => a &&& ~~~ b)

/-- Orn (R97). -/
def execOrn (rd ra rb : GReg) (s : State) : Host.Outcome State Fault Refusal :=
  aluRRR s rd ra rb (fun a b => a ||| ~~~ b)

/-- Xnor (R97). -/
def execXnor (rd ra rb : GReg) (s : State) : Host.Outcome State Fault Refusal :=
  aluRRR s rd ra rb (fun a b => ~~~ (a ^^^ b))

/-- Shl (R98). -/
def execShl (rd ra rb : GReg) (s : State) : Host.Outcome State Fault Refusal :=
  aluRRR s rd ra rb (fun a b => shl64 a (shiftCount b))

/-- Shr (R98). -/
def execShr (rd ra rb : GReg) (s : State) : Host.Outcome State Fault Refusal :=
  aluRRR s rd ra rb (fun a b => shr64 a (shiftCount b))

/-- Sra (R98). -/
def execSra (rd ra rb : GReg) (s : State) : Host.Outcome State Fault Refusal :=
  aluRRR s rd ra rb (fun a b => sra64 a (shiftCount b))

/-- Rol (R98). -/
def execRol (rd ra rb : GReg) (s : State) : Host.Outcome State Fault Refusal :=
  aluRRR s rd ra rb (fun a b => rol64 a (shiftCount b))

/-- Ror (R98). -/
def execRor (rd ra rb : GReg) (s : State) : Host.Outcome State Fault Refusal :=
  aluRRR s rd ra rb (fun a b => ror64 a (shiftCount b))

/-- Slt (R99). -/
def execSlt (rd ra rb : GReg) (s : State) : Host.Outcome State Fault Refusal :=
  aluRRR s rd ra rb (fun a b => boolWord (decide (a.toInt < b.toInt)))

/-- Sltu (R99). -/
def execSltu (rd ra rb : GReg) (s : State) : Host.Outcome State Fault Refusal :=
  aluRRR s rd ra rb (fun a b => boolWord (decide (a.toNat < b.toNat)))

/-- Seq (R99). -/
def execSeq (rd ra rb : GReg) (s : State) : Host.Outcome State Fault Refusal :=
  aluRRR s rd ra rb (fun a b => boolWord (decide (a = b)))

/-- Sne (R99). -/
def execSne (rd ra rb : GReg) (s : State) : Host.Outcome State Fault Refusal :=
  aluRRR s rd ra rb (fun a b => boolWord (decide (a ≠ b)))

/-- Min (R99). -/
def execMin (rd ra rb : GReg) (s : State) : Host.Outcome State Fault Refusal :=
  aluRRR s rd ra rb (fun a b => if a.toInt ≤ b.toInt then a else b)

/-- Max (R99). -/
def execMax (rd ra rb : GReg) (s : State) : Host.Outcome State Fault Refusal :=
  aluRRR s rd ra rb (fun a b => if b.toInt ≤ a.toInt then a else b)

/-- Minu (R99). -/
def execMinu (rd ra rb : GReg) (s : State) : Host.Outcome State Fault Refusal :=
  aluRRR s rd ra rb (fun a b => if a.toNat ≤ b.toNat then a else b)

/-- Maxu (R99). -/
def execMaxu (rd ra rb : GReg) (s : State) : Host.Outcome State Fault Refusal :=
  aluRRR s rd ra rb (fun a b => if b.toNat ≤ a.toNat then a else b)

/-- Selnz (R100). -/
def execSelnz (rd ra rb : GReg) (s : State) : Host.Outcome State Fault Refusal :=
  aluRRRd s rd ra rb (fun d a b => if d ≠ 0 then a else b)

/-- Selz (R100). -/
def execSelz (rd ra rb : GReg) (s : State) : Host.Outcome State Fault Refusal :=
  aluRRRd s rd ra rb (fun d a b => if d = 0 then a else b)

/-- Shadd1 (R97). -/
def execShadd1 (rd ra rb : GReg) (s : State) : Host.Outcome State Fault Refusal :=
  aluRRR s rd ra rb (fun a b => (a <<< 1) + b)

/-- Shadd2 (R97). -/
def execShadd2 (rd ra rb : GReg) (s : State) : Host.Outcome State Fault Refusal :=
  aluRRR s rd ra rb (fun a b => (a <<< 2) + b)

/-- Shadd3 (R97). -/
def execShadd3 (rd ra rb : GReg) (s : State) : Host.Outcome State Fault Refusal :=
  aluRRR s rd ra rb (fun a b => (a <<< 3) + b)

/-- Shadd4 (R97). -/
def execShadd4 (rd ra rb : GReg) (s : State) : Host.Outcome State Fault Refusal :=
  aluRRR s rd ra rb (fun a b => (a <<< 4) + b)

/-- Mul (R101). -/
def execMul (rd ra rb : GReg) (s : State) : Host.Outcome State Fault Refusal :=
  aluRRR s rd ra rb (fun a b => a * b)

/-- Mulh (R101). -/
def execMulh (rd ra rb : GReg) (s : State) : Host.Outcome State Fault Refusal :=
  aluRRR s rd ra rb (fun a b => mulHigh a.toInt b.toInt)

/-- Mulhu (R101). -/
def execMulhu (rd ra rb : GReg) (s : State) : Host.Outcome State Fault Refusal :=
  aluRRR s rd ra rb (fun a b => mulHigh a.toNat b.toNat)

/-- Mulw (R101). -/
def execMulw (rd ra rb : GReg) (s : State) : Host.Outcome State Fault Refusal :=
  aluRRR s rd ra rb (fun a b => sext32 (lo32 a * lo32 b))

/-- Div (R102). -/
def execDiv (rd ra rb : GReg) (la : La) (s : State) : Host.Outcome State Fault Refusal :=
  longRRR s 40 rd ra rb la (fun a b => (div64 a b, 0))

/-- Divu (R102). -/
def execDivu (rd ra rb : GReg) (la : La) (s : State) : Host.Outcome State Fault Refusal :=
  longRRR s 40 rd ra rb la (fun a b => (divu64 a b, 0))

/-- Rem (R102). -/
def execRem (rd ra rb : GReg) (la : La) (s : State) : Host.Outcome State Fault Refusal :=
  longRRR s 40 rd ra rb la (fun a b => (rem64 a b, 0))

/-- Remu (R102). -/
def execRemu (rd ra rb : GReg) (la : La) (s : State) : Host.Outcome State Fault Refusal :=
  longRRR s 40 rd ra rb la (fun a b => (remu64 a b, 0))

/-- Clz (R103). -/
def execClz (rd ra : GReg) (s : State) : Host.Outcome State Fault Refusal :=
  aluRR s rd ra (fun a => clz64 a)

/-- Ctz (R103). -/
def execCtz (rd ra : GReg) (s : State) : Host.Outcome State Fault Refusal :=
  aluRR s rd ra (fun a => word (ctzFrom 64 a.toNat))

/-- Popc (R103). -/
def execPopc (rd ra : GReg) (s : State) : Host.Outcome State Fault Refusal :=
  aluRR s rd ra (fun a => word (popCount 64 a.toNat))

/-- Brev (R103). -/
def execBrev (rd ra : GReg) (s : State) : Host.Outcome State Fault Refusal :=
  aluRR s rd ra (fun a => brev64 a)

/-- Bswap (R103). -/
def execBswap (rd ra : GReg) (s : State) : Host.Outcome State Fault Refusal :=
  aluRR s rd ra (fun a => bswap64 a)

/-- Sextb (R103). -/
def execSextb (rd ra : GReg) (s : State) : Host.Outcome State Fault Refusal :=
  aluRR s rd ra (fun a => sextLow 8 a)

/-- Sexth (R103). -/
def execSexth (rd ra : GReg) (s : State) : Host.Outcome State Fault Refusal :=
  aluRR s rd ra (fun a => sextLow 16 a)

/-- Sextw (R103). -/
def execSextw (rd ra : GReg) (s : State) : Host.Outcome State Fault Refusal :=
  aluRR s rd ra (fun a => sextLow 32 a)

/-- Zextw (R103). -/
def execZextw (rd ra : GReg) (s : State) : Host.Outcome State Fault Refusal :=
  aluRR s rd ra (fun a => zext32 (lo32 a))

/-- Addi (R105). -/
def execAddi (rd ra : GReg) (imm : BitVec 16) (s : State) : Host.Outcome State Fault Refusal :=
  aluRR s rd ra (fun a => a + imm.signExtend 64)

/-- Andi (R105). -/
def execAndi (rd ra : GReg) (imm : BitVec 16) (s : State) : Host.Outcome State Fault Refusal :=
  aluRR s rd ra (fun a => a &&& imm.zeroExtend 64)

/-- Ori (R105). -/
def execOri (rd ra : GReg) (imm : BitVec 16) (s : State) : Host.Outcome State Fault Refusal :=
  aluRR s rd ra (fun a => a ||| imm.zeroExtend 64)

/-- Xori (R105). -/
def execXori (rd ra : GReg) (imm : BitVec 16) (s : State) : Host.Outcome State Fault Refusal :=
  aluRR s rd ra (fun a => a ^^^ imm.zeroExtend 64)

/-- Slti (R105). -/
def execSlti (rd ra : GReg) (imm : BitVec 16) (s : State) : Host.Outcome State Fault Refusal :=
  aluRR s rd ra (fun a => boolWord (decide (a.toInt < imm.toInt)))

/-- Sltiu (R105). -/
def execSltiu (rd ra : GReg) (imm : BitVec 16) (s : State) : Host.Outcome State Fault Refusal :=
  aluRR s rd ra (fun a => boolWord (decide (a.toNat < (imm.signExtend 64).toNat)))

/-- Muli (R105). -/
def execMuli (rd ra : GReg) (imm : BitVec 16) (s : State) : Host.Outcome State Fault Refusal :=
  aluRR s rd ra (fun a => a * imm.signExtend 64)

/-- Shli (R106). -/
def execShli (rd ra : GReg) (c : Fin 64) (s : State) : Host.Outcome State Fault Refusal :=
  aluRR s rd ra (fun a => shl64 a c.val)

/-- Shri (R106). -/
def execShri (rd ra : GReg) (c : Fin 64) (s : State) : Host.Outcome State Fault Refusal :=
  aluRR s rd ra (fun a => shr64 a c.val)

/-- Srai (R106). -/
def execSrai (rd ra : GReg) (c : Fin 64) (s : State) : Host.Outcome State Fault Refusal :=
  aluRR s rd ra (fun a => sra64 a c.val)

/-- Rori (R106). -/
def execRori (rd ra : GReg) (c : Fin 64) (s : State) : Host.Outcome State Fault Refusal :=
  aluRR s rd ra (fun a => ror64 a c.val)

/-- Insh (R107). -/
def execInsh (rd : GReg) (q : Fin 4) (imm : BitVec 16) (s : State) : Host.Outcome State Fault Refusal :=
  aluRR s rd rd (fun a => insQuarter a q.val imm)

/-- The thread at a target block, its windows closed (R30, R38). -/
def Ctx.jumped (c : Ctx) (target : Word) : Ctx := { c with pc := target, enter := .admitted, windows := [], wait := 0 }

/-- A taken transfer to a target (R28-R31): otherwise than for a target that fails its check, which has no effect and is taken at the next position (R114), the link is written, if there is one, and the target is next. -/
def transfer (s : State) (link : Option GReg) (target : Word) : Act :=
  let t := s.cur
  let c := s.ctx t
  match s.checkTarget t.core target (admits t .admitted) with
  | .wait s => .stay s .memory .none
  | .fault code va => .jump (s.setCtx t { c with enter := .refused code va, wait := 0 })
  | .ok s _ =>
    let c := match link with | some rd => c.setG rd c.blk.next | none => c
    .jump (s.setCtx t (c.jumped target))

/-- The target of an offset in 8-byte units from the header of the block (R29). -/
def Ctx.offsetTarget (c : Ctx) (off : Int) : Word := c.blk.hdr + BitVec.ofInt 64 (8 * off)

/-- A branch (R109). -/
def branch (s : State) (ra rb : GReg) (off : BitVec 13) (taken : Word → Word → Bool) : Host.Outcome State Fault Refusal :=
  issue s (useS [ra, rb]) (fun s c =>
    if taken (c.gr ra) (c.gr rb) then transfer s none (c.offsetTarget off.toInt) else .go s)

/-- Beq (R109). -/
def execBeq (ra rb : GReg) (off : BitVec 13) (s : State) : Host.Outcome State Fault Refusal :=
  branch s ra rb off (fun a b => decide (a = b))

/-- Bne (R109). -/
def execBne (ra rb : GReg) (off : BitVec 13) (s : State) : Host.Outcome State Fault Refusal :=
  branch s ra rb off (fun a b => decide (a ≠ b))

/-- Blt (R109). -/
def execBlt (ra rb : GReg) (off : BitVec 13) (s : State) : Host.Outcome State Fault Refusal :=
  branch s ra rb off (fun a b => decide (a.toInt < b.toInt))

/-- Bge (R109). -/
def execBge (ra rb : GReg) (off : BitVec 13) (s : State) : Host.Outcome State Fault Refusal :=
  branch s ra rb off (fun a b => decide (b.toInt ≤ a.toInt))

/-- Bltu (R109). -/
def execBltu (ra rb : GReg) (off : BitVec 13) (s : State) : Host.Outcome State Fault Refusal :=
  branch s ra rb off (fun a b => decide (a.toNat < b.toNat))

/-- Bgeu (R109). -/
def execBgeu (ra rb : GReg) (off : BitVec 13) (s : State) : Host.Outcome State Fault Refusal :=
  branch s ra rb off (fun a b => decide (b.toNat ≤ a.toNat))

/-- Jal (R111). -/
def execJal (rd : GReg) (off : BitVec 21) (s : State) : Host.Outcome State Fault Refusal :=
  issue s (useD rd) (fun s c => transfer s (some rd) (c.offsetTarget off.toInt))

/-- Jalr (R112). -/
def execJalr (rd ra : GReg) (s : State) : Host.Outcome State Fault Refusal :=
  issue s (useRR rd ra) (fun s c => transfer s (some rd) (c.gr ra))

/-- Nop (R113). -/
def execNop  (s : State) : Host.Outcome State Fault Refusal :=
  issue s {} (fun s _ => .go s)

/-- Fadd (R116). -/
def execFadd (rd ra rb : GReg) (rm : Rm) (s : State) : Host.Outcome State Fault Refusal :=
  fpRRR s rd ra rb (fadd32 rm)

/-- Fsub (R116). -/
def execFsub (rd ra rb : GReg) (rm : Rm) (s : State) : Host.Outcome State Fault Refusal :=
  fpRRR s rd ra rb (fsub32 rm)

/-- Fmul (R116). -/
def execFmul (rd ra rb : GReg) (rm : Rm) (s : State) : Host.Outcome State Fault Refusal :=
  fpRRR s rd ra rb (fmul32 rm)

/-- Fmac (R116). -/
def execFmac (rd ra rb : GReg) (rm : Rm) (s : State) : Host.Outcome State Fault Refusal :=
  issue s (useRRRd rd ra rb) (fun s c =>
    let r := fma32 rm (lo32 (c.gr ra)) (lo32 (c.gr rb)) (lo32 (c.gr rd))
    .go (s.putF rd (zext32 r.1) r.2))

/-- Fdiv (R116). -/
def execFdiv (rd ra rb : GReg) (la : La) (rm : Rm) (s : State) : Host.Outcome State Fault Refusal :=
  longRRR s 30 rd ra rb la (fun a b => let r := fdiv32 rm (lo32 a) (lo32 b); (zext32 r.1, r.2))

/-- Fsqrt (R116). -/
def execFsqrt (rd ra : GReg) (la : La) (rm : Rm) (s : State) : Host.Outcome State Fault Refusal :=
  longRRR s 30 rd ra 0 la (fun a _ => let r := fsqrt32 rm (lo32 a); (zext32 r.1, r.2))

/-- Fmin (R117). -/
def execFmin (rd ra rb : GReg) (s : State) : Host.Outcome State Fault Refusal :=
  fpRRR s rd ra rb (fun a b => (fmin32 a b, 0))

/-- Fmax (R117). -/
def execFmax (rd ra rb : GReg) (s : State) : Host.Outcome State Fault Refusal :=
  fpRRR s rd ra rb (fun a b => (fmax32 a b, 0))

/-- Fabs (R117). -/
def execFabs (rd ra : GReg) (s : State) : Host.Outcome State Fault Refusal :=
  fpRR s rd ra (fun a => (zext32 (fabs32 (lo32 a)), 0))

/-- Fneg (R117). -/
def execFneg (rd ra : GReg) (s : State) : Host.Outcome State Fault Refusal :=
  fpRR s rd ra (fun a => (zext32 (fneg32 (lo32 a)), 0))

/-- Feq (R118). -/
def execFeq (rd ra rb : GReg) (s : State) : Host.Outcome State Fault Refusal :=
  fpCmp s rd ra rb (fun a b => (feq32 a b, 0))

/-- Flt (R118). -/
def execFlt (rd ra rb : GReg) (s : State) : Host.Outcome State Fault Refusal :=
  fpCmp s rd ra rb flt32

/-- Fle (R118). -/
def execFle (rd ra rb : GReg) (s : State) : Host.Outcome State Fault Refusal :=
  fpCmp s rd ra rb fle32

/-- Fclass (R119). -/
def execFclass (rd ra : GReg) (s : State) : Host.Outcome State Fault Refusal :=
  fpRR s rd ra (fun a => (word (fclass32 (lo32 a)), 0))

/-- FcvtSL (R120). -/
def execFcvtSL (rd ra : GReg) (rm : Rm) (s : State) : Host.Outcome State Fault Refusal :=
  fpRR s rd ra (fun a => let r := intToF32 rm a.toInt; (zext32 r.1, r.2))

/-- FcvtSLU (R120). -/
def execFcvtSLU (rd ra : GReg) (rm : Rm) (s : State) : Host.Outcome State Fault Refusal :=
  fpRR s rd ra (fun a => let r := intToF32 rm a.toNat; (zext32 r.1, r.2))

/-- FcvtLS (R120). -/
def execFcvtLS (rd ra : GReg) (rm : Rm) (s : State) : Host.Outcome State Fault Refusal :=
  fpRR s rd ra (fun a => let r := f32ToInt rm (-(2 ^ 63)) (2 ^ 63 - 1) (lo32 a); (BitVec.ofInt 64 r.1, r.2))

/-- FcvtLUS (R120). -/
def execFcvtLUS (rd ra : GReg) (rm : Rm) (s : State) : Host.Outcome State Fault Refusal :=
  fpRR s rd ra (fun a => let r := f32ToInt rm 0 (2 ^ 64 - 1) (lo32 a); (BitVec.ofInt 64 r.1, r.2))

/-- FcvtSH (R120). -/
def execFcvtSH (rd ra : GReg) (s : State) : Host.Outcome State Fault Refusal :=
  fpRR s rd ra (fun a => (zext32 (widen fp16 (a.bits 0 16)), 0))

/-- FcvtHS (R120). -/
def execFcvtHS (rd ra : GReg) (rm : Rm) (s : State) : Host.Outcome State Fault Refusal :=
  fpRR s rd ra (fun a => let r := narrow fp16 rm (lo32 a); (word r.1, r.2))

/-- FcvtSBF (R120). -/
def execFcvtSBF (rd ra : GReg) (s : State) : Host.Outcome State Fault Refusal :=
  fpRR s rd ra (fun a => (zext32 (widen bf16 (a.bits 0 16)), 0))

/-- FcvtBFS (R120). -/
def execFcvtBFS (rd ra : GReg) (rm : Rm) (s : State) : Host.Outcome State Fault Refusal :=
  fpRR s rd ra (fun a => let r := narrow bf16 rm (lo32 a); (word r.1, r.2))

end Sys2Proof.Machine
end

