-- ==== Sys2Proof/Machine/Vector.lean ====
section
/-! DEFINITION. The vector engine: arithmetic, compares, masks, moves, conversions, permutations, reductions, sorting (spec/08_vector.md R153-R169). -/

namespace Sys2Proof.Machine

/-! ## Queues (R153) -/

/-- The units of the vector engine. -/
def laneUnit : Nat := 0
def iterUnit : Nat := 1
def orderUnit : Nat := 2
def moveUnit : Nat := 3
/-- The lane unit's commands of 14 cycles: VEXP2 and the VRED group (R154). -/
def lane14 : Nat := 4

/-- The unit of a code. -/
def unitOf (u : Nat) : Nat := if u = lane14 then laneUnit else u

/-- Cycles from a unit to the result (R154). -/
def unitDelay (u : Nat) : Nat :=
  if u = iterUnit then 30 else if u = orderUnit then 40 else if u = moveUnit then 4 else if u = lane14 then 14 else 10

/-- Cycles between two commands that a unit accepts (R153). -/
def unitGap (u : Nat) : Nat := if u = iterUnit then 8 else if u = orderUnit then 16 else 1

/-- The vector commands that wait in a slot's queue. -/
def Core.vqOf (c : Core) (slot : Nat) : List Flight := c.vq.filter (fun f => f.slot == slot)

/-- A command placed in the issuing slot's vector queue, with its results computed from the sources read at issue (R36, R153); it waits while the queue is full. -/
def vecPlace (s : State) (unit : Nat) (u : Use) (w : Writes) : Act :=
  let t := s.cur
  let k := s.core t.core
  let slot := s.slotOf t
  if 2 ≤ (k.vqOf slot).length then .stay s .memory .hazard
  else
    let f : Flight :=
      { thr := t, slot := slot, unit := unitOf unit, delay := unitDelay unit, ready := 0, epc := (s.ctx t).pc, dest := u.dst, writes := w.flagsLater u.dst }
    let s := s.flagsNow u.dst w
    .go (s.setCore t.core { s.core t.core with vq := (s.core t.core).vq ++ [f] })

/-- A vector instruction: what it names, its unit, and its results as a function of the thread's registers. -/
def vecOp (s : State) (unit : Nat) (src dst : RegSet) (la : La) (f : Ctx → Writes) : Host.Outcome State Fault Refusal :=
  let u : Use := { src := src, dst := dst, la := some la.val }
  issue s u (fun s c => vecPlace s unit u (f c))

/-- The cycle has come, on a cycle counter that wraps: it lies no more than 64 cycles ahead only while it is still to come. -/
def State.reached (s : State) (t : Word) : Bool := decide ((t - s.time).toNat = 0) || decide (64 < (t - s.time).toNat)

/-- The head that a unit takes next (R153): of the slots whose head wants it, that of the one that follows the slot it took last. -/
def Core.wanting (c : Core) (unit : Nat) : Option Flight :=
  ((rangeFrom 1 15).map (fun i => (SMap.get 14 c.vlast unit + i) % 15)).findSome? (fun sl =>
    ((c.vqOf sl).head?).bind (fun f => if f.unit = unit then some f else none))

/-- A result of a core, of the vector engine or of a slot's own unit, is due (R154, R407, R436). -/
def State.resultDue (s : State) (n : Nat) : Bool := (s.core n).flight.any (fun f => s.reached f.ready)

/-- A unit of a core's vector engine accepts again, and a head wants it (R153). -/
def State.acceptDue (s : State) (n : Nat) : Bool :=
  (rangeFrom 0 4).any (fun u => ((s.core n).wanting u).isSome && s.reached (SMap.get 0 (s.core n).vnext u))

/-- What a core's units do in this cycle is not yet done (R153, R154, R407, R436). -/
def State.unitDue (s : State) : Bool := s.cores.any (fun p => s.resultDue p.1 || s.acceptDue p.1)

/-- VECTOR_UNIT_ACCEPT (R153): a unit that accepts again takes, of the slots whose head wants it, the one that follows the slot it took last, this cycle's position of the core having been served, so that a command issued in the cycle takes part. The entry behind a head may enter its own unit in the very cycle in which the head enters (DESIGN CHOICE, log 85). -/
def execVectorUnitAccept (s : State) : Host.Outcome State Fault Refusal :=
  let n := s.sel.a
  let unit := s.sel.b
  let c := s.core n
  match c.wanting unit with
  | none => .next s
  | some f =>
    if !s.reached (SMap.get 0 c.vnext unit) || s.turn.contains n then .next s
    else
      .next (s.setCore n
        { c with
          vq := c.vq.erase f
          flight := c.flight ++ [{ f with ready := s.time + word f.delay }]
          vlast := SMap.put 14 c.vlast unit f.slot
          vnext := SMap.put 0 c.vnext unit (s.time + word (unitGap unit)) })

/-- The registers and flags of a result written to its thread, its pending bits cleared (R37, R70). -/
def Ctx.land (c : Ctx) (f : Flight) : Ctx :=
  let c := f.writes.g.foldl (fun c p => c.setG p.1 p.2) c
  let c := f.writes.v.foldl (fun c p => c.setV p.1 p.2) c
  let c := f.writes.k.foldl (fun c p => c.setK p.1 p.2) c
  { c.orFlags f.writes.flags with pend := c.pend.minus f.dest }

/-- RESULT_WRITE (R37, R70, R154, R436): result `n` in flight of a core arrives, once it is due; the launch engine's reply to a CRD lets its thread go on (R407); where the environment says so its data is uncorrectable, and its registers stay pending, marked failed (R42), and the error is counted and logged (R425); s.vaddr is then 0, the result being no access (DESIGN CHOICE, log 57). The results of a thread that a gang's end has taken away are lost. -/
def execResultWrite (s : State) : Host.Outcome State Fault Refusal :=
  let n := s.sel.a
  let c := s.core n
  match c.flight[s.sel.b]? with
  | none => .next s
  | some f =>
    if !s.reached f.ready then .next s
    else
    let s := s.setCore n { c with flight := c.flight.eraseIdx s.sel.b }
    let x := s.ctx f.thr
    if x.st == .free || x.st == .exited then .next s
    else if f.unit = 17 then .next (s.setCtx f.thr { x.land f with busy := .none })
    else if s.sel.flag then .next ((s.logError n 0).setCtx f.thr (x.fail (some f.dest) true f.epc 0))
    else .next (s.setCtx f.thr (x.land f))

/-! ## Lanes and masks (R80, R157) -/

/-- New lanes where the mask is set, old lanes elsewhere. -/
def mergeLanes (m : Word) (old new : VWord) : VWord :=
  vOfLanes ((rangeFrom 0 64).map (fun i => if maskBit m i then VWord.lane new i else VWord.lane old i))

/-- The union of flags over the active lanes (R69, R157). -/
def laneFlags (m : Word) (l : List FFlags) : FFlags :=
  (List.zip (rangeFrom 0 64) l).foldl (fun f p => if maskBit m p.1 then f ||| p.2 else f) 0

/-- Lane results with their flags, merged into the old register. -/
def laneResult (rd : VReg) (m : Word) (old : VWord) (l : List (Lane × FFlags)) : Writes :=
  { v := [(rd.val, mergeLanes m old (vOfLanes (l.map Prod.fst)))], flags := laneFlags m (l.map Prod.snd) }

/-- A unary lane form. -/
def vecRR (s : State) (unit : Nat) (rd ra : VReg) (k : KReg) (la : La) (f : Lane → Lane × FFlags) : Host.Outcome State Fault Refusal :=
  vecOp s unit (useV (maskSrc rd k [ra]) [] [k]) (RegSet.ofV rd) la (fun c => laneResult rd (c.kr k) (c.vr rd) ((VWord.lanes (c.vr ra)).map f))

/-- A binary lane form. -/
def vecRRR (s : State) (unit : Nat) (rd ra rb : VReg) (k : KReg) (la : La) (f : Lane → Lane → Lane × FFlags) : Host.Outcome State Fault Refusal :=
  vecOp s unit (useV (maskSrc rd k [ra, rb]) [] [k]) (RegSet.ofV rd) la (fun c =>
    laneResult rd (c.kr k) (c.vr rd) (List.zipWith f (VWord.lanes (c.vr ra)) (VWord.lanes (c.vr rb))))

/-! ## Floating-point lanes (R158, R159) -/

/-- VFADD (R158). -/
def execVfadd (rd ra rb : VReg) (k : KReg) (la : La) (rm : Rm) (s : State) : Host.Outcome State Fault Refusal :=
  vecRRR s laneUnit rd ra rb k la (fadd32 rm)

/-- VFSUB (R158). -/
def execVfsub (rd ra rb : VReg) (k : KReg) (la : La) (rm : Rm) (s : State) : Host.Outcome State Fault Refusal :=
  vecRRR s laneUnit rd ra rb k la (fsub32 rm)

/-- VFMUL (R158). -/
def execVfmul (rd ra rb : VReg) (k : KReg) (la : La) (rm : Rm) (s : State) : Host.Outcome State Fault Refusal :=
  vecRRR s laneUnit rd ra rb k la (fmul32 rm)

/-- VFMA (R158): one rounding, the old vd a source in every lane. -/
def execVfma (rd ra rb : VReg) (k : KReg) (la : La) (rm : Rm) (s : State) : Host.Outcome State Fault Refusal :=
  vecOp s laneUnit (useV [rd, ra, rb] [] [k]) (RegSet.ofV rd) la (fun c =>
    laneResult rd (c.kr k) (c.vr rd) (List.zipWith (fun p d => fma32 rm p.1 p.2 d)
      (List.zip (VWord.lanes (c.vr ra)) (VWord.lanes (c.vr rb))) (VWord.lanes (c.vr rd))))

/-- VFMIN (R158). -/
def execVfmin (rd ra rb : VReg) (k : KReg) (la : La) (s : State) : Host.Outcome State Fault Refusal :=
  vecRRR s laneUnit rd ra rb k la (fun a b => (fmin32 a b, 0))

/-- VFMAX (R158). -/
def execVfmax (rd ra rb : VReg) (k : KReg) (la : La) (s : State) : Host.Outcome State Fault Refusal :=
  vecRRR s laneUnit rd ra rb k la (fun a b => (fmax32 a b, 0))

/-- VFABS (R158). -/
def execVfabs (rd ra : VReg) (k : KReg) (la : La) (s : State) : Host.Outcome State Fault Refusal :=
  vecRR s laneUnit rd ra k la (fun a => (fabs32 a, 0))

/-- VFNEG (R158). -/
def execVfneg (rd ra : VReg) (k : KReg) (la : La) (s : State) : Host.Outcome State Fault Refusal :=
  vecRR s laneUnit rd ra k la (fun a => (fneg32 a, 0))

/-- VFDIV (R158). -/
def execVfdiv (rd ra rb : VReg) (k : KReg) (la : La) (rm : Rm) (s : State) : Host.Outcome State Fault Refusal :=
  vecRRR s iterUnit rd ra rb k la (fdiv32 rm)

/-- VFSQRT (R158). -/
def execVfsqrt (rd ra : VReg) (k : KReg) (la : La) (rm : Rm) (s : State) : Host.Outcome State Fault Refusal :=
  vecRR s iterUnit rd ra k la (fsqrt32 rm)

/-- VRCP (R159). -/
def execVrcp (rd ra : VReg) (k : KReg) (la : La) (s : State) : Host.Outcome State Fault Refusal :=
  vecRR s iterUnit rd ra k la frcp32

/-- VRSQ (R159). -/
def execVrsq (rd ra : VReg) (k : KReg) (la : La) (s : State) : Host.Outcome State Fault Refusal :=
  vecRR s iterUnit rd ra k la frsq32

/-- VEXP2 (R76). -/
def execVexp2 (rd ra : VReg) (k : KReg) (la : La) (s : State) : Host.Outcome State Fault Refusal :=
  vecRR s lane14 rd ra k la exp2_32

/-! ## Integer lanes (R160) -/

/-- Element width in bits. -/
def widthBits : Width → Nat
  | .b => 8
  | .h => 16
  | .w => 32

/-- An operation applied to each element of width `w` of a lane. -/
def perElem (w : Nat) (f : Nat → Nat → Nat) (a b : Lane) : Lane :=
  BitVec.ofNat 32 ((rangeFrom 0 (32 / w)).foldl (fun x j => x + f (bits a.toNat (w * j) w) (bits b.toNat (w * j) w) % 2 ^ w * 2 ^ (w * j)) 0)

/-- An integer form over the elements of the lanes; it sets no flag. -/
def vint (s : State) (rd ra rb : VReg) (k : KReg) (la : La) (wd : Width) (f : Nat → Nat → Nat → Nat) : Host.Outcome State Fault Refusal :=
  vecRRR s laneUnit rd ra rb k la (fun a b => (perElem (widthBits wd) (f (widthBits wd)) a b, 0))

/-- The saturated sum of two integers in the signed range of width `w`. -/
def satS (w : Nat) (x : Int) : Nat := wrapInt w (satInt x (-(2 ^ (w - 1))) (2 ^ (w - 1) - 1))

/-- The saturated value in the unsigned range of width `w`. -/
def satU (w : Nat) (x : Int) : Nat := wrapInt w (satInt x 0 (2 ^ w - 1))

/-- VADD (R160). -/
def execVadd (rd ra rb : VReg) (k : KReg) (la : La) (wd : Width) (s : State) : Host.Outcome State Fault Refusal :=
  vint s rd ra rb k la wd (fun _ a b => a + b)

/-- VSUB (R160). -/
def execVsub (rd ra rb : VReg) (k : KReg) (la : La) (wd : Width) (s : State) : Host.Outcome State Fault Refusal :=
  vint s rd ra rb k la wd (fun w a b => a + 2 ^ w - b)

/-- VMUL (R160). -/
def execVmul (rd ra rb : VReg) (k : KReg) (la : La) (wd : Width) (s : State) : Host.Outcome State Fault Refusal :=
  vint s rd ra rb k la wd (fun _ a b => a * b)

/-- VMIN (R160). -/
def execVmin (rd ra rb : VReg) (k : KReg) (la : La) (wd : Width) (s : State) : Host.Outcome State Fault Refusal :=
  vint s rd ra rb k la wd (fun w a b => if signedOf w a ≤ signedOf w b then a else b)

/-- VMAX (R160). -/
def execVmax (rd ra rb : VReg) (k : KReg) (la : La) (wd : Width) (s : State) : Host.Outcome State Fault Refusal :=
  vint s rd ra rb k la wd (fun w a b => if signedOf w b ≤ signedOf w a then a else b)

/-- VMINU (R160). -/
def execVminu (rd ra rb : VReg) (k : KReg) (la : La) (wd : Width) (s : State) : Host.Outcome State Fault Refusal :=
  vint s rd ra rb k la wd (fun _ a b => Nat.min a b)

/-- VMAXU (R160). -/
def execVmaxu (rd ra rb : VReg) (k : KReg) (la : La) (wd : Width) (s : State) : Host.Outcome State Fault Refusal :=
  vint s rd ra rb k la wd (fun _ a b => Nat.max a b)

/-- VAND (R160). -/
def execVand (rd ra rb : VReg) (k : KReg) (la : La) (wd : Width) (s : State) : Host.Outcome State Fault Refusal :=
  vint s rd ra rb k la wd (fun _ a b => a &&& b)

/-- VOR (R160). -/
def execVor (rd ra rb : VReg) (k : KReg) (la : La) (wd : Width) (s : State) : Host.Outcome State Fault Refusal :=
  vint s rd ra rb k la wd (fun _ a b => a ||| b)

/-- VXOR (R160). -/
def execVxor (rd ra rb : VReg) (k : KReg) (la : La) (wd : Width) (s : State) : Host.Outcome State Fault Refusal :=
  vint s rd ra rb k la wd (fun _ a b => a ^^^ b)

/-- VSHL (R160). -/
def execVshl (rd ra rb : VReg) (k : KReg) (la : La) (wd : Width) (s : State) : Host.Outcome State Fault Refusal :=
  vint s rd ra rb k la wd (fun w a b => a * 2 ^ (b % w))

/-- VSHR (R160). -/
def execVshr (rd ra rb : VReg) (k : KReg) (la : La) (wd : Width) (s : State) : Host.Outcome State Fault Refusal :=
  vint s rd ra rb k la wd (fun w a b => a / 2 ^ (b % w))

/-- VSRA (R160). -/
def execVsra (rd ra rb : VReg) (k : KReg) (la : La) (wd : Width) (s : State) : Host.Outcome State Fault Refusal :=
  vint s rd ra rb k la wd (fun w a b => wrapInt w (signedOf w a / 2 ^ (b % w)))

/-- VADDS (R160). -/
def execVadds (rd ra rb : VReg) (k : KReg) (la : La) (wd : Width) (s : State) : Host.Outcome State Fault Refusal :=
  vint s rd ra rb k la wd (fun w a b => satS w (signedOf w a + signedOf w b))

/-- VSUBS (R160). -/
def execVsubs (rd ra rb : VReg) (k : KReg) (la : La) (wd : Width) (s : State) : Host.Outcome State Fault Refusal :=
  vint s rd ra rb k la wd (fun w a b => satS w (signedOf w a - signedOf w b))

/-- VADDUS (R160). -/
def execVaddus (rd ra rb : VReg) (k : KReg) (la : La) (wd : Width) (s : State) : Host.Outcome State Fault Refusal :=
  vint s rd ra rb k la wd (fun w a b => satU w (a + b))

/-- VSUBUS (R160). -/
def execVsubus (rd ra rb : VReg) (k : KReg) (la : La) (wd : Width) (s : State) : Host.Outcome State Fault Refusal :=
  vint s rd ra rb k la wd (fun w a b => satU w ((a : Int) - b))

/-- VABS (R160). -/
def execVabs (rd ra : VReg) (k : KReg) (la : La) (wd : Width) (s : State) : Host.Outcome State Fault Refusal :=
  vecRR s laneUnit rd ra k la (fun a => (perElem (widthBits wd) (fun x _ => (signedOf (widthBits wd) x).natAbs) a 0, 0))

/-! ## Compares, masks and moves (R161-R163) -/

/-- The truth of a comparison of two lanes, with its flags (R65, R161). -/
def cmpLane (t : CmpType) (c : Cond) (a b : Lane) : Bool × FFlags :=
  match t with
  | .f =>
    match c with
    | .eq => (feq32 a b, 0)
    | .ne => (!feq32 a b, 0)
    | .lt => flt32 a b
    | .le => fle32 a b
    | .gt => flt32 b a
    | .ge => fle32 b a
    | .unord => ((toFp a).isNan || (toFp b).isNan, 0)
  | .i => (cmpInt c a.toInt b.toInt, 0)
  | .u => (cmpInt c a.toNat b.toNat, 0)
where
  /-- The integer conditions. -/
  cmpInt (c : Cond) (x y : Int) : Bool :=
    match c with
    | .eq => decide (x = y)
    | .ne => decide (x ≠ y)
    | .lt => decide (x < y)
    | .le => decide (x ≤ y)
    | .gt => decide (y < x)
    | .ge => decide (y ≤ x)
    | .unord => false

/-- A mask from its bits, bit 0 first. -/
def maskOf : List Bool → Nat
  | [] => 0
  | b :: t => (if b then 1 else 0) + 2 * maskOf t

/-- VCMP (R161): the mask is a compare filter. -/
def execVcmp (rd : KReg) (ra rb : VReg) (k : KReg) (la : La) (t : CmpType) (q : Cond) (s : State) : Host.Outcome State Fault Refusal :=
  vecOp s laneUnit (useV [ra, rb] [] [k]) (RegSet.ofK rd) la (fun c =>
    let m := c.kr k
    let l := List.zipWith (cmpLane t q) (VWord.lanes (c.vr ra)) (VWord.lanes (c.vr rb))
    { k := [(rd.val, word (maskOf (l.map Prod.fst)) &&& m)], flags := laneFlags m (l.map Prod.snd) })

/-- A form on mask registers (R162). -/
def kop (s : State) (rd ra rb : KReg) (la : La) (f : Word → Word → Word) : Host.Outcome State Fault Refusal :=
  vecOp s moveUnit (useV [] [] [ra, rb]) (RegSet.ofK rd) la (fun c => { k := [(rd.val, f (c.kr ra) (c.kr rb))] })

/-- KAND (R162). -/
def execKand (rd ra rb : KReg) (la : La) (s : State) : Host.Outcome State Fault Refusal :=
  kop s rd ra rb la (fun a b => a &&& b)

/-- KOR (R162). -/
def execKor (rd ra rb : KReg) (la : La) (s : State) : Host.Outcome State Fault Refusal :=
  kop s rd ra rb la (fun a b => a ||| b)

/-- KXOR (R162). -/
def execKxor (rd ra rb : KReg) (la : La) (s : State) : Host.Outcome State Fault Refusal :=
  kop s rd ra rb la (fun a b => a ^^^ b)

/-- KANDN (R162). -/
def execKandn (rd ra rb : KReg) (la : La) (s : State) : Host.Outcome State Fault Refusal :=
  kop s rd ra rb la (fun a b => a &&& ~~~ b)

/-- KNOT (R162). -/
def execKnot (rd ra : KReg) (la : La) (s : State) : Host.Outcome State Fault Refusal :=
  kop s rd ra 0 la (fun a _ => ~~~ a)

/-- A register with every lane the same. -/
def splat (x : Lane) : VWord := vOfLanes (List.replicate 64 x)

/-- VBCAST (R163). -/
def execVbcast (rd : VReg) (ra : GReg) (la : La) (s : State) : Host.Outcome State Fault Refusal :=
  vecOp s moveUnit (useV [] [ra] []) (RegSet.ofV rd) la (fun c => { v := [(rd.val, splat (lo32 (c.gr ra)))] })

/-- VINS (R163). -/
def execVins (rd : VReg) (ra rb : GReg) (la : La) (s : State) : Host.Outcome State Fault Refusal :=
  vecOp s moveUnit (useV [rd] [ra, rb] []) (RegSet.ofV rd) la (fun c =>
    { v := [(rd.val, vOfLanes ((VWord.lanes (c.vr rd)).set ((c.gr rb).bits 0 6) (lo32 (c.gr ra))))] })

/-- VEXT (R163). -/
def execVext (rd : GReg) (ra : VReg) (rb : GReg) (la : La) (s : State) : Host.Outcome State Fault Refusal :=
  vecOp s moveUnit (useV [ra] [rb] []) (RegSet.ofG rd) la (fun c => { g := [(rd.val, zext32 (VWord.lane (c.vr ra) ((c.gr rb).bits 0 6)))] })

/-- KMOVGK (R163). -/
def execKmovgk (rd : KReg) (ra : GReg) (la : La) (s : State) : Host.Outcome State Fault Refusal :=
  vecOp s moveUnit (useV [] [ra] []) (RegSet.ofK rd) la (fun c => { k := [(rd.val, c.gr ra)] })

/-- KMOVKG (R163). -/
def execKmovkg (rd : GReg) (ra : KReg) (la : La) (s : State) : Host.Outcome State Fault Refusal :=
  vecOp s moveUnit (useV [] [] [ra]) (RegSet.ofG rd) la (fun c => { g := [(rd.val, c.kr ra)] })

/-- KPOPC (R163). -/
def execKpopc (rd : GReg) (ra : KReg) (la : La) (s : State) : Host.Outcome State Fault Refusal :=
  vecOp s moveUnit (useV [] [] [ra]) (RegSet.ofG rd) la (fun c => { g := [(rd.val, word (popCount 64 (c.kr ra).toNat))] })

/-! ## Conversions (R164) -/

/-- `n` elements of `w` bits of a register, from element `i` on. -/
def elems (x : VWord) (w i n : Nat) : List Nat := (rangeFrom i n).map (fun j => bits x.toNat (w * j) w)

/-- Elements of `w` bits packed, element 0 lowest. -/
def packElems (w : Nat) : List Nat → Nat
  | [] => 0
  | x :: t => x % 2 ^ w + 2 ^ w * packElems w t

/-- A register with `n` bits from bit `lo` on replaced. -/
def setPart (old : VWord) (lo n x : Nat) : VWord :=
  BitVec.ofNat 2048 (old.toNat % 2 ^ lo + 2 ^ lo * (x % 2 ^ n) + 2 ^ (lo + n) * (old.toNat / 2 ^ (lo + n)))

/-- A narrowing conversion into part `p` of vd: `w`-bit elements. -/
def cvtNarrow (rd : VReg) (old : VWord) (w p : Nat) (src : List Lane) (f : Lane → Nat × FFlags) : Writes :=
  let l := src.map f
  let n := w * src.length
  { v := [(rd.val, setPart old (n * p) n (packElems w (l.map Prod.fst)))], flags := (l.map Prod.snd).foldl (fun a b => a ||| b) 0 }

/-- A widening conversion of the `w`-bit elements of part `p` of va; `n` elements. -/
def cvtWiden (a : VWord) (w p n : Nat) (f : Nat → Lane) : List Lane := (elems a w (n * p) n).map f

/-- A saturating conversion of a lane to an integer of `w` bits (R68). -/
def toIntBits (rm : Rm) (lo hi : Int) (w : Nat) (x : Lane) : Nat × FFlags :=
  let r := f32ToInt rm lo hi x
  (wrapInt w r.1, r.2)

/-- The results of a VCVT code (R164). -/
def vcvtWrites (c : Ctx) (rd ra : VReg) (p : Nat) (m : Word) (rm : Rm) (code : Nat) : Writes :=
  let a := c.vr ra
  let old := c.vr rd
  let src := VWord.lanes a
  let two := src ++ VWord.lanes (c.vr (ra.val + 1))
  let one (l : List Lane) : Writes := { v := [(rd.val, vOfLanes l)] }
  match code with
  | 0 => cvtNarrow rd old 16 (p % 2) src (narrow bf16 rm)
  | 1 => cvtNarrow rd old 16 (p % 2) src (narrow fp16 rm)
  | 2 => cvtNarrow rd old 8 p src (narrow e4m3 rm)
  | 3 => cvtNarrow rd old 8 p src (narrow e5m2 rm)
  | 4 => cvtNarrow rd old 4 p two (narrow e2m1 rm)
  | 5 => cvtNarrow rd old 8 p src (narrowSat e4m3 rm)
  | 6 => cvtNarrow rd old 8 p src (narrowSat e5m2 rm)
  | 7 => cvtNarrow rd old 4 p two (narrowSat e2m1 rm)
  | 8 => one (cvtWiden a 16 (p % 2) 64 (widen bf16))
  | 9 => one (cvtWiden a 16 (p % 2) 64 (widen fp16))
  | 10 => one (cvtWiden a 8 p 64 (widen e4m3))
  | 11 => one (cvtWiden a 8 p 64 (widen e5m2))
  | 12 =>
    let l := cvtWiden a 4 p 128 (widen e2m1)
    { v := [(rd.val, vOfLanes (l.take 64)), (rd.val + 1, vOfLanes (l.drop 64))] }
  | 13 => laneResult rd m old (src.map (fun x => intToF32 rm x.toInt))
  | 14 => laneResult rd m old (src.map (fun x => let r := f32ToInt rm (-(2 ^ 31)) (2 ^ 31 - 1) x; (BitVec.ofInt 32 r.1, r.2)))
  | 15 => one (cvtWiden a 8 p 64 (fun x => (intToF32 .rne (signedOf 8 x)).1))
  | 16 => one (cvtWiden a 8 p 64 (fun x => (intToF32 .rne x).1))
  | 17 => cvtNarrow rd old 8 p src (toIntBits rm (-128) 127 8)
  | 18 => cvtNarrow rd old 8 p src (toIntBits rm 0 255 8)
  | _ => {}

/-- The codes with two source registers, and the one with two destinations. -/
def vcvtPairSrc (code : Nat) : Bool := code == 4 || code == 7

/-- The v registers that a code reads: a narrowing one keeps the rest of vd, and 13 and 14 have a write mask (R157, R164). -/
def vcvtSrc (rd ra : VReg) (k : KReg) (code : Nat) : List Nat :=
  let a := if vcvtPairSrc code then [ra.val, ra.val + 1] else [ra.val]
  if code < 8 || code = 17 || code = 18 then rd.val :: a else maskSrc rd k a

/-- VCVT (R164). -/
def execVcvt (rd ra : VReg) (p : Fin 4) (k : KReg) (la : La) (rm : Rm) (q : Fin 32) (s : State) : Host.Outcome State Fault Refusal :=
  let code := q.val
  vecOp s laneUnit (useV (vcvtSrc rd ra k code) [] [k])
    (useV (if code = 12 then [rd.val, rd.val + 1] else [rd.val]) [] []) la (fun c => vcvtWrites c rd ra p.val (c.kr k) rm code)

/-! ## Permutations (R165) -/

/-- The active lanes' values, lowest first. -/
def activeVals (m : Word) (x : VWord) : List Lane := (activeLanes m).map (VWord.lane x)

/-- A permutation of lanes with a write mask. -/
def permOp (s : State) (rd ra rb : VReg) (k : KReg) (la : La) (f : VWord → VWord → Nat → Lane) : Host.Outcome State Fault Refusal :=
  vecOp s laneUnit (useV (maskSrc rd k [ra, rb]) [] [k]) (RegSet.ofV rd) la (fun c =>
    { v := [(rd.val, mergeLanes (c.kr k) (c.vr rd) (vOfLanes ((rangeFrom 0 64).map (f (c.vr ra) (c.vr rb)))))] })

/-- VPERM (R165). -/
def execVperm (rd ra rb : VReg) (k : KReg) (la : La) (s : State) : Host.Outcome State Fault Refusal :=
  permOp s rd ra rb k la (fun a b i => VWord.lane a ((VWord.lane b i).toNat % 64))

/-- VSEL (R165): the mask selects, every lane is written. -/
def execVsel (rd ra rb : VReg) (k : KReg) (la : La) (s : State) : Host.Outcome State Fault Refusal :=
  vecOp s laneUnit (useV [ra, rb] [] [k]) (RegSet.ofV rd) la (fun c => { v := [(rd.val, mergeLanes (c.kr k) (c.vr rb) (c.vr ra))] })

/-- VZIP (R165). -/
def execVzip (rd ra rb : VReg) (k : KReg) (la : La) (s : State) : Host.Outcome State Fault Refusal :=
  permOp s rd ra rb k la (fun a b i => if i % 2 = 0 then VWord.lane a (i / 2) else VWord.lane b (i / 2))

/-- VUNZIP (R165). -/
def execVunzip (rd ra rb : VReg) (k : KReg) (la : La) (s : State) : Host.Outcome State Fault Refusal :=
  permOp s rd ra rb k la (fun a b i => if i < 32 then VWord.lane a (2 * i) else VWord.lane b (2 * (i - 32)))

/-- VCOMPRESS (R165). -/
def execVcompress (rd ra : VReg) (k : KReg) (la : La) (s : State) : Host.Outcome State Fault Refusal :=
  vecOp s laneUnit (useV [ra] [] [k]) (RegSet.ofV rd) la (fun c => { v := [(rd.val, vOfLanes (activeVals (c.kr k) (c.vr ra)))] })

/-- VEXPAND (R165). -/
def execVexpand (rd ra : VReg) (k : KReg) (la : La) (s : State) : Host.Outcome State Fault Refusal :=
  vecOp s laneUnit (useV [rd, ra] [] [k]) (RegSet.ofV rd) la (fun c =>
    { v := [(rd.val, vOfLanes ((rangeFrom 0 64).map (fun i => if maskBit (c.kr k) i then VWord.lane (c.vr ra) (popCount i (c.kr k).toNat) else VWord.lane (c.vr rd) i)))] })

/-! ## Reductions (R166, R73) -/

/-- The lanes of a register, those outside the mask replaced by an identity. -/
def filtered (m : Word) (x : VWord) (id : Lane) : List Lane :=
  (rangeFrom 0 64).map (fun i => if maskBit m i then VWord.lane x i else id)

/-- The FP32 sum of 64 lanes by TREE64, with the flags of its additions. -/
def treeSum (l : List Lane) : Lane × FFlags :=
  ((tree64 (fun (x y : Lane × FFlags) => let r := fadd32 .rne x.1 y.1; (r.1, x.2 ||| y.2 ||| r.2)) (l.map (fun x => (x, (0 : FFlags))))).head?).getD (0, 0)

/-- A reduction by an operator with its identity, to every lane of vd. -/
def redOp (s : State) (rd ra : VReg) (k : KReg) (la : La) (id : Lane) (op : Lane → Lane → Lane) (nan : Bool) : Host.Outcome State Fault Refusal :=
  vecOp s lane14 (useV [ra] [] [k]) (RegSet.ofV rd) la (fun c =>
    let l := filtered (c.kr k) (c.vr ra) id
    { v := [(rd.val, splat ((tree64 op l).headD 0))], flags := flagIf (nan && l.any (fun x => (toFp x).isNan)) fNV })

/-- VREDADD (R166). -/
def execVredadd (rd ra : VReg) (k : KReg) (la : La) (s : State) : Host.Outcome State Fault Refusal :=
  vecOp s lane14 (useV [ra] [] [k]) (RegSet.ofV rd) la (fun c =>
    let r := treeSum (filtered (c.kr k) (c.vr ra) 0x80000000)
    { v := [(rd.val, splat r.1)], flags := r.2 })

/-- VREDMAX (R166). -/
def execVredmax (rd ra : VReg) (k : KReg) (la : La) (s : State) : Host.Outcome State Fault Refusal :=
  redOp s rd ra k la 0xFF800000 redMax32 true

/-- VREDMIN (R166). -/
def execVredmin (rd ra : VReg) (k : KReg) (la : La) (s : State) : Host.Outcome State Fault Refusal :=
  redOp s rd ra k la 0x7F800000 redMin32 true

/-- VREDADDI (R166). -/
def execVredaddi (rd ra : VReg) (k : KReg) (la : La) (s : State) : Host.Outcome State Fault Refusal :=
  redOp s rd ra k la 0 (fun a b => a + b) false

/-- VREDMAXI (R166). -/
def execVredmaxi (rd ra : VReg) (k : KReg) (la : La) (s : State) : Host.Outcome State Fault Refusal :=
  redOp s rd ra k la 0x80000000 (fun a b => if b.toInt ≤ a.toInt then a else b) false

/-- VREDMINI (R166). -/
def execVredmini (rd ra : VReg) (k : KReg) (la : La) (s : State) : Host.Outcome State Fault Refusal :=
  redOp s rd ra k la 0x7FFFFFFF (fun a b => if a.toInt ≤ b.toInt then a else b) false

/-- VREDAND (R166). -/
def execVredand (rd ra : VReg) (k : KReg) (la : La) (s : State) : Host.Outcome State Fault Refusal :=
  redOp s rd ra k la 0xFFFFFFFF (fun a b => a &&& b) false

/-- VREDOR (R166). -/
def execVredor (rd ra : VReg) (k : KReg) (la : La) (s : State) : Host.Outcome State Fault Refusal :=
  redOp s rd ra k la 0 (fun a b => a ||| b) false

/-- VREDXOR (R166). -/
def execVredxor (rd ra : VReg) (k : KReg) (la : La) (s : State) : Host.Outcome State Fault Refusal :=
  redOp s rd ra k la 0 (fun a b => a ^^^ b) false

/-! ## Sorting and selection (R167-R169) -/

/-- A candidate of a sort: its lane, key and companion. -/
structure Cand where
  lane : Nat
  key : Lane
  comp : Lane
deriving DecidableEq, Repr

/-- `x` ranks strictly before `y` (R66, R167). -/
def Cand.before (max : Bool) (x y : Cand) : Bool :=
  if max then decide (keyOrder y.key < keyOrder x.key) else decide (keyOrder x.key < keyOrder y.key)

/-- A candidate put behind those of equal rank. -/
def Cand.ins (max : Bool) (x : Cand) : List Cand → List Cand
  | [] => [x]
  | y :: t => if x.before max y then x :: y :: t else y :: Cand.ins max x t

/-- The candidates in rank order; of equal keys the lower lane is first. -/
def rankCands (max : Bool) (l : List Cand) : List Cand := l.foldl (fun r x => Cand.ins max x r) []

/-- The candidates of the active lanes. -/
def candidates (m : Word) (keys : VWord) (comp : Nat → Lane) : List Cand :=
  (activeLanes m).map (fun i => ⟨i, VWord.lane keys i, comp i⟩)

/-- The register pair of ranked results, with the fill of R167. -/
def rankedPair (rd : VPair) (l : List Cand) : List (Nat × VWord) :=
  let n := 64 - l.length
  [(2 * rd.val, vOfLanes (l.map (fun c => if (toFp c.key).isNan then nan32 else c.key) ++ List.replicate n nan32)),
   (2 * rd.val + 1, vOfLanes (l.map Cand.comp ++ List.replicate n 0xFFFFFFFF))]

/-- The sums sel and rest of R74, with j, over vb. -/
def selectWrites (rd : VPair) (rb : VReg) (max : Bool) (k : Nat) (cs : List Cand) : Writes :=
  let sel := (rankCands max cs).take k
  let pick (l : List Cand) : List Lane :=
    (rangeFrom 0 64).map (fun i => match l.find? (fun c => c.lane == i) with | some c => c.key | none => 0x80000000)
  let a := treeSum (pick sel)
  let b := treeSum (pick (cs.filter (fun c => !sel.contains c)))
  { v := rankedPair rd sel ++ [(rb.val, vOfLanes [a.1, b.1, BitVec.ofNat 32 sel.length])], flags := a.2 ||| b.2 }

/-- The count that vb gives (R169). -/
def selectCount (x : VWord) : Nat := Nat.min (VWord.lane x 0).toNat 64

/-- VSORT (R168). `x` true is .min (R48). -/
def execVsort (rd : VPair) (ra : VReg) (k : KReg) (la : La) (x : Bool) (s : State) : Host.Outcome State Fault Refusal :=
  vecOp s orderUnit (useV [ra] [] [k]) (useV [2 * rd.val, 2 * rd.val + 1] [] []) la (fun c =>
    { v := rankedPair rd (rankCands (!x) (candidates (c.kr k) (c.vr ra) (fun i => BitVec.ofNat 32 i))) })

/-- VSELK (R169). -/
def execVselk (rd : VPair) (ra rb : VReg) (k : KReg) (la : La) (x : Bool) (s : State) : Host.Outcome State Fault Refusal :=
  vecOp s orderUnit (useV [ra, rb] [] [k]) (useV [2 * rd.val, 2 * rd.val + 1, rb.val] [] []) la (fun c =>
    selectWrites rd rb (!x) (selectCount (c.vr rb)) (candidates (c.kr k) (c.vr ra) (fun i => BitVec.ofNat 32 i)))

/-- VMERGEK (R169). -/
def execVmergek (rd ra : VPair) (rb : VReg) (k : KReg) (la : La) (x : Bool) (s : State) : Host.Outcome State Fault Refusal :=
  vecOp s orderUnit (useV [2 * ra.val, 2 * ra.val + 1, rb.val] [] [k]) (useV [2 * rd.val, 2 * rd.val + 1, rb.val] [] []) la (fun c =>
    selectWrites rd rb (!x) (selectCount (c.vr rb)) (candidates (c.kr k) (c.vr (2 * ra.val)) (VWord.lane (c.vr (2 * ra.val + 1)))))

end Sys2Proof.Machine
end

