-- ==== Sys2Proof/Machine/System.lean ====
section
/-! DEFINITION. System registers, ERET, ICINV, BRK, illegal words and trap entry (spec/07_traps.md R135-R151, 18_tables.md R398). -/

namespace Sys2Proof.Machine

/-- A system register read only in supervisor mode (R141). -/
def sysReadS (n : Nat) : Bool := decide (0x010 ≤ n ∧ n ≤ 0x01B)

/-- The value of a system register for a thread (R141, R142). -/
def State.sysReg (s : State) (t : Thr) (n : Nat) : Word :=
  let c := s.ctx t
  let k := s.core t.core
  if n = 0x000 then c.fflags.zeroExtend 64
  else if n = 0x001 then c.cause
  else if n = 0x002 then c.epc
  else if n = 0x003 then c.vaddr
  else if n = 0x004 then word c.prio
  else if n = 0x005 then word t.core
  else if n = 0x006 then word (s.slotOf t)
  else if n = 0x007 then word ((c.name.map Name.inc).getD 0)
  else if n = 0x008 then s.time
  else if n = 0x010 then boolWord k.secure
  else if n = 0x011 then word k.asid
  else if n = 0x012 then k.tvec
  else if n = 0x013 then word k.rqlimit
  else if n = 0x014 then word k.rnrbase
  else if n = 0x015 then word k.rnrlimit
  else if 0x018 ≤ n ∧ n ≤ 0x01B then SMap.get 0 k.regions (n - 0x018)
  else if 0x020 ≤ n ∧ n ≤ 0x023 then word (SMap.get 0 k.xdone (n - 0x020))
  else 0

/-- The defined bits of s.cause. -/
def causeMask : Word := 0x10FFF
/-- The defined bits of s.regionN. -/
def regionMask : Word := 0x83FFFFFFFFE00000

/-- The state after a system register is written: reserved fields are ignored (R7, R147). -/
def State.setSysReg (s : State) (t : Thr) (n : Nat) (x : Word) : State :=
  let c := s.ctx t
  let k := s.core t.core
  let core (k : Core) : State := s.setCore t.core k
  if n = 0x000 then s.setCtx t { c with fflags := BitVec.ofNat 5 x.toNat }
  else if n = 0x001 then s.setCtx t { c with cause := x &&& causeMask }
  else if n = 0x002 then s.setCtx t { c with epc := x }
  else if n = 0x003 then s.setCtx t { c with vaddr := x }
  else if n = 0x004 then s.setCtx t { c with prio := x.bits 0 7 }
  else if n = 0x010 then core { k with secure := x.bits 0 1 == 1 }
  else if n = 0x011 then core { k with asid := x.bits 0 16 }
  else if n = 0x012 then core { k with tvec := word (8 * x.bits 3 61) }
  else if n = 0x013 then core { k with rqlimit := x.bits 0 16 }
  else if n = 0x014 then core { k with rnrbase := x.bits 0 20 }
  else if n = 0x015 then core { k with rnrlimit := x.bits 0 13 }
  else if 0x018 ≤ n ∧ n ≤ 0x01B then core { k with regions := SMap.put 0 k.regions (n - 0x018) (x &&& regionMask) }
  else s

/-- SRD (R147): privileged for the registers marked S (R136); s.fflags waits for every pending bit (R70). -/
def execSrd (rd : GReg) (n : Fin 4096) (s : State) : Host.Outcome State Fault Refusal :=
  issue s { useD rd with priv := sysReadS n.val, all := n.val == 0 } (fun s _ => .go (s.putG rd (s.sysReg s.cur n.val)))

/-- SWR (R147, R136, R140): s.world cannot be written from a non-secure core. -/
def execSwr (ra : GReg) (n : Fin 4096) (s : State) : Host.Outcome State Fault Refusal :=
  issue s { useS [ra] with priv := n.val != 0 } (fun s c =>
    if n.val = 0x010 && !(s.core s.cur.core).secure then .trap cWORLD 0 0
    else .go (s.setSysReg s.cur n.val (c.gr ra)))

/-- ERET (R146, R148). -/
def execEret (s : State) : Host.Outcome State Fault Refusal :=
  issue s { priv := true, all := true } (fun s c =>
    let m := c.cause.bits 16 1 == 1
    let ok (k : Nat) : Bool := k == 0 || (m && k == 1)
    match s.returnPoint s.cur.core c.epc ok with
    | .wait s => .stay s .memory .none
    | .bad => .trap cBAD_TARGET 0 c.epc
    | .header s b => .jump (s.setCtx s.cur (c.returned c.epc b .admitted))
    | .inside s b i =>
      .jump (s.setCtx s.cur (if i < b.len then c.returned c.epc b .none else c.returned b.next b .fall)))

/-- The start of the 64-byte line of an address. -/
def lineBase (a : Word) : Word := word (a.toNat / 64 * 64)

/-- The state with a line invalidated in a cluster's instruction cache, its map bits with it (R149). -/
def State.invalLine (s : State) (cluster : Nat) (a : Word) : State :=
  { s with icache := s.icache.filter (fun l => !(l.cluster == cluster && s.leaseKey l.addr == s.leaseKey (lineBase a))) }

/-- ICINV (R149, R398): acts as FENCE.sys, then invalidates. -/
def execIcinv (ra : GReg) (s : State) : Host.Outcome State Fault Refusal :=
  issue s (useS [ra]) (fun s c =>
    checked s permR [(c.gr ra, 1)] (fun s => s.fenced true (fun s => .go (s.invalLine (clusterOf s.cur.core) (c.gr ra)))))

/-- The clusters that hold a core of a core's gang. -/
def State.gangClusters (s : State) (core : Nat) : List Nat :=
  match (s.core core).gang.bind (SMap.find s.gangs) with
  | some g => dedup (g.cores.map clusterOf)
  | none => [clusterOf core]

/-- ICINV.G (R149, R398): a command that every cluster of the gang acknowledges; its handle is pending till then. -/
def execIcinvG (rd ra : GReg) (s : State) : Host.Outcome State Fault Refusal :=
  issue s { useRR rd ra with priv := true } (fun s c =>
    checked s permR [(c.gr ra, 1)] (fun s => s.fenced true (fun s =>
      let t := s.cur
      match (s.core t.core).freeHandle with
      | none => .stay s .memory .handle
      | some h =>
        let m := { s.mkCmd (.icinvG rd ra) rd.val (c.gr ra) .begun with aux := s.gangClusters t.core }
        let r := { s with next := s.next + 1 }.giveHandle t m h
        .go (r.1.setCmd r.2))))

/-- ICINV_ACK (R398): a cluster invalidates the line and acknowledges; the last acknowledgement resolves the handle. -/
def execIcinvAck (s : State) : Host.Outcome State Fault Refusal :=
  match SMap.find s.cmds s.sel.a with
  | none => .next s
  | some m =>
    match m.instr with
    | .icinvG _ _ =>
      if !m.aux.contains s.sel.b then .next s
      else
        let s := s.invalLine s.sel.b m.ra
        let m := { m with aux := m.aux.filter (fun x => x != s.sel.b) }
        .next (if m.aux.isEmpty then s.toResolve m else s.setCmd m)
    | _ => .next s

/-- BRK (R53, R149). -/
def execBrk (n : BitVec 26) (s : State) : Host.Outcome State Fault Refusal :=
  issue s {} (fun _ _ => .trap cBRK 0 (n.zeroExtend 64))

/-- ILLEGAL_WORD (R52): an issued word that is no instruction there raises ILLEGAL with the word as datum, behind a deferred fault that is due (R151). -/
def execIllegalWord (s : State) : Host.Outcome State Fault Refusal :=
  match s.sel.inp with
  | .lane x => issue s {} (fun _ _ => .trap cILLEGAL 0 (zext32 x))
  | _ => .next s

/-- TRAP_ENTRY (R143): the trap due is entered once no result is awaited. A failed load's fault takes the place of an instruction's own; a deferred fault is entered itself (DEDUCED, log 14). -/
def execTrapEntry (s : State) : Host.Outcome State Fault Refusal :=
  let t := Thr.ctx s.sel.a s.sel.b
  let c := s.ctx t
  match c.trap with
  | none => .next s
  | some tr =>
    if c.st ≠ .bound || !c.awaited.empty then .next s
    else
      match (if tr.late then none else c.dueFault (fun f => f.dest.isSome)) with
      | some f => .next ((s.setCtx t (c.takeFail f)).enterTrap s.sel.a s.sel.b f.trap)
      | none => .next (s.enterTrap s.sel.a s.sel.b tr)

end Sys2Proof.Machine
end

