-- ==== Sys2Proof/Machine/Context.lean ====
section
/-! DEFINITION. The saved form of a context (spec/04_registers.md R88-R90), the run-queue area (spec/15_scheduler.md R301, R312), and a context's leaving its core (R317, R333, 16_migration.md R342, 18_tables.md R395). -/

namespace Sys2Proof.Machine

/-! ## The layout of R88 -/

/-- The state word at 0x0140. -/
def Ctx.stateWord (c : Ctx) : Nat :=
  c.prio + (if c.sup then 2 ^ 8 else 0) + (if c.stopped then 2 ^ 9 else 0) + 2 ^ 20 * (c.aged % 2 ^ 20)

/-- A window record. -/
def Window.record (w : Window) : Nat := w.set.g.toNat + 2 ^ 32 * w.set.v.toNat + 2 ^ 48 * w.set.k.toNat + 2 ^ 60 * w.left

/-- The windows that a context's image records, those still counting: in supervisor mode the suspended set (R144). -/
def Ctx.openWindows (c : Ctx) : List Window := ((if c.sup then c.susp else c.windows).filter (fun w => decide (0 < w.left))).take 15

/-- A context that leaves its slot or is saved: a handler's own windows close (R144). -/
def Ctx.closed (c : Ctx) : Ctx := if c.sup then { c with windows := [] } else c

/-- The 4,608 bytes of a context (R88); a bound context shows its wait word and ready stamp as 0 (R89). -/
def Ctx.image (c : Ctx) : List Byte :=
  let held := c.st != .bound
  let dws : List Nat := [c.pc.toNat] ++ (rangeFrom 1 31).map (fun r => (c.gr r).toNat) ++ (rangeFrom 1 7).map (fun r => (c.kr r).toNat)
    ++ [c.fflags.toNat, c.stateWord, c.epc.toNat, c.cause.toNat, c.vaddr.toNat, c.hpend.toNat]
    ++ ((c.openWindows.map Window.record ++ List.replicate 15 0).take 15)
    ++ [if held then c.wait.toNat else 0, if held then c.stamp.toNat else 0, 0, 0]
  dws.flatMap (leBytes 8) ++ (rangeFrom 0 16).flatMap (fun r => VWord.bytes (c.vr r))

/-- The doubleword at an offset of an image. -/
def imgDw (b : List Byte) (o : Nat) : Word := word (ofLeBytes ((b.drop o).take 8))

/-- The window records of an image. -/
def imgWindows (b : List Byte) : List Window :=
  ((rangeFrom 0 15).map (fun i =>
    let w := imgDw b (0x168 + 8 * i)
    { left := w.bits 60 4, set := { g := BitVec.ofNat 32 (w.bits 0 32), v := BitVec.ofNat 16 (w.bits 32 16), k := BitVec.ofNat 8 (w.bits 48 8) } })).filter
      (fun w => decide (0 < w.left))

/-- The check of R90 on an image: reserved fields are 0 and EVENT is none of 9-15. -/
def imgOk (b : List Byte) : Bool :=
  (imgDw b 0x138).bits 5 59 == 0
    && (imgDw b 0x140).bits 7 1 == 0 && (imgDw b 0x140).bits 10 10 == 0 && (imgDw b 0x140).bits 40 24 == 0
    && (imgDw b 0x150) &&& ~~~ causeMask == 0
    && (imgDw b 0x160).bits 32 32 == 0 && (imgDw b 0x160).bits 0 1 == 0
    && (rangeFrom 0 15).all (fun i => (imgDw b (0x168 + 8 * i)).bits 56 4 == 0)
    && (imgDw b 0x1E0).bits 22 10 == 0 && decide ((imgDw b 0x1E0).bits 0 4 < 9)
    && imgDw b 0x1F0 == 0 && imgDw b 0x1F8 == 0

/-- The state of an image read over a context: what the layout holds comes from the image, the rest from the context. A changed program counter is entered afresh (log 3), and changed windows replace the open ones, or in supervisor mode the suspended ones (R144). -/
def Ctx.fromImage (c : Ctx) (b : List Byte) : Ctx :=
  let pc := imgDw b 0
  let st := imgDw b 0x140
  let sup := st.bits 8 1 == 1
  let w := imgWindows b
  let same := sup == c.sup && w == c.openWindows
  { c with
    pc := pc
    enter := if pc = c.pc then c.enter else .restored
    g := SMap.row 0 1 ((rangeFrom 1 31).map (fun r => imgDw b (8 * r)))
    k := SMap.row 0 1 ((rangeFrom 1 7).map (fun r => imgDw b (0x100 + 8 * (r - 1))))
    v := SMap.row 0 0 ((rangeFrom 0 16).map (fun r => BitVec.ofNat 2048 (ofLeBytes ((b.drop (0x200 + 256 * r)).take 256))))
    fflags := BitVec.ofNat 5 (imgDw b 0x138).toNat
    prio := st.bits 0 7
    sup := sup
    stopped := st.bits 9 1 == 1
    aged := st.bits 20 20
    epc := imgDw b 0x148
    cause := imgDw b 0x150
    vaddr := imgDw b 0x158
    hpend := BitVec.ofNat 32 (imgDw b 0x160).toNat
    windows := if same then c.windows else if sup then [] else w
    before := if same then c.before else if sup then [] else w
    susp := if same then c.susp else if sup then w else []
    bad := {}
    wait := imgDw b 0x1E0
    stamp := imgDw b 0x1E8 }

/-! ## The run-queue area (R300, R301, R312) -/

/-- The location of entry `j` of a cluster's run-queue area. -/
def areaLoc (cluster j : Nat) : Nat := 0x1B80000 + sliceLoc cluster + 4608 * j

/-- The cores of a cluster. -/
def clusterCores (cl : Nat) : List Nat := rangeFrom (64 * cl) 64

/-- The entries of a cluster's run-queue area in use. -/
def State.areaUsed (s : State) (cl : Nat) : List Nat :=
  (clusterCores cl).flatMap (fun n => (s.core n).ctxs.filterMap (fun p => p.2.spilled))

/-- The lowest free entry of a cluster's run-queue area. -/
def State.areaFree (s : State) (cl : Nat) : Option Nat :=
  let used := s.areaUsed cl
  (rangeFrom 0 1024).find? (fun j => !used.contains j)

/-- An image written to an entry of a cluster's run-queue area, all of which is written anew and holds no uncorrectable data (R425). -/
def State.putImage (s : State) (cluster j : Nat) (b : List Byte) : State :=
  let s := s.writeLocs (areaLoc cluster j) b
  { s with poison := SMap.clearRange s.poison (areaLoc cluster j / 16) 288 }

/-- The image of a spilled context brought up to date in its entry. -/
def State.respill (s : State) (core i : Nat) : State :=
  let c := s.ctx (.ctx core i)
  match c.spilled with
  | some j => s.putImage (clusterOf core) j c.image
  | none => s

/-- A context moved to an entry of the run-queue area; its hop count is zeroed (R360). -/
def State.spillTo (s : State) (core i j : Nat) : State :=
  (s.setCtx (.ctx core i) { s.ctx (.ctx core i) with spilled := some j, hops := 0 }).respill core i

/-- The number of contexts a core's store holds (R300). -/
def storeRoom : Nat := 64

/-- The contexts that a core's store holds. -/
def Core.stored (c : Core) : Nat := (c.ctxs.filter (fun p => p.2.spilled.isNone)).length

/-- `a` is displaced before `b` (R312): WAITING before READY, then lower priority, then later stamp. -/
def goesFirst (a b : Ctx) : Bool :=
  let r (c : Ctx) : Nat := if c.st = .waiting then 0 else 1
  decide (r a < r b) || (r a == r b && (decide (a.prio < b.prio) || (a.prio == b.prio && decide (b.stamp.toNat < a.stamp.toNat))))

/-- The unbound context to displace among some, by identity; of several equal in state, priority and ready stamp the lowest context number (DESIGN CHOICE, log 59). -/
def pickVictim : List (Nat × Ctx) → Option (Nat × Ctx)
  | [] => none
  | x :: t =>
    match pickVictim t with
    | none => some x
    | some y => if goesFirst y.2 x.2 then some y else some x

/-- The lowest identity on a core that no context, entry or command bears (DESIGN CHOICE, log 40). -/
def State.freshId (s : State) (core : Nat) : Nat :=
  let used (i : Nat) : Bool := (SMap.find (s.core core).ctxs i).isSome || s.ents.any (fun e => e.src == .thr (.ctx core i))
    || s.cmds.any (fun p => p.2.core == core && p.2.ctx == i)
  ((rangeFrom 0 ((s.core core).ctxs.length + s.ents.length + s.cmds.length + 1)).find? (fun i => !used i)).getD 0

/-- A core whose EXITED context a new one makes FREE (R311, R318). -/
def State.unexited (s : State) (core : Nat) : State :=
  s.setCore core { s.core core with ctxs := (s.core core).ctxs.filter (fun (p : Nat × Ctx) => p.2.st != CtxState.exited) }

/-- The identity that the next new context of a core takes. -/
def State.arriveId (s : State) (core : Nat) : Nat := (s.unexited core).freshId core

/-- A new context on a core (R311, R312, R318): it takes a free identity, an EXITED context of the core becomes FREE, and a full store displaces one unbound context; none when the run-queue area is full too. -/
def State.arriveCtx (s : State) (core : Nat) (x : Ctx) : Option State :=
  let id := s.arriveId core
  let s := s.unexited core
  let k := s.core core
  let s := s.setCore core (k.setCtx id x)
  if k.stored < storeRoom then some s
  else
    match pickVictim ((s.core core).ctxs.filter (fun p => p.2.spilled.isNone && (p.2.st == .waiting || p.2.st == .ready))), s.areaFree (clusterOf core) with
    | some v, some j => some (s.spillTo core v.1 j)
    | _, _ => none

/-! ## Leaving (R317, R318, R342, R395) -/

/-- A context counts as live (R317). -/
def Ctx.live (c : Ctx) : Bool := c.st != .free && c.st != .exited

/-- The FAULTED entries of a context become RESOLVED unreported (R395). -/
def Core.unreported (c : Core) (i : Nat) : Core :=
  { c with handles := c.handles.map (fun (p : Nat × Handle) => if p.2.holder = i && p.2.st == .faulted then (p.1, { p.2 with st := .resolved }) else p) }

/-- The slots no context `i` holds any more. -/
def Core.unslot (c : Core) (i : Nat) (gone : Bool) : Core :=
  { c with slots := c.slots.map (fun (p : Nat × Slot) =>
      (p.1, { p.2 with ctx := if p.2.ctx = some i then none else p.2.ctx, last := if gone && p.2.last = some i then none else p.2.last })) }

/-- A context leaves its core, FREE: tiles, unread messages, handles and slot go (R172, R342, R353, R395). Its commands still pending resolve without a report. -/
def State.leave (s : State) (core i : Nat) : State :=
  let s := s.dropTiles core i
  let k := (((s.core core).orphanAll i).unreported i).unslot i true
  let s := s.setCore core { k with ctxs := SMap.del k.ctxs i }
  { s with cmds := s.cmds.map (fun (p : Nat × Cmd) => if p.2.core = core && p.2.ctx = i then (p.1, { p.2 with toG0 := true }) else p) }

/-- A context retires by TEXIT (R318, R333): FREE, or EXITED when it was the last live context of the core. -/
def State.retire (s : State) (core i : Nat) : State :=
  let s := s.leave core i
  let k := s.core core
  if k.ctxs.any (fun p => p.2.live) then s else s.setCore core (k.setCtx i { st := .exited })

end Sys2Proof.Machine
end

