-- ==== Sys2Proof/Machine/Handle.lean ====
section
/-! DEFINITION. Waking, handle resolution, the ring moves (spec/09_matrix.md R177, R179) and the HANDLE instructions (spec/18_tables.md R394-R396, 04_registers.md R82, R89, 15_scheduler.md R311). -/

namespace Sys2Proof.Machine

/-- The awaited event has come (R89, R311): a WAITING context becomes READY with a new ready stamp; a bound one goes on. -/
def State.wake (s : State) (t : Thr) : State :=
  let c := s.ctx t
  if c.st = .waiting then
    let s := s.setCtx t { c with st := .ready, stamp := s.time, aged := 0, wait := 0 }
    match t with
    | .ctx n i => s.respill n i
    | _ => s
  else s.setCtx t { c with wait := 0 }

/-- The contexts of a core, by identity. -/
def Core.ids (c : Core) : List Nat := c.ctxs.map Prod.fst

/-- A context that waits parked on a handle (R89). -/
def Ctx.waitsFor (c : Ctx) (h : Word) : Bool := c.st == .waiting && c.wait.bits 0 4 == 2 && c.gr (c.wait.bits 4 5) == h

/-- Contexts parked on a handle become READY. -/
def State.wakeHandle (s : State) (core : Nat) (h : Word) : State :=
  (s.core core).ids.foldl (fun s i => if (s.ctx (.ctx core i)).waitsFor h then s.wake (.ctx core i) else s) s

/-- Handle resolution (R395, R252, R82): without a fault the thread's bits for the handle clear, in the run-queue area too where it stands there; with one they stay, unless the handle went to g0. -/
def State.resolve (s : State) (core hidx : Nat) (toG0 : Bool) (code : Nat) (va : Word) : State :=
  let k := s.core core
  let e := k.handle hidx
  if e.st ≠ .pending then s
  else if code ≠ 0 && !toG0 then s.setCore core (k.setHandle hidx { e with st := .faulted, code := code, vaddr := va })
  else
    let s := s.setCore core (k.setHandle hidx { e with st := .resolved })
    let t := Thr.ctx core e.holder
    if (SMap.find k.ctxs e.holder).isSome then (s.setCtx t ((s.ctx t).clearHandle (handleWord core e.gen hidx))).respill core e.holder else s

/-- The matrix record of a resolution (R410). -/
def State.traceDone (s : State) (m : Cmd) : State :=
  let r := matFn m.instr
  if r.1 = 0 then s
  else
    s.trace m.core 9 0x04 r.1 m.inc m.slot m.faultCode.1 m.epc 0

/-- The form of a HANDLE instruction: it reads ra without parking and checks the handle (R395, R396). -/
def handleForm (s : State) (dst : RegSet) (ra : GReg) (f : State → Ctx → Word → Handle → Act) : Host.Outcome State Fault Refusal :=
  issue s { src := gset [ra], dst := dst, bare := true } (fun s c =>
    let h := c.gr ra
    let k := s.core s.cur.core
    if !k.handleValid s.cur.core h then .trap cHANDLE 0 h else f s c h (k.handle (h.bits 0 6)))

/-- HTEST (R396): 0 while pending, 1 when resolved; a faulted handle is reported. -/
def execHtest (rd ra : GReg) (s : State) : Host.Outcome State Fault Refusal :=
  handleForm s (gset [rd]) ra (fun s _ h e =>
    match e.st with
    | .pending => .go (s.putG rd 0)
    | .faulted => .fell (s.report s.cur h)
    | _ => .go (s.putG rd 1))

/-- HPASS (R396): the value and the handle-pending bit. -/
def execHpass (rd ra : GReg) (s : State) : Host.Outcome State Fault Refusal :=
  handleForm s (gset [rd]) ra (fun s c h _ =>
    let x := c.setG rd h
    let b := c.hpend.toNat.testBit ra.val
    .go (s.setCtx s.cur (if rd.val ≠ 0 && b then { x with hpend := x.hpend ||| bit32 rd.val } else x)))

/-- A command that HCANCEL may still remove (R177, R252, R396): it has not begun, and is neither a collective nor an ICINV.G. -/
def Cmd.cancellable (m : Cmd) : Bool :=
  match m.instr with
  | .allred .. | .allgath .. | .icinvG .. => false
  | .mlda .. | .mldb .. | .rpass .. | .mma .. | .mmab .. | .mmai .. | .msca .. | .mzero .. | .mdrain .. =>
    (m.stage == .queued || m.stage == .arrived) && m.line == 0
  | _ => m.stage == .queued

/-- The y tile of a cancelled MSCA is held again by its thread, if that is still there and no later command names the tile: a multiply that has taken it fresh keeps it (R177). -/
def State.reheld (s : State) (m : Cmd) : Core :=
  let c := s.core m.core
  match m.instr with
  | .msca _ _ u _ _ =>
    let later := (s.matrixCmds m.core).any (fun x => decide (m.id < x.id) && (tilesOf x).contains (yTile u.val))
    if SMap.find c.holders (yTile u.val) = some (m.ctx, true) ∧ (SMap.find c.ctxs m.ctx).isSome ∧ !later then c.take (yTile u.val) m.ctx else c
  | _ => c

/-- A push's channel; none for other commands. -/
def Cmd.channel (m : Cmd) : Option Nat :=
  match m.instr with
  | .xpush _ _ n => some n.val
  | .xpushr _ _ n => some n.val
  | _ => none

/-- A copy record (R410). -/
def State.traceCopy (s : State) (m : Cmd) (type code low : Nat) : State :=
  s.trace m.core 8 type (m.channel.getD 0) m.inc m.slot code m.epc (word (2 ^ 32 * m.num + low))

/-- The registers of a search that will not be written are no longer pending (R381, R383). -/
def State.freeSearch (s : State) (m : Cmd) : State :=
  let t := Thr.ctx m.core m.ctx
  if m.searchDst.empty || (SMap.find (s.core m.core).ctxs m.ctx).isNone || (s.core m.core).gang ≠ some m.gang then s
  else s.setCtx t { s.ctx t with pend := (s.ctx t).pend.minus m.searchDst }

/-- A command removed from its queue with no effect; its handle is RESOLVED. A cancelled push keeps its id until its channel passes over it (R252). -/
def State.cancel (s : State) (m : Cmd) : State :=
  let k := s.reheld m
  let rest (l : List Nat) : List Nat := l.filter (fun i => i != m.id)
  let s := s.setCore m.core { k with mq := rest k.mq, stream := rest k.stream, tq := rest k.tq }
  let s := (s.freeSearch m).resolve m.core m.hidx m.toG0 0 0
  match m.channel with
  | some _ => (s.setCmd { m with ended := true }).traceCopy m 0x02 0 0
  | none => ({ s with cmds := SMap.del s.cmds m.id }.releaseIdle m.core).traceDone m

/-- HCANCEL (R396). -/
def execHcancel (ra : GReg) (s : State) : Host.Outcome State Fault Refusal :=
  handleForm s {} ra (fun s _ h e =>
    if e.st ≠ .pending then .go s
    else
      match (s.cmds.map Prod.snd).find? (fun m => m.core == s.cur.core && m.hidx == h.bits 0 6 && m.stage != .block && !m.ended) with
      | some m => if m.cancellable then .go ((s.cancel m).wakeHandle m.core h) else .go s
      | none => .go s)

/-! ## The rings (R177, R179) -/

/-- The first command of a core's stream that waits for a ring arrival, or for the next core's bl1, is cancelled (R177). -/
def State.cancelStuck (s : State) (n : Nat) : State :=
  match ((s.core n).stream.filterMap (SMap.find s.cmds)).find? (fun m => s.matFree n m && s.matWaits n m) with
  | some m => (s.cancel m).wakeHandle n (handleWord n ((s.core n).handle m.hidx).gen m.hidx)
  | none => s

/-- The commands that an ended gang has left in a core's stream all wait, and no core of the leaf that its end has freed can go further, so that nothing comes for them any more (DEDUCED, log 29). -/
def State.ringDead (s : State) (n : Nat) : Bool :=
  (s.core n).gang.isNone && !(s.core n).stream.isEmpty && (rangeFrom (n / 16 * 16) 16).all (fun m => (s.core m).gang.isSome || s.streamStuck m)

/-- RING_MOVE (R179): the tiles of a ready chain move to the next cores, all read before any is written; what an ended gang has left waiting for the ring is cancelled, as by a pre-emption (R177) (DEDUCED, log 29). -/
def execRingMove (s : State) : Host.Outcome State Fault Refusal :=
  let n := s.sel.a
  match s.ringChain 16 n n with
  | none => .next (if s.ringDead n then s.cancelStuck n else s)
  | some l =>
    let tiles := l.map (fun k => (ringNext k, (s.core k).bl0))
    let s := l.foldl (fun s k =>
      match s.rpassAt k with
      | some m => (s.setCore k (s.core k).afterRpass).matrixDone k m
      | none => s) s
    .next (tiles.foldl (fun s p => s.setCore p.1 ({ s.core p.1 with bl1 := p.2, bl1Full := true }).swapped) s)

end Sys2Proof.Machine
end

