-- ==== Sys2Proof/Machine/Copy.lean ====
section
/-! DEFINITION. The copy engine: XPUSH, XPUSHR, XWAIT, EXPECT (spec/13_engines.md R254-R259, 19_counters.md R404-R405). -/

namespace Sys2Proof.Machine

/-! ## Descriptor fields (R255) -/

/-- WIDTH', ROWS, SSTRIDE', DSTRIDE' of a push. -/
def Cmd.width (c : Cmd) : Nat := low16 ((c.dw 0x18).bits 0 24)
def Cmd.rows (c : Cmd) : Nat := (c.dw 0x18).bits 44 20
def Cmd.sstride (c : Cmd) : Nat := low16 ((c.dw 0x10).bits 32 32)
def Cmd.dstride (c : Cmd) : Nat := low16 ((c.dw 0x10).bits 0 32)
/-- SLEN of XPUSHR. -/
def Cmd.slen (c : Cmd) : Nat := (c.dw 0x10).bits 32 32
/-- Row `r` of the source of XPUSH. -/
def Cmd.srcRow (c : Cmd) (r : Nat) : Word := clr4 (c.dw 0) + word (r * c.sstride)
/-- Row `r` of the destination. -/
def Cmd.dstRow (c : Cmd) (r : Nat) : Word := clr4 (c.dw 8) + word (r * c.dstride)

/-- The buffers of a push, in the order its entry lists them (R256, R257). -/
def pushBufs (c : Cmd) : List Buf :=
  let near := some (nearRanges c.core)
  let dst : Buf := ⟨none, true, permW, (rangeFrom 0 c.rows).map (fun r => (c.dstRow r, c.width))⟩
  match c.instr with
  | .xpushr _ _ _ =>
    [⟨near, false, permR, [(clr2 (c.dw 0x30), 4 * (c.rows + 1))]⟩, ⟨near, false, permR, [(clr4 (c.dw 0), c.slen)]⟩, dst]
  | _ => [⟨near, false, permR, (rangeFrom 0 c.rows).map (fun r => (c.srcRow r, c.width))⟩, dst]

/-- XPUSH (R256): its descriptor is read, then checked and queued at BLOCK_READ_RETURN. -/
def execXpush (rd ra : GReg) (n : Fin 4) (s : State) : Host.Outcome State Fault Refusal :=
  blockCommand s (.xpush rd ra n) (useRR rd ra) rd ra

/-- XPUSHR (R257). -/
def execXpushr (rd ra : GReg) (n : Fin 4) (s : State) : Host.Outcome State Fault Refusal :=
  blockCommand s (.xpushr rd ra n) (useRR rd ra) rd ra

/-- A push's next step: a row is read whole before it is written (R256, R257). -/
def pushPlan (c : Cmd) : Plan :=
  let w := c.width
  if w = 0 then .done
  else
    match c.instr with
    | .xpushr _ _ _ =>
      let r := c.line / 3
      if c.rows ≤ r then .done
      else if c.line % 3 = 0 then .read (readBytes (clr2 (c.dw 0x30) + word (4 * r)) 0 8) []
      else if c.line % 3 = 1 then
        match c.num' 0 4, c.num' 4 4 with
        | some a, some b =>
          let n := Nat.min w (Nat.min (b - a) (c.slen - a))
          .read (readBytes (clr4 (c.dw 0) + word a) 0 n) [n]
        | _, _ => .read [] []
      else
        match c.aux with
        | [n] =>
          let pad := leBytes 4 ((c.dw 0x38).bits 0 32)
          planWrite (c.dstRow r) (c.buf.take n ++ (rangeFrom n (w - n)).map (fun j => some (pad.getD (j % 4) 0)))
        | _ => .skip
    | _ =>
      let r := c.line / 2
      if c.rows ≤ r then .done
      else if c.line % 2 = 0 then .read (readBytes (c.srcRow r) 0 w) []
      else planWrite (c.dstRow r) c.buf

/-- s.xdone of a channel advanced past an id, waking the contexts parked in XWAIT that it satisfies (R254, R259). -/
def xwaitDone (done t : Nat) : Bool :=
  let d := (2 ^ 32 + done - t % 2 ^ 32) % 2 ^ 32
  decide (1 ≤ d ∧ d ≤ 2 ^ 31)

/-- A context parked in XWAIT on a channel whose transfer is complete. -/
def Ctx.waitsPush (c : Ctx) (ch done : Nat) : Bool :=
  c.st == .waiting && c.wait.bits 0 4 == 8 && c.wait.bits 10 2 == ch && xwaitDone done (c.wait.bits 32 32)

/-- Push `id` of a channel has completed or is passed over. -/
def State.pushDone (s : State) (core ch id : Nat) : State :=
  let d := (id + 1) % 2 ^ 32
  let k := s.core core
  let s := s.setCore core { k with xdone := SMap.put 0 k.xdone ch d }
  (s.core core).ids.foldl (fun s i => if (s.ctx (.ctx core i)).waitsPush ch d then s.wake (.ctx core i) else s) s

/-- XWAIT (R259). -/
def execXwait (ra : GReg) (n : Fin 4) (s : State) : Host.Outcome State Fault Refusal :=
  issue s (useS [ra]) (fun s c =>
    let t := (c.gr ra).bits 0 32
    if xwaitDone (SMap.get 0 (s.core s.cur.core).xdone n.val) t then .go s
    else .block s (waitWord 8 0 0 n.val 0 t) .memory .handle)

/-- COPY_CHANNEL_TAKE (R254, R252): a free channel takes the push with its next id from the head of its slot's queue, or passes over a cancelled one. -/
def execCopyChannelTake (s : State) : Host.Outcome State Fault Refusal :=
  let n := s.sel.a
  let ch := s.sel.b
  let k := s.core n
  if (SMap.find k.channels ch).isSome then .next s
  else
    let nxt := SMap.get 0 k.xdone ch
    match (k.xq.filterMap (SMap.find s.cmds)).find? (fun m => m.channel == some ch && m.num == nxt) with
    | none => .next s
    | some m =>
      let s' := s.setCore n { k with xq := k.xq.filter (fun i => i != m.id) }
      if m.ended then .next (({ s' with cmds := SMap.del s'.cmds m.id }).pushDone n ch m.num)
      else if (s.inSlot k.xq n m.slot).head? ≠ some m.id then .next s
      else
        let k' := s'.core n
        let s' := (s'.setCore n { k' with channels := SMap.ins k'.channels ch m.id }).setCmd { m with stage := .begun }
        .next (s'.traceCopy m 0x01 0 (m.rows * m.width % 2 ^ 32))

/-- EXPECT (R405): one entry to the flag word; the thread issues nothing further until the reply. -/
def execExpect (rd ra : GReg) (s : State) : Host.Outcome State Fault Refusal :=
  let u := useS [rd, ra]
  issue s u (fun s c =>
    let ga := c.gr ra
    let a := word (ga.toNat / 8 * 8)
    if a = 0 then .trap cBAD_OWNER 0 ga
    else
      match s.checkFlagAddr s.cur.core a false with
      | some (code, va) => .trap code 0 (if code = cBAD_OWNER then ga else va)
      | none =>
        let s := s.issueAccess s.cur { kind := .expect (c.gr rd).toNat, replies := true, acq := true, rel := 2 } (.expect a) (contiguous a 0 8 [])
        .jump (s.goHeld u .reply 0))

end Sys2Proof.Machine
end

