-- ==== Sys2Proof/Machine/Tray.lean ====
section
/-! DEFINITION. Tray commands: gather, scatter, reduce and subscriptions (spec/13_engines.md R260-R267). -/

namespace Sys2Proof.Machine

/-! ## The commands (R262, R263) -/

/-- TRAY.GATHER (R264). -/
def execTrayGather (rd ra : GReg) (own : Bool) (p : Fin 32) (s : State) : Host.Outcome State Fault Refusal :=
  blockCommand s (.trayGather rd ra own p) (useRR rd ra) rd ra

/-- TRAY.SCATTER (R264). -/
def execTrayScatter (rd ra : GReg) (own : Bool) (p : Fin 32) (s : State) : Host.Outcome State Fault Refusal :=
  blockCommand s (.trayScatter rd ra own p) (useRR rd ra) rd ra

/-- TRAY.REDUCE (R265). -/
def execTrayReduce (rd ra : GReg) (own : Bool) (p : Fin 32) (s : State) : Host.Outcome State Fault Refusal :=
  blockCommand s (.trayReduce rd ra own p) (useRR rd ra) rd ra

/-- TRAY.SUB (R266). -/
def execTraySub (rd ra : GReg) (own : Bool) (p : Fin 32) (s : State) : Host.Outcome State Fault Refusal :=
  blockCommand s (.traySub rd ra own p) (useRR rd ra) rd ra

/-- TRAY.UNSUB (R267). -/
def execTrayUnsub (rd ra : GReg) (own : Bool) (p : Fin 32) (s : State) : Host.Outcome State Fault Refusal :=
  blockCommand s (.trayUnsub rd ra own p) (useRR rd ra) rd ra

/-- The target pot of a tray command, and which engine it names (0 gather-scatter, 1 reduction, 4 subscription). -/
def Cmd.trayTarget (c : Cmd) : Option (Nat × Nat) :=
  let at_ (own : Bool) (p : Fin 32) (e : Nat) : Option (Nat × Nat) := some (if own then potOf c.core else p.val, e)
  match c.instr with
  | .trayGather _ _ own p => at_ own p 0
  | .trayScatter _ _ own p => at_ own p 0
  | .trayReduce _ _ own p => at_ own p 1
  | .traySub _ _ own p => at_ own p 4
  | .trayUnsub _ _ own p => at_ own p 4
  | _ => none

/-- The target pot of a tray command. -/
def Cmd.pot (c : Cmd) : Nat := (c.trayTarget.map Prod.fst).getD (potOf c.core)

/-- A tray engine is secure by the world map (R138). -/
def State.engSecure (s : State) (pot e : Nat) : Bool := SMap.get false s.mgmt.conf.engSecure (8 * pot + e)

/-- The target-pot and world checks of step 4 of R250 (R262, R139). -/
def State.trayReach (s : State) (c : Cmd) : Option (Nat × Word) :=
  match c.trayTarget with
  | none => none
  | some (p, e) =>
    if (s.partOf p).1 ≠ (s.partOf (potOf c.core)).1 then some (cBAD_OWNER, word (mkLoc ownModule (32 + p) 0))
    else if s.engSecure p e ≠ c.env.secure then some (cWORLD, 0)
    else none

/-- Element size, count and limit of a gather or scatter. -/
def Cmd.esize (c : Cmd) : Nat := 4 * 2 ^ (c.dw 0x20).bits 32 3
def Cmd.gcount (c : Cmd) : Nat := (c.dw 0x20).bits 0 32
def Cmd.limit (c : Cmd) : Nat := (c.dw 8).bits 0 45
/-- MODE of a scatter. -/
def Cmd.scatterAdds (c : Cmd) : Bool := (c.dw 0x20).bits 40 1 == 1
/-- NB, OP and COUNT of a reduction; BSTRIDE'. -/
def Cmd.nb (c : Cmd) : Nat := (c.dw 0x18).bits 32 3 + 1
def Cmd.opMax (c : Cmd) : Bool := (c.dw 0x18).bits 36 1 == 1
def Cmd.rcount (c : Cmd) : Nat := (c.dw 0x18).bits 0 32
def Cmd.bstride (c : Cmd) : Nat := low16 ((c.dw 8).bits 0 32)
/-- MODE, SID, S, SLOT', T and TSTRIDE' of a subscription. -/
def Cmd.stores (c : Cmd) : Bool := (c.dw 0x18).bits 48 1 == 1
def Cmd.sid (c : Cmd) : Nat := (c.dw 0x18).bits 40 6
def Cmd.nslots (c : Cmd) : Nat := (c.dw 0x18).bits 32 8 + 1
def Cmd.slotBytes (c : Cmd) : Nat := low16 ((c.dw 0x18).bits 0 24)
def Cmd.ntiles (c : Cmd) : Nat := (c.dw 8).bits 32 32
def Cmd.tstride (c : Cmd) : Nat := low16 ((c.dw 8).bits 0 32)

/-- The buffers of a tray command, in the order its entry lists them. -/
def trayBufs (c : Cmd) : List Buf :=
  let h := hbmRange c.pot
  match c.instr with
  | .trayGather .. =>
    [⟨some [h], false, permR, [(clr4 (c.dw 0), c.limit)]⟩, ⟨some (h :: potRanges), false, permR, [(clr2 (c.dw 0x10), 4 * c.gcount)]⟩,
     ⟨some potRanges, true, permW, [(clr4 (c.dw 0x18), c.gcount * c.esize)]⟩]
  | .trayScatter .. =>
    [⟨some [h], false, if c.scatterAdds then permRW else permW, [(clr4 (c.dw 0), c.limit)]⟩,
     ⟨some (h :: potRanges), false, permR, [(clr2 (c.dw 0x10), 4 * c.gcount)]⟩,
     ⟨some potRanges, false, permR, [(clr4 (c.dw 0x18), c.gcount * c.esize)]⟩]
  | .trayReduce .. =>
    [⟨some [h], false, permR, (rangeFrom 0 c.nb).map (fun b => (clr4 (c.dw 0) + word (b * c.bstride), 4 * c.rcount))⟩,
     ⟨some (h :: potRanges), decide (ownerOf (c.dw 0x10) < 32), permW, [(clr4 (c.dw 0x10), 4 * c.rcount)]⟩]
  | .traySub .. =>
    [⟨some potRanges, true, if c.stores then permRW else permW, [(clr4 (c.dw 0x10), c.nslots * c.slotBytes)]⟩,
     ⟨some [h], false, if c.stores then permW else permR, (rangeFrom 0 c.ntiles).map (fun t => (clr4 (c.dw 0) + word (t * c.tstride), c.slotBytes))⟩]
  | _ => []

/-! ## Gather and scatter (R264) -/

/-- The addresses of the in-range elements of a chunk and how each element stands: 0 index lost, 1 out of range, 2 in range. -/
def chunkElems (c : Cmd) (n : Nat) : List (Nat × Word) :=
  (rangeFrom 0 n).map (fun j =>
    match c.num' (4 * j) 4 with
    | none => (0, 0)
    | some x => if (x + 1) * c.esize ≤ c.limit then (2, clr4 (c.dw 0) + word (x * c.esize)) else (1, 0))

/-- Elements of chunk `k`. -/
def chunkLen (count k : Nat) : Nat := Nat.min 64 (count - 64 * k)

/-- A gather's next step: a chunk's indices, its elements, then its writes. -/
def gatherPlan (c : Cmd) : Plan :=
  let k := c.line / 3
  let e := c.esize
  let n := chunkLen c.gcount k
  if c.gcount ≤ 64 * k then .done
  else if c.line % 3 = 0 then .read (readBytes (clr2 (c.dw 0x10) + word (256 * k)) 0 (4 * n)) []
  else if c.line % 3 = 1 then
    let l := chunkElems c n
    .read ((List.zip (rangeFrom 0 n) l).flatMap (fun p => if p.2.1 = 2 then readBytes p.2.2 (e * p.1) e else [])) (l.map Prod.fst)
  else
    planWrite (clr4 (c.dw 0x18) + word (64 * k * e)) ((List.zip (rangeFrom 0 n) c.aux).flatMap (fun p =>
      if p.2 = 1 then List.replicate e (some 0) else (rangeFrom (e * p.1) e).map c.at))

/-- The bytes of element `j` of a scatter's chunk that came, at its target address; `w` bytes of a unit stand or fall together. -/
def scatterBytes (c : Cmd) (n j w : Nat) : List EByte :=
  match (chunkElems c n)[j]? with
  | some (2, a) =>
    let e := c.esize
    (rangeFrom 0 e).filterMap (fun i =>
      let ok := (rangeFrom (i / w * w) w).all (fun m => (c.at (4 * n + j * e + m)).isSome)
      if ok then (c.at (4 * n + j * e + i)).map (fun b => { va := a + word i, loc := (a + word i).toNat, idx := j * e + i, val := b }) else none)
  | _ => []

/-- A scatter's next step: a chunk's indices and elements are read, then written, the last of equal targets winning, or added in list order. -/
def scatterPlan (c : Cmd) : Plan :=
  let per := if c.scatterAdds then 65 else 2
  let k := c.line / per
  let n := chunkLen c.gcount k
  if c.gcount ≤ 64 * k then .done
  else if c.line % per = 0 then
    .read (readBytes (clr2 (c.dw 0x10) + word (256 * k)) 0 (4 * n) ++ readBytes (clr4 (c.dw 0x18) + word (64 * k * c.esize)) (4 * n) (n * c.esize)) []
  else if c.scatterAdds then
    if c.line % per - 1 < n then .add (scatterBytes c n (c.line % per - 1) 4) else .skip
  else .write (topBytes ((rangeFrom 0 n).flatMap (fun j => scatterBytes c n j 1))) []

/-! ## Reduction (R265, R75) -/

/-- The pairwise combination of eight values (R75). -/
def combine8 (op : Lane → Lane → Lane) (x : Nat → Lane) : Lane :=
  op (op (op (x 0) (x 1)) (op (x 2) (x 3))) (op (op (x 4) (x 5)) (op (x 6) (x 7)))

/-- The operator and identity of OP (R73). -/
def redOf (mx : Bool) : (Lane → Lane → Lane) × Lane :=
  if mx then (redMax32, 0xFF800000) else (fun a b => (fadd32 .rne a b).1, 0x80000000)

/-- A reduction's next step: a line of 64 elements of every buffer, then its results. -/
def reducePlan (c : Cmd) : Plan :=
  let k := c.line / 2
  let n := chunkLen c.rcount k
  if c.rcount ≤ 64 * k then .done
  else if c.line % 2 = 0 then
    .read ((rangeFrom 0 c.nb).flatMap (fun b => readBytes (clr4 (c.dw 0) + word (b * c.bstride + 256 * k)) (256 * b) (4 * n))) []
  else
    let r := redOf c.opMax
    planWrite (clr4 (c.dw 0x10) + word (256 * k)) ((rangeFrom 0 n).flatMap (fun e =>
      let xs := (rangeFrom 0 c.nb).map (fun b => c.num' (256 * b + 4 * e) 4)
      if xs.all Option.isSome then
        (leBytes 4 (combine8 r.1 (fun b => match xs[b]? with | some (some x) => BitVec.ofNat 32 x | _ => r.2)).toNat).map some
      else List.replicate 4 none))

/-! ## Subscriptions (R266, R267) -/

/-- The slot and tile of the tile in progress. -/
def Cmd.slotAt (c : Cmd) : Word := clr4 (c.dw 0x10) + word (c.num % c.nslots * c.slotBytes)
def Cmd.tileAt (c : Cmd) : Word := clr4 (c.dw 0) + word (c.num * c.tstride)

/-- One byte for each granule of a stretch. -/
def granuleBytes (a : Word) (n : Nat) : List EByte := granules (n / 16) a

/-- A subscription's next step for the tile in progress: the last granule comes after every other. -/
def subPlan (c : Cmd) : Plan :=
  let n := c.slotBytes
  if c.phase = 0 then .wait
  else if c.stores then
    if c.line = 0 then .read (readBytes c.slotAt 0 n) []
    else if c.line = 1 then planWrite c.tileAt c.buf
    else if c.line = 2 then .clear (granuleBytes c.slotAt (n - 16))
    else if c.line = 3 then .clear (granuleBytes (c.slotAt + word (n - 16)) 16)
    else .done
  else
    if c.line = 0 then .read (readBytes c.tileAt 0 n) []
    else if c.line = 1 then planWrite c.slotAt (c.buf.take (n - 16))
    else if c.line = 2 then planWrite (c.slotAt + word (n - 16)) (c.buf.drop (n - 16))
    else .done

/-- The last granule of the slot in turn is full. -/
def State.slotFull (s : State) (c : Cmd) : Bool := s.isFull (s.vloc c.core (c.slotAt + word (c.slotBytes - 16)))

/-- A subscription takes up its next tile. -/
def subTake (s : State) (store : Bool) : State :=
  match SMap.find s.cmds s.sel.a with
  | none => s
  | some c =>
    match c.instr with
    | .traySub .. =>
      if c.stage = .begun && c.phase == 0 && c.out == 0 && !c.ended && decide (c.num < c.ntiles) && decide (0 < c.slotBytes)
          && c.stores == store && s.slotFull c == store
      then s.setCmd { c with phase := 1, line := 0 } else s
    | _ => s

/-- SUBSCRIPTION_TILE_LOAD (R266, MODE 0). -/
def execSubscriptionTileLoad (s : State) : Host.Outcome State Fault Refusal := .next (subTake s false)

/-- SUBSCRIPTION_TILE_STORE (R266, MODE 1). -/
def execSubscriptionTileStore (s : State) : Host.Outcome State Fault Refusal := .next (subTake s true)

/-- A waiting subscription takes over a SID that has become free. -/
def State.nextSub (s : State) (pot sid : Nat) : State :=
  let t := s.tray pot
  match (t.subq.filterMap (SMap.find s.cmds)).find? (fun m => m.sid == sid) with
  | none => s
  | some m => (s.setTray pot { t with subq := t.subq.filter (fun i => i != m.id), subs := SMap.ins t.subs sid m.id }).setCmd { m with stage := .begun }

/-- UNSUBs that wait for a subscription's end are finished (R267). -/
def State.unsubsDone (s : State) (id : Nat) : State :=
  { s with cmds := s.cmds.map (fun (p : Nat × Cmd) =>
      match p.2.instr with
      | .trayUnsub .. => if p.2.aux = [id] && p.2.stage = .arrived then (p.1, { p.2 with stage := .finished }) else p
      | _ => p) }

/-- A subscription that its gang's pre-emption ended, as it restarts after restore: TILES is advanced by the tiles completed (R267). Its handle has resolved, so it resolves none again (DEDUCED, log 31). -/
def Cmd.restarted (c : Cmd) : Cmd :=
  { c with
    block := leBytes 8 (c.dw 0 + word (c.num * c.tstride)).toNat ++ (leBytes 8 (2 ^ 32 * (c.ntiles - c.num) + (c.dw 8).bits 0 32) ++ c.block.drop 16)
    num := 0
    line := 0
    phase := 0
    ended := false
    fresh := false
    stage := .queued
    hidx := 64
    toG0 := true }

/-- A subscription kept for its gang's restore, where pre-emption ended it (`fresh` marks that) with tiles still to come; one that has processed all of them has ended by that (R267). -/
def State.keepSub (s : State) (c : Cmd) : State :=
  match SMap.find s.gangs c.gang with
  | some g => if c.fresh && decide (c.num < c.ntiles) && decide (0 < c.slotBytes) then s.setGang c.gang { g with restart := g.restart ++ [c.restarted] } else s
  | none => s

/-- SUBSCRIPTION_END (R267): its SID is free, and STATUS leaves for its place; FLAG and the handle follow. -/
def execSubscriptionEnd (s : State) : Host.Outcome State Fault Refusal :=
  match SMap.find s.cmds s.sel.a with
  | none => .next s
  | some c =>
    match c.instr with
    | .traySub .. =>
      let waits := c.stage == .arrived && c.ended
      let isOver := c.stage == .begun && c.phase == 0 && c.out == 0 && (c.ended || decide (c.ntiles ≤ c.num) || c.slotBytes == 0)
      if !waits && !isOver then .next s
      else
        let t := s.tray c.pot
        let s := s.setTray c.pot { t with subq := t.subq.filter (fun i => i != c.id), subs := if isOver then SMap.del t.subs c.sid else t.subs }
        let s := (s.sendWord c c.pot 0x30 c.num).keepSub c
        .next (if isOver then s.nextSub c.pot c.sid else s)
    | _ => .next s

/-- TRAY_COMMAND_START (R260): the head of an engine's queue begins once the command before it is complete. -/
def execTrayCommandStart (s : State) : Host.Outcome State Fault Refusal :=
  let t := s.tray s.sel.a
  match ((if s.sel.flag then t.rdq else t.gsq).head?).bind (SMap.find s.cmds) with
  | some c => if c.stage = .arrived then .next (s.setCmd { c with stage := .begun }) else .next s
  | none => .next s

/-- The arrival of a subscription or an UNSUB at its tray (R267). -/
def State.subArrive (s : State) (c : Cmd) : State :=
  let t := s.tray c.pot
  let held := (SMap.find t.subs c.sid).bind (SMap.find s.cmds)
  match c.instr with
  | .traySub .. =>
    if held.isSome then (s.setTray c.pot { t with subq := t.subq ++ [c.id] }).setCmd { c with stage := .arrived }
    else (s.setTray c.pot { t with subs := SMap.ins t.subs c.sid c.id }).setCmd { c with stage := .begun }
  | _ =>
    match held with
    | some m => if m.gang = c.gang then (s.setCmd { m with ended := true, fresh := false }).setCmd { c with stage := .arrived, aux := [m.id] } else s.setCmd { c with stage := .finished }
    | none => s.setCmd { c with stage := .finished }

end Sys2Proof.Machine
end

