-- ==== Sys2Proof/Machine/Kettle.lean ====
section
/-! DEFINITION. Mailboxes and the kettle pair (spec/04_registers.md R84, 13_engines.md R269-R273). -/

namespace Sys2Proof.Machine

/-- A core's mailbox. -/
def Core.box (c : Core) (n : Nat) : Mailbox := SMap.get {} c.mb n

/-- A core with a mailbox replaced. -/
def Core.setBox (c : Core) (n : Nat) (m : Mailbox) : Core := { c with mb := SMap.put {} c.mb n m }

/-- The acting thread's core. -/
def State.here (s : State) : Core := s.core s.cur.core

/-- The state with the acting thread's core replaced. -/
def State.setHere (s : State) (c : Core) : State := s.setCore s.cur.core c

/-- MBW (R84): waits while the sending half is full. -/
def execMbw (ra : GReg) (n : Fin 4) (s : State) : Host.Outcome State Fault Refusal :=
  issue s (useS [ra]) (fun s c =>
    let m := s.here.box n.val
    if m.send.isSome then .stay s .message .none else .go (s.setHere (s.here.setBox n.val { m with send := some (c.gr ra) })))

/-- MBR (R84): waits while the receiving half is empty. -/
def execMbr (rd : GReg) (n : Fin 4) (s : State) : Host.Outcome State Fault Refusal :=
  issue s (useD rd) (fun s _ =>
    let m := s.here.box n.val
    match m.recv with
    | none => .stay s .message .none
    | some x => .go ((s.setHere (s.here.setBox n.val { m with recv := none })).putG rd x))

/-- The number of entries of the draw queue and of the pour queue (R248). -/
def queueRoom : Nat := 32

/-- DLD (R271): reserves the tail entry of the draw queue and sends a plain load. -/
def execDld (ra : GReg) (sz : Size) (s : State) : Host.Outcome State Fault Refusal :=
  issue s (useS [ra]) (fun s c =>
    if queueRoom ≤ s.here.drawq.length then .stay s .memory .none
    else
      let a := c.gr ra
      checked s permR [(a, szBytes sz)] (fun s =>
        let tag := s.next
        let s := { s with next := s.next + 1 }
        let s := s.setHere { s.here with drawq := s.here.drawq ++ [⟨tag, false, none, 0⟩] }
        .go (loadAt s a (szBytes sz) plainLoad (.draw tag (szBytes sz)))))

/-- DPOP (R271): takes the head entry once it is filled; a failure mark is a fatal fault (R137). -/
def execDpop (rd : GReg) (s : State) : Host.Outcome State Fault Refusal :=
  issue s (useD rd) (fun s _ =>
    match s.here.drawq with
    | [] => .stay s .memory .none
    | e :: t =>
      if !e.filled then .stay s .memory .none
      else
        match e.failed with
        | some (ecc, va) => .trap (if ecc then cECC_UNCORR else cRNR_LIMIT) 0 va
        | none => .go ((s.setHere { s.here with drawq := t }).putG rd e.val))

/-- PPUSH (R271). -/
def execPpush (ra : GReg) (s : State) : Host.Outcome State Fault Refusal :=
  issue s (useS [ra]) (fun s c =>
    if queueRoom ≤ s.here.pourq.length then .stay s .memory .none
    else .go (s.setHere { s.here with pourq := s.here.pourq ++ [c.gr ra] }))

/-- PST (R271): a plain store of the head of the pour queue. -/
def execPst (ra : GReg) (sz : Size) (s : State) : Host.Outcome State Fault Refusal :=
  issue s (useS [ra]) (fun s c =>
    match s.here.pourq with
    | [] => .stay s .memory .none
    | x :: t =>
      let a := c.gr ra
      checked s permW [(a, szBytes sz)] (fun s => .go (storeAt (s.setHere { s.here with pourq := t }) a (szBytes sz) x plainStore)))

/-- The filled entries from the head on (R272). -/
def filledHead : List DrawEntry → Nat
  | [] => 0
  | e :: t => if e.filled then 1 + filledHead t else 0

/-- QCNT (R272): `q` true counts the pour queue. -/
def execQcnt (rd : GReg) (q : Bool) (s : State) : Host.Outcome State Fault Refusal :=
  issue s (useD rd) (fun s _ =>
    let k := s.here
    let n := if q then (k.pourq.length, k.pourq.length) else (k.drawq.length, filledHead k.drawq)
    .go (s.putG rd (word (n.1 + 2 ^ 8 * n.2))))

/-- A kettle thread started by a mailbox word (R270). -/
def kettleStart (x : Word) : Ctx := { st := .bound, pc := word (8 * x.bits 3 61), enter := .start }

/-- A mailbox with a word in its sending half and room in its receiving half. -/
def Mailbox.ready (m : Mailbox) : Bool := m.send.isSome && m.recv.isNone

/-- One word moved from mailbox `n`'s sending half to its receiving half; a word for an idle kettle thread starts it instead (R270), on a core that no gang holds too, where the next dispatch makes it idle again (DESIGN CHOICE, log 74). -/
def Core.mbMove (c : Core) (n : Nat) : Core :=
  let m := c.box n
  let x := m.send.getD 0
  if n = 0 && c.draw.st == .free then { c.setBox n { m with send := none } with draw := kettleStart x }
  else if n = 1 && c.brew.st == .free then { c.setBox n { m with send := none } with brew := kettleStart x }
  else c.setBox n { send := none, recv := m.send }

/-- The mailbox of a direction that moves: the only one that qualifies, or the one that did not move last. -/
def Core.mbPick (c : Core) (base nxt : Nat) : Option Nat :=
  match (c.box base).ready, (c.box (base + 1)).ready with
  | true, true => some (nxt % 2)
  | true, false => some 0
  | false, true => some 1
  | false, false => none

/-- MAILBOX_MOVE (R84, R270): at position 15 one word moves in each direction. -/
def execMailboxMove (s : State) : Host.Outcome State Fault Refusal :=
  if s.pos ≠ 15 then .next s
  else
  let n := s.sel.a
  let c := s.core n
  let c := match c.mbPick 0 c.mbNextDown with
    | some i => { c.mbMove i with mbNextDown := 1 - i }
    | none => c
  let c := match c.mbPick 2 c.mbNextUp with
    | some i => { c.mbMove (2 + i) with mbNextUp := 1 - i }
    | none => c
  .next (s.setCore n c)

/-- ROTATION_END (R403): READYk rises, k the positions counted as issued. -/
def execRotationEnd (s : State) : Host.Outcome State Fault Refusal :=
  let n := s.sel.a
  let c := s.core n
  if c.gang.isNone then .next s else .next (s.setCore n { c.count (0x020 + c.rotIssued) with rotIssued := 0 })

end Sys2Proof.Machine
end

