-- ==== Sys2Proof/Machine/Collective.lean ====
section
/-! DEFINITION. The blend window instructions and the collectives (spec/14_fabric.md R283-R299). -/

namespace Sys2Proof.Machine

/-! ## Window instructions (R287, R288) -/

/-- WADDR (R287). -/
def execWaddr (rd ra k : GReg) (s : State) : Host.Outcome State Fault Refusal :=
  issue s { src := gset [ra, k], dst := gset [rd] } (fun s c =>
    let a := c.gr ra
    if 31 < ownerOf a ∨ a.bits 29 16 ≠ 0 then .trap cBAD_OWNER 0 a
    else .go (s.putG rd (word (2 ^ 52 * blendModule + 2 ^ 45 * ownerOf a + 2 ^ 30 * (c.gr k).bits 0 12 + a.bits 0 29))))

/-- A blend-table entry as a doubleword (R283). -/
def Blend.word (b : Blend) : Word := Sys2Proof.word ((if b.res then 2 ^ 63 else 0) + 2 ^ 12 * b.potbase + b.module)

/-- The blend-table header (R283). -/
def Core.blendHeader (c : Core) : Word := word (2 ^ 32 * c.blendSize + c.blendRank)

/-- WRES (R288): `self` reads the header. -/
def execWres (rd ra : GReg) (self : Bool) (s : State) : Host.Outcome State Fault Refusal :=
  issue s (if self then useD rd else useRR rd ra) (fun s c =>
    let k := s.here
    .go (s.putG rd (if self then k.blendHeader else if (c.gr ra).toNat < k.blendSize then (k.blendEntry (c.gr ra).toNat).word else 0)))

/-! ## Commands (R290-R293, R299) -/

/-- ALLRED (R295): `off` is the operator, 0 sum, 1 maximum, 2 minimum. -/
def execAllred (rd ra : GReg) (off : Fin 4) (s : State) : Host.Outcome State Fault Refusal :=
  blockCommand s (.allred rd ra off) (useRR rd ra) rd ra

/-- ALLGATH (R296). -/
def execAllgath (rd ra : GReg) (s : State) : Host.Outcome State Fault Refusal :=
  blockCommand s (.allgath rd ra) (useRR rd ra) rd ra

/-- SNAME, DNAME, COUNT, SCOPE and POTMASK (R292). -/
def Cmd.sname (c : Cmd) : Nat := (c.dw 0).bits 0 16
def Cmd.dname (c : Cmd) : Nat := (c.dw 0).bits 16 16
def Cmd.ccount (c : Cmd) : Nat := (c.dw 8).bits 0 32
def Cmd.wide (c : Cmd) : Bool := (c.dw 0x10).bits 32 1 == 1
def Cmd.potmask (c : Cmd) : Nat := (c.dw 0x10).bits 0 32

/-- The pots, counted from POTBASE, that a mask names. -/
def maskPots (m : Nat) : List Nat := (rangeFrom 0 32).filter (fun i => m.testBit i)

/-- The number of participants (R290). -/
def Core.participants (k : Core) (c : Cmd) : Nat := (maskPots c.potmask).length * (if c.wide then k.blendSize else 1)

/-- The index of the tray of a pot at a rank (R290). -/
def Core.partIndex (k : Core) (c : Cmd) (rank pot : Nat) : Nat :=
  let b := (k.blendEntry rank).potbase
  (if c.wide then rank * (maskPots c.potmask).length else 0) + ((maskPots c.potmask).filter (fun i => decide (b + i < pot))).length

/-- Bits of an element of a format (R49). -/
def elemBits (f : Nat) : Nat := if f = 8 ∨ f = 9 then 32 else fmtBits f

/-- Bytes of `n` elements. -/
def elemBytes (f n : Nat) : Nat := n * elemBits f / 8

/-- The name looked up under an address space (R397). -/
def Tray.lookup (t : Tray) (name asid : Nat) : Option BufName :=
  (t.names.map Prod.snd).find? (fun b => b.name == name && b.asid == asid)

/-- Two stretches share a byte. -/
def overlaps (a n b m : Nat) : Bool := decide (a < b + m) && decide (b < a + n) && decide (0 < n) && decide (0 < m)

/-- What a collective fixes at its lookup: source base, destination base, format, own index, participants. -/
structure CollInfo where
  sbase : Word
  dbase : Word
  fmt : Nat
  q : Nat
  n : Nat
deriving DecidableEq, Repr

/-- The command is an ALLGATH. -/
def Cmd.gathers (c : Cmd) : Bool := match c.instr with | .allgath .. => true | _ => false

/-- A format that an ALLRED reduces (R293). -/
def redFmt (f : Nat) : Bool := f == 9 || f == 0 || f == 8

/-- Whether the destination, at location `da`, overlaps the source, at `sa`, where it may not (R293): a gather's outside segment q, a reduction's unless they are equal. -/
def collClash (c : Cmd) (i : CollInfo) (sa da : Nat) : Bool :=
  let len := elemBytes i.fmt c.ccount
  if c.gathers then overlaps da (len * i.q) sa len || overlaps (da + len * (i.q + 1)) (len * (i.n - i.q - 1)) sa len
  else overlaps sa len da len && decide (sa ≠ da)

/-- The additions of R293 at step 4, and what the lookup fixes (DEDUCED, log 23). -/
def State.collChecks (s : State) (c : Cmd) : Except (Nat × Word) CollInfo :=
  let k := s.core c.core
  let t := s.tray (potOf c.core)
  let b := (k.blendEntry k.blendRank).potbase
  let pots := (maskPots c.potmask).map (fun i => b + i)
  let holds (p : Nat) : Bool := match (SMap.find s.gangs c.gang) with | some g => g.cores.any (fun x => potOf x == p) | none => false
  if s.engSecure (potOf c.core) 2 ≠ c.env.secure then .error (cWORLD, 0)
  else if !pots.contains (potOf c.core) || !pots.all (fun p => decide (p < 32) && holds p) then .error (cBAD_OWNER, word c.potmask)
  else
    match t.lookup c.sname c.env.asid, t.lookup c.dname c.env.asid with
    | none, _ => .error (cBAD_OWNER, word c.sname)
    | some x, none => .error (if x.secure ≠ c.env.secure then (cWORLD, word c.sname) else (cBAD_OWNER, word c.dname))
    | some x, some y =>
      let i : CollInfo := ⟨x.base, y.base, x.fmt, k.partIndex c k.blendRank (potOf c.core), k.participants c⟩
      let len := elemBytes x.fmt c.ccount
      if x.secure ≠ c.env.secure then .error (cWORLD, word c.sname)
      else if y.secure ≠ c.env.secure then .error (cWORLD, word c.dname)
      else if !c.gathers && !redFmt x.fmt then .error (cBAD_OWNER, word c.sname)
      else if y.fmt ≠ x.fmt then .error (cBAD_OWNER, word c.dname)
      else if c.gathers && elemBits x.fmt = 4 && c.ccount % 2 = 1 then .error (cBAD_OWNER, word c.sname)
      else if x.len < len then .error (cBAD_OWNER, word c.sname)
      else if y.len < (if c.gathers then i.n * len else len) then .error (cBAD_OWNER, word c.dname)
      else if collClash c i (s.leaseKey i.sbase) (s.leaseKey i.dbase) then .error (cBAD_OWNER, word c.dname)
      else
        match (if c.wide then (rangeFrom 0 k.blendSize).find? (fun r => !(k.blendEntry r).res) else none) with
        | some r => .error (cPEER_GONE, word r)
        | none => .ok i

/-- The buffers that step 6 checks. -/
def collBufs (c : Cmd) (i : CollInfo) : List Buf :=
  let len := elemBytes i.fmt c.ccount
  [⟨none, false, permR, [(i.sbase, len)]⟩, ⟨none, decide (ownerOf i.dbase < 32), permW, [(i.dbase, if c.gathers then i.n * len else len)]⟩]

/-- What the lookup fixed, kept with the command. -/
def CollInfo.words (i : CollInfo) : List Word := [i.sbase, i.dbase, word i.fmt, word i.q, word i.n]

/-- The lookup's result of an issued command. -/
def Cmd.info (c : Cmd) : CollInfo :=
  ⟨c.data.getD 0 0, c.data.getD 1 0, (c.data.getD 2 0).toNat, (c.data.getD 3 0).toNat, (c.data.getD 4 0).toNat⟩

/-! ## Joining (R294) -/

/-- The key of a (SCOPE, POTMASK) pair at a tray. -/
def Cmd.pair (c : Cmd) : Nat := c.potmask + if c.wide then 2 ^ 32 else 0

/-- Where the ranks of a core's blend stand. -/
def Core.ranks (c : Core) : List (Nat × Nat × Nat) := c.blend.map (fun (p : Nat × Blend) => (p.1, p.2.potbase, p.2.module))

/-- Two commands take part in one collective: the same pair and number, and the same blend for scope 1 or gang for scope 0. -/
def State.sameColl (s : State) (a b : Cmd) : Bool :=
  b.isColl && a.pair == b.pair && a.num == b.num && (b.stage == .arrived || b.stage == .begun)
    && (if a.wide then (s.core a.core).ranks == (s.core b.core).ranks else a.gang == b.gang)

/-- The commands of this module that take part with `c`. -/
def State.collMates (s : State) (c : Cmd) : List Cmd := (s.cmds.map Prod.snd).filter (s.sameColl c)

/-- The header of a command that differs makes a mismatch (R294 step 3): operator, format and COUNT. -/
def Cmd.header (c : Cmd) : Nat × Nat × Nat :=
  (match c.instr with | .allred _ _ o => o.val | _ => 3, c.info.fmt, c.ccount)

/-- COLL_JOIN (R294): the command joins its tray's list while it has room; once every participant has joined, the collective is accepted. Participants of other modules come with the move. -/
def execCollJoin (s : State) : Host.Outcome State Fault Refusal :=
  match SMap.find s.cmds s.sel.a with
  | none => .next s
  | some c =>
    if !c.isColl then .next s
    else
      let pot := potOf c.core
      let t := s.tray pot
      if c.stage = .queued then
        let k := s.core c.core
        if k.tq.head? = some c.id && decide (t.join.length < 16) then
          -- A command that a pre-emption withdrew has its number (R298).
          let n := if c.fresh then c.num else SMap.get 0 t.seq c.pair
          let s := s.setCore c.core { k with tq := k.tq.tail }
          let s := s.setTray pot { t with join := t.join ++ [c.id], seq := if c.fresh then t.seq else SMap.put 0 t.seq c.pair (n + 1) }
          .next (s.setCmd { c with stage := .arrived, num := n, fresh := false })
        else .next s
      else if c.stage = .arrived then
        let mates := s.collMates c
        let far := match s.sel.inp with | .peers l => l | _ => []
        let qs := mates.map (fun m => m.info.q) ++ far.map PeerData.q
        if (rangeFrom 0 c.info.n).all (fun q => qs.contains q) then
          let bad := mates.any (fun m => m.header != c.header) || far.any PeerData.differs
          let s := mates.foldl (fun s m =>
            let t := s.tray (potOf m.core)
            (s.setTray (potOf m.core) { t with join := t.join.filter (fun i => i != m.id) }).setCmd
              { m with stage := .begun, phase := if bad then 3 else 0, line := 0, peers := far }) s
          .next s
        else .next s
      else .next s

/-! ## Results (R295, R296) -/

/-- The operator on FP32 or INT32 values (R295). -/
def collOp (fmt op : Nat) (a b : Lane) : Lane :=
  if fmt = 8 then
    if op = 0 then a + b else if op = 1 then (if b.toInt ≤ a.toInt then a else b) else (if a.toInt ≤ b.toInt then a else b)
  else if op = 0 then (fadd32 .rne a b).1 else if op = 1 then redMax32 a b else redMin32 a b

/-- Element `e` of a participant's source as a 32-bit value; none where a byte is poisoned. -/
def srcElem (fmt : Nat) (x : List (Option Byte)) (e : Nat) : Option Lane :=
  let n := elemBits fmt / 8
  let l := (x.drop (e * n)).take n
  if l.all Option.isSome then
    let v := ofLeBytes (l.map (fun o => o.getD 0))
    some (if fmt = 0 then widen bf16 v else BitVec.ofNat 32 v)
  else none

/-- The chunk of element `e` (R295). -/
def chunkOf (n count e : Nat) : Nat := ((rangeFrom 0 n).filter (fun c => decide (c * count / n ≤ e))).foldl (fun _ c => c) 0

/-- The reduction of element `e` over the participants, in the order of R295. -/
def reduceElem (fmt op n count : Nat) (x : Nat → List (Option Byte)) (e : Nat) : Option Lane :=
  let c := chunkOf n count e
  (rangeFrom 2 (n - 1)).foldl (fun acc t =>
    match acc, srcElem fmt (x ((c + t) % n)) e with
    | some a, some b => some (collOp fmt op a b)
    | _, _ => none) (srcElem fmt (x ((c + 1) % n)) e)

/-- An FP32 result, the canonical NaN for any NaN (R57), the one operand of a lone participant too (DEDUCED, log 23). -/
def canon32 (x : Lane) : Lane :=
  match toFp x with
  | .nan => nan32
  | _ => x

/-- Elements of `n` bytes, each of which is missing as a whole where a byte of it is (R298). -/
def wholeElems (n : Nat) (l : List (Option Byte)) : List (Option Byte) :=
  (rangeFrom 0 l.length).map (fun i => if ((l.drop (i / n * n)).take n).all Option.isSome then (l[i]?).join else none)

/-- The destination bytes of a command whose participants' sources are all read. -/
def collResult (c : Cmd) : List (Option Byte) :=
  let i := c.info
  let x (q : Nat) : List (Option Byte) := match c.peers.find? (fun p => p.q == q) with | some p => p.data | none => []
  match c.instr with
  | .allred _ _ o =>
    (rangeFrom 0 c.ccount).flatMap (fun e =>
      let n := elemBits i.fmt / 8
      match reduceElem i.fmt o.val i.n c.ccount x e with
      | some r => (leBytes n (if i.fmt = 0 then (narrow bf16 .rne r).1 else if i.fmt = 9 then (canon32 r).toNat else r.toNat)).map some
      | none => List.replicate n none)
  | _ => (rangeFrom 0 i.n).flatMap (fun q => wholeElems (Nat.max 1 (elemBits i.fmt / 8)) ((x q).take (elemBytes i.fmt c.ccount)))

/-- The link of the samovar port through which a participant passes to the next one, when that is in another module (R289, R290): links 37-44. -/
def State.samovarLink (s : State) (c : Cmd) : Option Nat :=
  let k := s.core c.core
  let m := (maskPots c.potmask).length
  if !c.wide || m = 0 || c.info.n = 0 then none
  else
    let q := (c.info.q + 1) % c.info.n
    let b := k.blendEntry (q / m)
    if b.module = (k.blendEntry k.blendRank).module then none
    else some (37 + Config.samovarRoute (potOf c.core) b.module (b.potbase + (maskPots c.potmask).getD (q % m) 0) % 8)

/-- Every source of the collective is read: each of its commands has its own bytes, and no samovar link that it needs is retraining (R279, R289). -/
def State.collRead (s : State) (c : Cmd) : Bool :=
  (s.collMates c).all (fun m => m.phase == 0 && m.line == 1 && m.out == 0
    && ((s.samovarLink m).map (fun n => !(SMap.get ({} : Link) s.links n).retraining)).getD true)

/-- No collective of the same pair that came before this one at its tray is unfinished (R294). -/
def State.collTurn (s : State) (c : Cmd) : Bool :=
  !s.cmds.any (fun p => p.2.isColl && potOf p.2.core == potOf c.core && p.2.pair == c.pair && decide (p.2.num < c.num)
    && (p.2.stage == .arrived || p.2.stage == .begun || p.2.stage == .finished || p.2.stage == .flagging))

/-- A piece of a collective has failed: it ends at every participant (R298). -/
def State.collLost (s : State) (c : Cmd) (va : Word) : State :=
  (s.collMates c).foldl (fun s m => s.setCmd { m with ended := true, code := cRNR_LIMIT, vaddr := va }) s

/-- A piece on the samovar has failed, which has no address: the datum is a free value (log 44). -/
def State.collBroken (s : State) (c : Cmd) : State := ({ s with frees := s.frees + 1 } : State).collLost c (word (Config.freeNat s.frees))

/-- The sources of every participant handed to every command of the collective (R297), over the samovar links between the modules (R289); a piece removed ends it for all (R298). -/
def State.collShare (s : State) (c : Cmd) : State :=
  let mates := s.collMates c
  let own := mates.map (fun m => ({ q := m.info.q, differs := false, data := m.buf } : PeerData))
  match mates.findSome? (fun m => m.rnr) with
  | some va => s.collLost c va
  | none =>
    let s := (mates.filterMap s.samovarLink).foldl State.linkPassed s
    mates.foldl (fun s m => s.setCmd { m with phase := 1, line := 0, ecc := none, peers := own ++ m.peers }) s

/-- A collective's next step at its participant. -/
def collPlan (c : Cmd) : Plan :=
  if c.ended then .done
  else if c.phase = 3 then .done
  else if c.phase = 0 then
    if c.line = 0 then .read (readBytes c.info.sbase 0 (elemBytes c.info.fmt c.ccount)) [] else .wait
  else if c.line = 0 then planWrite c.info.dbase (collResult c)
  else .done

/-- A write of a participant that was removed ends the collective at the others (R298). -/
def State.collSpread (s : State) (c : Cmd) : State :=
  match c.rnr with
  | some va => (s.collMates c).foldl (fun s m => if m.id = c.id then s else s.setCmd { m with ended := true, code := cRNR_LIMIT, vaddr := va }) s
  | none => s

/-- A collective of a gang can go no further: it is joined and a participant is missing, or it cannot leave its queue because commands of its own gang fill the join list (R294). -/
def State.collStuck (s : State) (c : Cmd) : Bool :=
  match c.stage with
  | .queued =>
    let l := (s.tray (potOf c.core)).join
    decide (16 ≤ l.length) && l.any (fun i => ((SMap.find s.cmds i).map Cmd.gang) == some c.gang)
  | .arrived => !c.ended && !(rangeFrom 0 c.info.n).all (fun q => (s.collMates c).any (fun m => m.info.q == q))
  | _ => false

/-- The gang of the command has ended, and none of its collectives can go further: no participant of theirs is still to join (DEDUCED, log 29). -/
def State.collOrphan (s : State) (c : Cmd) : Bool :=
  ((SMap.find s.gangs c.gang).map Gang.st).getD .ended == .ended && s.cmds.all (fun p => p.2.gang != c.gang || !p.2.isColl || s.collStuck p.2)

/-- A joined command leaves its join list and ends with TEARDOWN (R298). -/
def State.collTorn (s : State) (c : Cmd) (module : Nat) : State :=
  let t := s.tray (potOf c.core)
  (s.setTray (potOf c.core) { t with join := t.join.filter (fun i => i != c.id) }).setCmd { c with ended := true, code := cTEARDOWN, vaddr := word module }

/-- COLL_COMPLETE (R297, R298): with `flag` the news that a piece of the collective is gone elsewhere on the samovar; else its end, behind those that came before it on its pair (R294): STATUS leaves for its place; FLAG and the handle follow. A joined command of a gang that has ended, whose participants can join no more, ends as one that a discarded peer ends (R253, R298) (DEDUCED, log 29). -/
def execCollComplete (s : State) : Host.Outcome State Fault Refusal :=
  match SMap.find s.cmds s.sel.a with
  | none => .next s
  | some c =>
    if c.isColl && c.stage == .arrived && s.collStuck c && s.collOrphan c then .next (s.collTorn c s.mgmt.conf.fabric)
    else if !c.isColl || decide (0 < c.out) || !(c.stage == .begun || (c.stage == .arrived && c.ended)) then .next s
    else if s.sel.flag && c.wide && c.stage == .begun then .next (s.collBroken c)
    else if collPlan c ≠ .done || (!c.ended && !s.collTurn c) then .next s
    else
      let s := s.collSpread c
      let c := match missingAt c.info.dbase (if c.phase = 1 && !c.ended then collResult c else []), (s.collMates c).findSome? (fun m => m.rnr) with
        | va :: _, _ => { c with ecc := some va }
        | [], some va => { c with rnr := some va }
        | [], none => c
      .next (s.sendWord c (potOf c.core) 0x30 (2 ^ 32 * c.info.n + if c.phase = 3 then 1 else 0))

/-- The scope-1 collectives of a gang end because a peer is gone (R298). -/
def State.teardown (s : State) (gid module : Nat) : State :=
  ((s.cmds.map Prod.snd).filter (fun c => c.gang == gid && c.isColl && c.wide && (c.stage == .arrived || c.stage == .begun))).foldl
    (fun s c => s.collTorn c module) s

end Sys2Proof.Machine
end

