-- ==== Sys2Proof/Machine/Caddy.lean ====
section
/-! DEFINITION. The caddy proximity index (spec/17_caddy.md R362-R383). -/

namespace Sys2Proof.Machine

/-! ## Descriptors (R362, R364) -/

/-- A descriptor, as its doublewords. -/
abbrev Desc := List Word

/-- Doubleword `i` of a descriptor. -/
def dword (d : Desc) (i : Nat) : Word := d.getD i 0

/-- The fields of R362. -/
def descV (d : Desc) : Bool := (dword d 0).bits 63 1 == 1
def descSecure (d : Desc) : Bool := (dword d 0).bits 62 1 == 1
def descFmt (d : Desc) : Nat := (dword d 0).bits 58 4
def descInner (d : Desc) : Bool := (dword d 0).bits 57 1 == 1
def descDim (d : Desc) : Nat := (dword d 0).bits 46 11
def descDeg (d : Desc) : Nat := (dword d 0).bits 39 7
def descLb (d : Desc) : Nat := (dword d 0).bits 30 9
def descShards (d : Desc) : Nat := (dword d 0).bits 24 6
def descBasepot (d : Desc) : Nat := (dword d 0).bits 19 5
def descAsid (d : Desc) : Nat := (dword d 0).bits 0 16
def descNpages (d : Desc) : Nat := (dword d 1).bits 48 16
def descStore (d : Desc) : Nat := 2 ^ 21 * (dword d 1).bits 21 24

/-- Bytes of an element, and of a vector. -/
def descElem (d : Desc) : Nat := if descFmt d = 0 then 2 else 1
def descVec (d : Desc) : Nat := descDim d * descElem d

/-- The most nodes a shard holds (R364). -/
def descCapacity (d : Desc) : Nat :=
  2097152 * descNpages d / (64 * ceilDiv (descVec d + 4 * descDeg d + 16) 64 + 16)

/-- The descriptor of a caddy of a core's partition. -/
def State.caddyDesc (s : State) (core c : Nat) : Desc := SMap.get [] (s.part (s.partOf (potOf core)).1).caddies c

/-- The pot of shard `n` of a caddy of a partition. -/
def shardPot (part : Nat) (d : Desc) (n : Nat) : Nat := part + descBasepot d + n

/-! ## The instructions (R378-R383) -/

/-- STVEC (R380). -/
def execStvec (rd ra : GReg) (c : Fin 64) (s : State) : Host.Outcome State Fault Refusal :=
  blockCommand s (.stvec rd ra c) (useRR rd ra) rd ra

/-- LDNEAR (R381): vd and vd+1 become pending at issue; it opens no window. -/
def execLdnear (rd ra : GReg) (v : VPair) (c : Fin 64) (s : State) : Host.Outcome State Fault Refusal :=
  blockCommand s (.ldnear rd ra v c) { useRR rd ra with dst := (gset [rd]).union (useV [2 * v.val, 2 * v.val + 1] [] []) } rd ra

/-- IXDEL (R382). -/
def execIxdel (rd ra : GReg) (c : Fin 64) (s : State) : Host.Outcome State Fault Refusal :=
  blockCommand s (.ixdel rd ra c) (useRR rd ra) rd ra

/-- IXSNAP (R383). -/
def execIxsnap (rd ra : GReg) (v : VReg) (c : Fin 64) (s : State) : Host.Outcome State Fault Refusal :=
  blockCommand s (.ixsnap rd ra v c) { useRR rd ra with dst := (gset [rd]).union (RegSet.ofV v) } rd ra

/-- The caddy number of a command. -/
def Cmd.caddy (c : Cmd) : Option Nat :=
  match c.instr with
  | .stvec _ _ n => some n.val
  | .ldnear _ _ _ n => some n.val
  | .ixdel _ _ n => some n.val
  | .ixsnap _ _ _ n => some n.val
  | _ => none

/-- The command reads a vector. -/
def Cmd.hasVector (c : Cmd) : Bool := match c.instr with | .stvec .. => true | .ldnear .. => true | _ => false

/-- The identifier of an insert or deletion. -/
def Cmd.ident (c : Cmd) : Nat := (c.dw 8).bits 0 32
/-- K and L of a query, k and W (R381). -/
def Cmd.kq (c : Cmd) : Nat := Nat.min ((c.dw 8).bits 0 7) 64
def Cmd.wq (c : Cmd) : Nat := Nat.max 1 (Nat.min ((c.dw 8).bits 16 9) 256)

/-- The checks of step 4 of R250 for a caddy command (R379). -/
def State.caddyChecks (s : State) (c : Cmd) (n : Nat) : Option (Nat × Word) :=
  let d := s.caddyDesc c.core n
  if !descV d || descAsid d ≠ c.env.asid then some (cBAD_OWNER, word n)
  else if descSecure d ≠ c.env.secure || s.engSecure (potOf c.core) 3 ≠ c.env.secure then some (cWORLD, 0)
  else none

/-- The buffer of a caddy command: its vector. -/
def caddyBufs (c : Cmd) (d : Desc) : List Buf :=
  if c.hasVector then [⟨some (hbmRange (potOf c.core) :: potRanges), false, permR, [(clr4 (c.dw 0), descVec d)]⟩] else []

/-! ## Distances (R366, R367) -/

/-- Element `k` of a vector as an exact value. -/
def vecElem (d : Desc) (v : List Byte) (k : Nat) : Fp :=
  let e := descElem d
  let x := ofLeBytes ((v.drop (k * e)).take e)
  if descFmt d = 0 then bf16.decode x
  else if descFmt d = 2 then e4m3.decode x
  else
    let i := signedOf 8 x
    .num (decide (i < 0)) i.natAbs 0

/-- The exact square of a difference. -/
def diffSq (a b : Fp) : Fp :=
  let t := (a.add .rne b.negate).1
  (t.mul t).1

/-- The distance of two vectors of a caddy (R366). -/
def dist (d : Desc) (a b : List Byte) : Lane :=
  let ks := rangeFrom 0 (descDim d)
  if descInner d then fneg32 (doteo (ks.map (fun k => ((vecElem d a k).mul (vecElem d b k)).1)))
  else if descFmt d = 5 then
    BitVec.ofInt 32 (ks.foldl (fun acc k =>
      let x := signedOf 8 (a.getD k 0).toNat - signedOf 8 (b.getD k 0).toNat
      acc + x * x) 0)
  else doteo (ks.map (fun k => diffSq (vecElem d a k) (vecElem d b k)))

/-- A distance's place in its order: signed for INT32, total key order for FP32 (R367). -/
def distKey (d : Desc) (x : Lane) : Nat :=
  if descFmt d = 5 && !descInner d then (x.toInt + 2 ^ 31).toNat else keyOrder x

/-- An entry of a pool or result: distance and identifier. -/
abbrev Near := Lane × Nat

/-- ORD (R367). -/
def ordLt (d : Desc) (a b : Near) : Bool :=
  decide (distKey d a.1 < distKey d b.1) || (distKey d a.1 == distKey d b.1 && decide (a.2 < b.2))

/-- An entry placed in ORD order. -/
def ordIns (d : Desc) (x : Near) : List Near → List Near
  | [] => [x]
  | y :: t => if ordLt d x y then x :: y :: t else y :: ordIns d x t

/-! ## Search and insert (R368, R369) -/

/-- A node of a shard. -/
def Shard.node (h : Shard) (n : Nat) : Node := SMap.get ⟨[], false, []⟩ h.nodes n

/-- A node is live (R368). -/
def Shard.live (h : Shard) (n : Nat) : Bool := !(h.node n).dead

/-- The pool without the entries that have `w` live entries before them. -/
def prunePool (h : Shard) (w : Nat) : Nat → List Near → List Near
  | _, [] => []
  | k, x :: t => if w ≤ k then [] else x :: prunePool h w (if h.live x.2 then k + 1 else k) t

/-- The state of a search: pool, visited, expanded, evaluations. -/
structure Search where
  pool : List Near
  visited : List Nat
  expanded : List Nat
  evals : Nat
deriving DecidableEq, Repr

/-- VISIT (R368). -/
def visit (d : Desc) (h : Shard) (q : List Byte) (w : Nat) (r : Search) (n : Nat) : Search :=
  { r with visited := n :: r.visited, evals := r.evals + 1
           pool := prunePool h w 0 (ordIns d (dist d q (h.node n).vec, n) r.pool) }

/-- The expansions of SEARCH, at most one for each node. -/
def expand (d : Desc) (h : Shard) (q : List Byte) (w : Nat) : Nat → Search → Search
  | 0, r => r
  | fuel + 1, r =>
    match r.pool.find? (fun x => !r.expanded.contains x.2) with
    | none => r
    | some c =>
      let r := { r with expanded := c.2 :: r.expanded }
      expand d h q w fuel ((h.node c.2).edges.foldl (fun r e => if r.visited.contains e.1 then r else visit d h q w r e.1) r)

/-- SEARCH (R368). -/
def search (d : Desc) (h : Shard) (q : List Byte) (w : Nat) : Search :=
  match h.entry with
  | none => ⟨[], [], [], 0⟩
  | some e => expand d h q w (h.nodes.length + 1) (visit d h q w ⟨[], [], [], 0⟩ e)

/-- ANCH (R368). -/
def Node.anchors (n : Node) : Nat := (n.edges.filter (fun e => e.2)).length

/-- The distances of a node's edges. -/
def edgeDist (d : Desc) (h : Shard) (c : Nat) (e : Nat × Bool) : Near := (dist d (h.node c).vec (h.node e.1).vec, e.1)

/-- An edge placed in ORD order of its distance from node `c`. -/
def edgeIns (d : Desc) (h : Shard) (c : Nat) (x : Nat × Bool) : List (Nat × Bool) → List (Nat × Bool)
  | [] => [x]
  | y :: t => if ordLt d (edgeDist d h c x) (edgeDist d h c y) then x :: y :: t else y :: edgeIns d h c x t

/-- A list without its last ordinary edge. -/
def dropOrdinary (l : List (Nat × Bool)) : List (Nat × Bool) :=
  match (l.reverse.find? (fun e => !e.2)) with
  | some x => l.erase x
  | none => l

/-- The new node's edge added to the list of `c` (R369). -/
def Shard.link (h : Shard) (d : Desc) (x a c : Nat) : Shard :=
  let n := h.node c
  let l := edgeIns d h c (x, decide (c = a)) n.edges
  { h with nodes := SMap.ins h.nodes c { n with edges := if descDeg d < l.length then dropOrdinary l else l } }

/-- INSERT (R369), with its evaluations. -/
def Shard.insert (h : Shard) (d : Desc) (x : Nat) (v : List Byte) : Shard × Nat :=
  match h.entry with
  | none => ({ h with nodes := SMap.ins h.nodes x { vec := v }, entry := some x, last := x, stamp := h.stamp + 1 }, 0)
  | some _ =>
    let r := search d h v (descLb d)
    let ns := ((r.pool.filter (fun e => h.live e.2)).take (descDeg d)).map Prod.snd
    let a := match r.pool.find? (fun e => decide ((h.node e.2).anchors < descDeg d)) with
      | some e => e.2
      | none => h.last
    let h1 := { h with nodes := SMap.ins h.nodes x { vec := v, edges := ns.map (fun n => (n, false)) } }
    let h2 := (if ns.contains a then ns else ns ++ [a]).foldl (fun h c => h.link d x a c) h1
    ({ h2 with last := x, stamp := h.stamp + 1 }, r.evals)

/-! ## Commands at home and at a shard (R372, R373) -/

/-- The vector's bytes, read at the home tray. -/
def Cmd.vector (c : Cmd) : List Byte := c.buf.map (fun b => b.getD 0)

/-- The shards that a command goes to (R372). -/
def Cmd.shards (c : Cmd) : List Nat :=
  match c.instr with
  | .stvec .. => [c.ident % descShards c.data]
  | .ixdel .. => [c.ident % descShards c.data]
  | .ldnear .. => rangeFrom 0 (descShards c.data)
  | .ixsnap .. => rangeFrom 0 (descShards c.data)
  | _ => []

/-- The home tray's reading of a vector. -/
def caddyPlan (c : Cmd) : Plan :=
  if c.phase = 1 && c.line = 0 then .read (readBytes (clr4 (c.dw 0)) 0 (descVec c.data)) [] else .wait

/-- A command on its way over the samovar from its home tray to each of its shards (R372). -/
def State.forward (s : State) (c : Cmd) : State :=
  let pot := potOf c.core
  let part := (s.partOf pot).1
  let t := s.tray pot
  s.setTray pot { t with fwd := t.fwd ++ c.shards.map (fun n => (c.id, shardPot part c.data n, c.caddy.getD 0)) }

/-- The next command of a home tray for a shard arrives in the shard's queue: commands between the two keep their order (R289, R372), those to different shards do not (R375). -/
def State.reachShard (s : State) (home pot cn : Nat) : State :=
  let t := s.tray home
  match t.fwd.find? (fun x => x.2 == (pot, cn)) with
  | none => s
  | some x =>
    let s := s.setTray home { t with fwd := t.fwd.erase x }
    let u := s.tray pot
    let h := SMap.get {} u.shards cn
    s.setTray pot { u with shards := SMap.put {} u.shards cn { h with queue := h.queue ++ [x.1] } }

/-- No older command of the same core is still to be forwarded by the home tray (R372). -/
def State.homeFirst (s : State) (t : Tray) (c : Cmd) : Bool :=
  t.home.contains c.id && (t.home.takeWhile (fun i => i != c.id)).all (fun i => ((SMap.find s.cmds i).map Cmd.core) != some c.core)

/-- CADDY_HOME_ARRIVAL (R372, R377): a core's oldest command at its home tray that is still to be forwarded has its vector read, and goes to its shards; a vector that failed goes to none. -/
def execCaddyHomeArrival (s : State) : Host.Outcome State Fault Refusal :=
  match SMap.find s.cmds s.sel.a with
  | none => .next s
  | some c =>
    let pot := potOf c.core
    let t := s.tray pot
    if !s.homeFirst t c then .next s
    else if c.stage = .arrived then
      if c.hasVector then .next (s.setCmd { c with stage := .begun, phase := 1, line := 0 })
      else
        let s := s.setTray pot { t with home := t.home.filter (fun i => i != c.id) }
        .next ((s.setCmd { c with stage := .begun, phase := 2 }).forward c)
    else if c.phase = 1 && c.line == 1 && c.out == 0 then
      let s := s.setTray pot { t with home := t.home.filter (fun i => i != c.id) }
      .next (if c.failed then s.setCmd { c with phase := 3 } else (s.setCmd { c with phase := 2 }).forward c)
    else .next s

/-- The descriptor under which a shard runs a command: none when V has been cleared since its issue, though the caddy be installed anew (R363). -/
def Shard.holds (h : Shard) (c : Cmd) : Option Desc := if c.num < h.inst then none else h.desc

/-- The command reads a node record of the shard (R377). -/
def Shard.readsNode (h : Shard) (c : Cmd) : Bool :=
  match h.holds c with
  | none => false
  | some d =>
    match c.instr with
    | .stvec .. => c.ident != 0xFFFFFFFF && (SMap.find h.nodes c.ident).isNone && decide (h.nodes.length < descCapacity d) && h.entry.isSome
    | .ixdel .. => c.ident != 0xFFFFFFFF && (SMap.find h.nodes c.ident).isSome
    | .ldnear .. => decide (0 < c.kq) && h.entry.isSome
    | _ => false

/-- The answer of a shard to a command, and the shard after it (R373, R370, R371, R380-R383). -/
def Shard.run (h : Shard) (n : Nat) (c : Cmd) : Shard × Answer :=
  match h.holds c with
  | none => (h, { shard := n, code := 4 })
  | some d =>
    match c.instr with
    | .stvec .. =>
      if c.ident = 0xFFFFFFFF then (h, { shard := n, code := 5 })
      else if (SMap.find h.nodes c.ident).isSome then (h, { shard := n, code := 1 })
      else if descCapacity d ≤ h.nodes.length then (h, { shard := n, code := 3 })
      else let r := h.insert d c.ident c.vector; (r.1, { shard := n, code := 0, evals := r.2 })
    | .ixdel .. =>
      if c.ident = 0xFFFFFFFF then (h, { shard := n, code := 5 })
      else
        match SMap.find h.nodes c.ident with
        | some x =>
          if x.dead then (h, { shard := n, code := 2 })
          else ({ h with nodes := SMap.ins h.nodes c.ident { x with dead := true }, stamp := h.stamp + 1 }, { shard := n, code := 0 })
        | none => (h, { shard := n, code := 2 })
    | .ldnear .. =>
      let r := if c.kq = 0 then ⟨[], [], [], 0⟩ else search d h c.vector c.wq
      (h, { shard := n, code := 0, evals := r.evals, found := (r.pool.filter (fun e => h.live e.2)).take c.kq })
    | _ => (h, { shard := n, code := 0, stamp := h.stamp })

/-- CADDY_SHARD_COMMAND (R372, R373, R377): a command reaches a shard from home tray `c` - 1; or, with `c` 0, the shard engine runs the oldest command of a caddy's shard to the end. With `flag` a node record it read was uncorrectable, and it abandons the command; the datum of that fault is a free value (log 5). -/
def execCaddyShardCommand (s : State) : Host.Outcome State Fault Refusal :=
  let pot := s.sel.a
  let cn := s.sel.b
  if 0 < s.sel.c then .next (s.reachShard (s.sel.c - 1) pot cn)
  else
  let t := s.tray pot
  let h0 := SMap.get {} t.shards cn
  match h0.queue with
  | [] => .next s
  | i :: rest =>
    let h := { h0 with queue := rest }
    let s1 := s.setTray pot { t with shards := SMap.put {} t.shards cn h }
    match SMap.find s.cmds i with
    | none => .next s1
    | some c =>
      let n := pot - shardPot (s.partOf pot).1 c.data 0
      if s.sel.flag && h.readsNode c then
        .next ((({ s1 with frees := s1.frees + 1 } : State).logError (32 + pot) (Config.freeNat s1.frees)).setCmd
          { c with ecc := some (word (Config.freeNat s1.frees)), answers := c.answers ++ [{ shard := n, code := 6 }] })
      else
        let r := h.run n c
        .next ((s1.setTray pot { t with shards := SMap.put {} t.shards cn r.1 }).setCmd { c with answers := c.answers ++ [r.2] })

/-- The CODE of a command as a whole (R377). -/
def Cmd.caddyCode (c : Cmd) : Nat :=
  if c.phase = 3 || c.answers.any (fun a => a.code == 6) then 6
  else match c.answers.find? (fun a => a.code != 0) with
    | some a => a.code
    | none => 0

/-- The merged entries of a query (R375). -/
def Cmd.merged (c : Cmd) : List Near :=
  if c.caddyCode ≠ 0 then [] else ((c.answers.flatMap Answer.found).foldl (fun l x => ordIns c.data x l) []).take c.kq

/-- RESULT (R376). -/
def Cmd.resultWord (c : Cmd) : Nat :=
  let code := c.caddyCode
  let ev := if code = 0 then (c.answers.map Answer.evals).foldl (fun a b => a + b) 0 % 2 ^ 32 else 0
  match c.instr with
  | .stvec .. => code + 2 ^ 16 * (c.ident % descShards c.data) + 2 ^ 32 * ev
  | .ixdel .. => code + 2 ^ 16 * (c.ident % descShards c.data)
  | .ldnear .. => code + 2 ^ 8 * c.merged.length + 2 ^ 32 * ev
  | _ => code

/-- CADDY_MERGE (R375-R377): every shard has answered, or the vector failed: RESULT leaves for its place; FLAG and the handle follow. -/
def execCaddyMerge (s : State) : Host.Outcome State Fault Refusal :=
  match SMap.find s.cmds s.sel.a with
  | none => .next s
  | some c =>
    if c.caddy.isNone || c.stage ≠ .begun || !(c.phase == 3 || (c.phase == 2 && c.answers.length == c.shards.length)) then .next s
    else
      .next (s.sendWord c (potOf c.core) 0x30 c.resultWord)

/-- The v registers that a command writes, with their values when its CODE is 0 (R381, R383). -/
def Cmd.vResults (c : Cmd) : RegSet × List (Nat × VWord) :=
  match c.instr with
  | .ldnear _ _ v _ =>
    let l := c.merged
    let n := 64 - l.length
    (useV [2 * v.val, 2 * v.val + 1] [] [],
      [(2 * v.val, vOfLanes (l.map Prod.fst ++ List.replicate n nan32)),
       (2 * v.val + 1, vOfLanes (l.map (fun e => BitVec.ofNat 32 e.2) ++ List.replicate n 0xFFFFFFFF))])
  | .ixsnap _ _ v _ =>
    (RegSet.ofV v, [(v.val, vOfLanes ((rangeFrom 0 (descShards c.data)).flatMap (fun n =>
      let st := match c.answers.find? (fun a => a.shard == n) with | some a => a.stamp | none => 0
      [lo32 st, BitVec.ofNat 32 (st.toNat / 2 ^ 32)])))])
  | _ => ({}, [])

/-- A caddy command's registers written, or left, and their pending bits cleared, when its handle resolves (R381, R383). -/
def State.landSearch (s : State) (c : Cmd) : State :=
  let t := Thr.ctx c.core c.ctx
  let r := c.vResults
  if r.1.empty || (SMap.find (s.core c.core).ctxs c.ctx).isNone || (s.core c.core).gang ≠ some c.gang then s
  else
    let x := s.ctx t
    let x := if c.caddyCode = 0 then r.2.foldl (fun x p => x.setV p.1 p.2) x else x
    s.setCtx t { x with pend := x.pend.minus r.1 }

/-- CADDY_CLEAR_APPLY (R363): a shard applies the clearing of V between two commands; those it has not begun complete with CODE 4. Its nodes, entry point, last node and stamp stay as they are, out of every command's reach, until an installation (R365). -/
def execCaddyClearApply (s : State) : Host.Outcome State Fault Refusal :=
  let part := s.sel.a
  let p := s.part part
  match p.clearing.find? (fun x => x.1 == s.sel.b && x.2.1 == s.sel.c) with
  | none => .next s
  | some w =>
    let pot := w.2.2
    let t := s.tray pot
    let h := SMap.get {} t.shards s.sel.b
    let hit := h.queue.filterMap (SMap.find s.cmds)
    let left := p.clearing.filter (fun x => x != w)
    let s := s.setPart part { p with clearing := left, retired := if left.any (fun x => x.1 == s.sel.b) then p.retired else SMap.del p.retired s.sel.b }
    let s := s.setTray pot { t with shards := SMap.put {} t.shards s.sel.b { h with queue := [], desc := none } }
    .next (hit.foldl (fun s c => s.setCmd { c with answers := c.answers ++ [{ shard := s.sel.c, code := 4 }] }) s)

end Sys2Proof.Machine
end

