-- ==== Sys2Proof/Machine/Commands.lean ====
section
/-! DEFINITION. The life of an engine command from its parameter block to its handle (spec/13_engines.md R249-R252, 11_ordering.md R227, 18_tables.md R395). -/

namespace Sys2Proof.Machine

/-! ## The checks behind the block read (R250) -/

/-- The flag check of step 7 on the FLAG field. -/
def State.flagField (s : State) (c : Cmd) : Option (Nat × Word) := s.checkFlagIn c.core c.env.secure (c.dw 0x38) false

/-- Steps 4 to 7 of R250 for a command whose block has been read: the fault, or what the command keeps of its lookups. Worlds are compared with that of the core at the command's issue (R138). -/
def State.blockChecks (s : State) (c : Cmd) : Except (Nat × Word) (List Word) :=
  let behind (r : Option (Nat × Word)) (k : Except (Nat × Word) (List Word)) : Except (Nat × Word) (List Word) :=
    match r with
    | some f => .error f
    | none => k
  match c.instr with
  | .xpush .. => behind ((s.inWorldOf c).bufChecks c.core (pushBufs c)) (behind (s.checkFlagIn c.core c.env.secure (c.dw 0x20) true) (.ok []))
  | .xpushr .. => behind ((s.inWorldOf c).bufChecks c.core (pushBufs c)) (behind (s.checkFlagIn c.core c.env.secure (c.dw 0x20) true) (.ok []))
  | .allred .. =>
    match s.collChecks c with
    | .error f => .error f
    | .ok i => behind ((s.inWorldOf c).bufChecks c.core (collBufs c i)) (behind (s.flagField c) (.ok i.words))
  | .allgath .. =>
    match s.collChecks c with
    | .error f => .error f
    | .ok i => behind ((s.inWorldOf c).bufChecks c.core (collBufs c i)) (behind (s.flagField c) (.ok i.words))
  | _ =>
    match c.caddy with
    | some n =>
      let d := s.caddyDesc c.core n
      behind (s.caddyChecks c n) (behind ((s.inWorldOf c).bufChecks c.core (caddyBufs c d)) (behind (s.flagField c) (.ok d)))
    | none => behind (s.trayReach c) (behind ((s.inWorldOf c).bufChecks c.core (trayBufs c)) (behind (s.flagField c) (.ok [])))

/-- The state with a command placed in its slot's queue; a push takes its channel's next id (R254), a caddy command its place among installations (R363). -/
def State.enqueue (s : State) (c : Cmd) : State :=
  let k := s.core c.core
  match c.channel with
  | some ch =>
    let id := SMap.get 0 k.nextid ch
    (s.setCore c.core { k with xq := k.xq ++ [c.id], nextid := SMap.put 0 k.nextid ch ((id + 1) % 2 ^ 32) }).setCmd { c with num := id }
  | none =>
    let s := s.setCore c.core { k with tq := k.tq ++ [c.id] }
    if c.caddy.isSome then { s with next := s.next + 1 }.setCmd { c with num := s.next } else s.setCmd c

/-- The slot queue that a command waits for holds two already (R173, R248). -/
def State.queueFull (s : State) (c : Cmd) : Bool :=
  let k := s.core c.core
  decide (2 ≤ (s.inSlot (if c.channel.isSome then k.xq else k.tq) c.core c.slot).length)

/-- An older command of the core for the same channel, or the tray queue, has its block still to come: ids and departures follow issue order (R254, R260). -/
def State.behindOlder (s : State) (c : Cmd) : Bool :=
  s.cmds.any (fun p => p.2.core == c.core && decide (p.1 < c.id) && p.2.stage == .block && p.2.channel == c.channel
    && !(p.2.block.length == 64 && s.queueFull p.2))

/-- A command given up before its acceptance: its thread issues again or faults. -/
def State.dropCmd (s : State) (c : Cmd) : State :=
  let t := Thr.ctx c.core c.ctx
  { s with cmds := SMap.del s.cmds c.id }.setCtx t { s.ctx t with busy := .none }

/-- BLOCK_READ_RETURN (R249, R250): the remaining checks, then a place in the slot queue and a handle; the command keeps its position while either is missing. -/
def execBlockReadReturn (s : State) : Host.Outcome State Fault Refusal :=
  match SMap.find s.cmds s.sel.a with
  | none => .next s
  | some c =>
    let t := Thr.ctx c.core c.ctx
    if c.stage ≠ .block || (s.ctx t).busy ≠ .block c.id then .next s
    else if c.failed then
      let f := c.faultCode
      let s := s.dropCmd c
      let x := s.ctx t
      .next (s.setCtx t { x with fails := x.fails ++ [{ dest := none, ecc := f.1 == cECC_UNCORR, epc := c.epc, vaddr := f.2 }] })
    else if c.block.length ≠ 64 then .next s
    else
      match s.blockChecks c with
      | .error f => .next ((s.dropCmd c).raise t { code := f.1, sub := 0, epc := c.epc, vaddr := f.2 })
      | .ok data =>
        if s.queueFull c || s.behindOlder c then .next s
        else
          match (s.core c.core).freeHandle with
          | none => .next s
          | some h =>
            let r := s.giveHandle t { c with stage := .queued, data := data, line := 0 } h
            let s := r.1.enqueue r.2
            let x := s.ctx t
            let x := { x with pend := x.pend.union c.searchDst, busy := .none }
            .next (s.setCtx t (x.advance {} false))

/-! ## Engine moves (R227) -/

/-- The pot at whose tray a tray command runs. -/
def Cmd.enginePot (c : Cmd) : Nat := c.pot

/-- A subscription's tile is done (R266). -/
def Cmd.tileDone (c : Cmd) : Cmd := { c with num := c.num + 1, phase := 0, line := 0 }

/-- A collective's next step, once those before it on its pair are finished: the sources of all handed round, or its own reads and writes (R294-R297). -/
def State.collEngine (s : State) (c : Cmd) : State :=
  if c.stage ≠ .begun || !s.collTurn c then s
  else if c.phase = 0 && s.collRead c then s.collShare c
  else
    match collPlan c with
    | .done => s
    | p => s.engineStep c c.enginePot p

/-- ENGINE (R227): the next pieces of a command enter its engine's egress once none of its pieces is out. -/
def execEngine (s : State) : Host.Outcome State Fault Refusal :=
  match SMap.find s.cmds s.sel.a with
  | none => .next s
  | some c =>
    if 0 < c.out then .next s
    else
      let run (p : Plan) : Host.Outcome State Fault Refusal :=
        if c.stage = .begun then .next (s.engineStep c c.enginePot p) else .next s
      match c.instr with
      | .xpush .. => run (pushPlan c)
      | .xpushr .. => run (pushPlan c)
      | .trayGather .. => run (gatherPlan c)
      | .trayScatter .. => run (scatterPlan c)
      | .trayReduce .. => run (reducePlan c)
      | .traySub .. =>
        match subPlan c with
        | .done => if c.stage = .begun then .next (s.setCmd c.tileDone) else .next s
        | p => run p
      | .allred .. => .next (s.collEngine c)
      | .allgath .. => .next (s.collEngine c)
      | .stvec .. => run (caddyPlan c)
      | .ldnear .. => run (caddyPlan c)
      | _ =>
        if (matFn c.instr).1 ≠ 0 && (s.core c.core).stream.contains c.id && s.matFree c.core c && c.stage == .arrived then
          .next (s.engineStep c c.enginePot (matrixPlan (s.core c.core) c))
        else .next s

/-- The landing and flag writes that a command's block names (R251, R252, R255). -/
def Cmd.flagWrites (c : Cmd) : List (EKind × Word) :=
  match c.channel with
  | some _ =>
    let f := c.dw 0x28
    (.landing, c.dw 0x20) :: (if f.bits 10 1 = 1 then [(.flagSet, addrOfLoc (flagLoc c.core (f.bits 0 10)))] else [])
  | none => [(.flagSet, c.dw 0x38)]

/-- The id effects of a push's completion (R252 step 3). -/
def State.pushComplete (s : State) (c : Cmd) (ch : Nat) : State :=
  let k := s.core c.core
  let s := s.setCore c.core { k with channels := SMap.del k.channels ch }
  ((s.pushDone c.core ch c.num).traceCopy c 0x02 c.faultCode.1 0).toResolve c

/-- A tray command's end: it leaves its engine's queue, an UNSUB that waited for this subscription is finished, and the handle resolves next. -/
def State.trayComplete (s : State) (c : Cmd) : State :=
  let t := s.tray c.pot
  let rest (l : List Nat) : List Nat := l.filter (fun i => i != c.id)
  ((s.setTray c.pot { t with gsq := rest t.gsq, rdq := rest t.rdq }).toResolve c).unsubsDone c.id

/-- ENGINE_COMMAND_COMPLETE (R252, R227): once every write of a command has performed its landing and flag writes leave; once they have performed s.xdone advances, and the handle resolves next (DEDUCED, log 19). -/
def execEngineCommandComplete (s : State) : Host.Outcome State Fault Refusal :=
  match SMap.find s.cmds s.sel.a with
  | none => .next s
  | some c =>
    if decide (0 < c.out) || (matFn c.instr).1 != 0 then .next s
    else if c.stage = .finished then .next (s.sendFlags c c.pot c.flagWrites)
    else if c.stage ≠ .flagging then .next s
    else
      match c.channel with
      | some ch => .next (s.pushComplete c ch)
      | none => .next (s.trayComplete c)

/-- TRAY_DEPART (R260): the oldest tray-queue command of the core leaves for its tray; a collective leaves by COLL_JOIN. -/
def execTrayDepart (s : State) : Host.Outcome State Fault Refusal :=
  let n := s.sel.a
  let k := s.core n
  match k.tq with
  | [] => .next s
  | i :: rest =>
    let s1 := s.setCore n { k with tq := rest }
    match SMap.find s.cmds i with
    | none => .next s1
    | some c =>
      let t := s1.tray c.pot
      match c.instr with
      | .allred .. | .allgath .. => .next s
      | .trayGather .. | .trayScatter .. => .next ((s1.setTray c.pot { t with gsq := t.gsq ++ [i] }).setCmd { c with stage := .arrived })
      | .trayReduce .. => .next ((s1.setTray c.pot { t with rdq := t.rdq ++ [i] }).setCmd { c with stage := .arrived })
      | .traySub .. | .trayUnsub .. => .next (s1.subArrive c)
      | _ => .next ((s1.setTray c.pot { t with home := t.home ++ [i] }).setCmd { c with stage := .arrived })

/-- HANDLE_RESOLUTION (R395, R252 step 4, R381): the command's entry resolves, the registers of a search are written, and the command is gone. -/
def execHandleResolution (s : State) : Host.Outcome State Fault Refusal :=
  match SMap.find s.cmds s.sel.a with
  | none => .next s
  | some m =>
    if m.stage ≠ .resolving then .next s
    else
      let f := m.faultCode
      let h := handleWord m.core ((s.core m.core).handle m.hidx).gen m.hidx
      let s := (s.landSearch m).resolve m.core m.hidx m.toG0 f.1 f.2
      let s := { s with cmds := SMap.del s.cmds m.id }
      .next ((s.wakeHandle m.core h).traceDone m)

end Sys2Proof.Machine
end

