-- ==== Sys2Proof/Machine/Thread.lean ====
section
/-! DEFINITION. Threads, messages, barriers and migration: the THREAD instructions (spec/15_scheduler.md R328-R336, 16_migration.md R337-R361). -/

namespace Sys2Proof.Machine

/-! ## Messages (R337-R349) -/

/-- A name in the layout of R339. -/
def nameWord (core : Nat) (n : Option Name) : Nat :=
  match n with
  | some x => core + 2 ^ 16 * x.slot + 2 ^ 24 * x.inc
  | none => core

/-- The bit VALID of a header word. -/
def validBit : Nat := 2 ^ 47

/-- An entry of the message or store class sent behind a release at .sys: probes for TB(t), which notes them (R221), then the entry (R223, R224) (DEDUCED, log 52). -/
def State.sendBehind (s : State) (t : Thr) (kind : EKind) (cls : Cls) (tgt : Nat) (pay : List Word) (low : Word) : State :=
  let c := s.ctx t
  let env := s.env t.core
  let pr := probes t env s.next c.touched
  let e : Entry :=
    { id := s.next + pr.length, src := .thr t, port := t.port, tgt := tgt, cls := cls, phase := .egress, kind := kind, env := env, rel := 2,
      after := pr.map Entry.id, epc := c.pc, pay := pay, gang := (s.core t.core).gang.getD 0, low := low }
  ({ s with ents := s.ents ++ (pr ++ [e]), next := s.next + pr.length + 1 } : State).setCtx t { c with tb := touchAll c.tb pr }

/-- The checks of SEND, TSTART and MIGR on a target core: QUEUE when it is outside the gang, WORLD when its world differs. -/
def State.peerCore (s : State) (core n : Nat) : Option (Nat × Word) :=
  if (s.core n).gang ≠ (s.core core).gang then some (cQUEUE, word n)
  else if (s.core n).secure ≠ (s.core core).secure then some (cWORLD, 0) else none

/-- The four registers from `r` on; none for g0. -/
def groupOf (r : GReg) : List Nat := if r.val = 0 then [] else rangeFrom r.val 4

/-- The number of entries of the send queue, and of acknowledgement entries of the receive queue (R300). -/
def sendRoom : Nat := 16

/-- SEND (R346): waits for room in the send queue and, with `k`, for an acknowledgement entry. -/
def execSend (rd ra : GReg) (k : Bool) (s : State) : Host.Outcome State Fault Refusal :=
  issue s (useS (rd.val :: groupOf ra)) (fun s c =>
    let t := s.cur
    let x := s.here
    let gt := c.gr rd
    let n := gt.bits 0 14
    if gt.bits 16 4 = 15 then .trap cQUEUE 0 (word n)
    else
      match s.peerCore t.core n with
      | some (code, va) => .trap code 0 va
      | none =>
        if sendRoom ≤ x.sendq then .stay s .message .sendq
        else if k && decide (sendRoom ≤ x.acks) then .stay s .message .sendq
        else
          let w0 := nameWord t.core c.name + 2 ^ 32 * gt.bits 32 8 + (if k then 2 ^ 44 else 0) + validBit
          let w1 := n + 2 ^ 16 * gt.bits 16 4 + 2 ^ 24 * gt.bits 24 8
          let pay := if ra.val = 0 then [0, 0, 0, 0] else (rangeFrom ra.val 4).map c.gr
          let s := s.setHere { x with sendq := x.sendq + 1, acks := if k then x.acks + 1 else x.acks }
          .go (s.sendBehind t .msg .message n (word w0 :: word w1 :: pay) 0))

/-- A received message written to its destinations (R347). -/
def Ctx.receive (c : Ctx) (rd ra : GReg) (m : Msg) : Ctx :=
  ((groupOf ra).zip m.payload).foldl (fun c p => c.setG p.1 p.2) (c.setG rd m.w0)

/-- The first element that satisfies a condition, and the list without it. -/
def takeFirst {α : Type} (p : α → Bool) : List α → Option (α × List α)
  | [] => none
  | x :: t => if p x then some (x, t) else (takeFirst p t).map (fun r => (r.1, x :: r.2))

/-- RECV and RECV.o (R347). -/
def execRecv (rd ra : GReg) (off : Bool) (s : State) : Host.Outcome State Fault Refusal :=
  issue s { dst := gset (rd.val :: groupOf ra) } (fun s c =>
    let x := s.here
    if off then
      match x.orphans with
      | [] => .go (s.setCtx s.cur (c.receive rd ra ⟨0, 0, 0, [0, 0, 0, 0]⟩))
      | m :: t => .go ((s.setHere { x with orphans := t }).setCtx s.cur (c.receive rd ra m))
    else
      match takeFirst (fun (m : Msg) => m.ctx == s.cur.id) x.rq with
      | none => .block s (waitWord 1 0 0 0 0 0) .message .none
      | some (m, rest) =>
        let s := s.setHere { x with rq := rest, acks := if m.w0.bits 45 2 = 0 then x.acks else x.acks - 1 }
        .go (s.setCtx s.cur (c.receive rd ra m)))

/-- RQN (R348). -/
def execRqn (rd : GReg) (q : Fin 4) (s : State) : Host.Outcome State Fault Refusal :=
  issue s (useD rd) (fun s _ =>
    let x := s.here
    let n := if q.val = 0 then (x.rq.filter (fun m => m.ctx == s.cur.id)).length else if q.val = 1 then x.rq.length else x.orphans.length
    .go (s.putG rd (word n)))

/-- A priority held to the ceiling in user mode (R332, R335). -/
def Core.ceiled (k : Core) (c : Ctx) (p : Nat) : Nat := if !c.sup && decide (k.ceil < p) then k.ceil else p

/-- TSTART (R332). -/
def execTstart (rd ra : GReg) (p : Fin 128) (rg : GReg) (s : State) : Host.Outcome State Fault Refusal :=
  issue s (useS [rd, ra, rg]) (fun s c =>
    let t := s.cur
    let x := s.here
    let n := (c.gr rd).bits 0 14
    match s.peerCore t.core n with
    | some (code, va) => .trap code 0 va
    | none =>
      if sendRoom ≤ x.sendq then .stay s .message .sendq
      else
        let s := s.setHere { x with sendq := x.sendq + 1 }
        .go (s.sendBehind t (.start (c.gr ra) (c.gr rg) (x.ceiled c p.val) 0) .message n [] (word n)))

/-! ## Barriers (R328-R330, R336) -/

/-- The key of a barrier among its gang's: the cluster for BARC. -/
def barKey (b : BarKind) (core : Nat) : Nat :=
  match b with
  | .barc => clusterOf core
  | .barg => 2 ^ 20
  | .barb => 2 ^ 20 + 1

/-- A member core of a gang: as it stands, or as the gang's save keeps it (R322, R330). -/
def State.coreOf (s : State) (g : Gang) (n : Nat) : Core := (SMap.find g.saved n).getD (s.core n)

/-- The live contexts of a gang (R317). -/
def State.liveThreads (s : State) (g : Gang) : List Thr :=
  g.cores.flatMap (fun n => ((s.coreOf g n).ctxs.filter (fun p => p.2.live)).map (fun p => Thr.ctx n p.1))

/-- The sachet of a context has departed and has not come back (R328, R353): its thread is counted elsewhere. -/
def State.away (s : State) (t : Thr) : Bool :=
  match (s.ctx t).busy with
  | .migr (some .accepted) _ => true
  | .migr none _ => s.ents.any (fun e => e.kind == .sachet && e.src == .thr t && e.phase != .egress)
  | _ => false

/-- A thread of a gang in flight: a start message, or a sachet that has departed (R317). -/
def Entry.carries (e : Entry) (gid : Nat) : Bool :=
  match e.kind with
  | .sachet => e.gang == gid && e.phase != .egress
  | .start .. => e.gang == gid
  | _ => false

/-- Every participant of a barrier that this gang has has arrived, and one at least (R328). -/
def State.barHere (s : State) (gid : Nat) (g : Gang) (key : Nat) (b : Bar) : Bool :=
  let here := (s.liveThreads g).filter (fun t => !(g.saved.isEmpty && s.away t) && (decide (2 ^ 20 ≤ key) || clusterOf t.core == key))
  !b.arrived.isEmpty && here.all b.arrived.contains
    && !s.ents.any (fun e => e.carries gid && (decide (2 ^ 20 ≤ key) || clusterOf e.tgt == key))

/-- The barrier of this key in a gang is complete (R328): for BARB, at every other rank too, where a rank that has finished counts as arrived, and one that has been discarded or has ended never arrives (R330). -/
def State.barDone (s : State) (gid : Nat) (g : Gang) (key : Nat) (b : Bar) : Bool :=
  s.barHere gid g key b
    && (key != 2 ^ 20 + 1 || g.record.size == 1 ||
      (rangeFrom 0 g.record.size).all (fun r => r == g.record.rank || b.peers.contains r || (SMap.get .unknown g.peers r) == .done))

/-- A thread of a core that waits at the barrier of this key, its episode complete (R329). -/
def Ctx.freedBar (c : Ctx) (core key : Nat) : Ctx :=
  match c.busy with
  | .barrier b _ => if barKey b core = key then { c with busy := .released b } else c
  | _ => c

/-- A saved core with one of its contexts released from its barrier. -/
def Gang.freedBar (g : Gang) (key : Nat) (t : Thr) : Gang :=
  match SMap.find g.saved t.core with
  | some k => { g with saved := SMap.ins g.saved t.core (k.setCtx t.id ((SMap.get ({} : Ctx) k.ctxs t.id).freedBar t.core key)) }
  | none => g

/-- The episode behind a complete one: a rank that has arrived there already stays counted. -/
def Bar.following (b : Bar) (size : Nat) : Bar :=
  { episode := b.episode + 1, peers := (rangeFrom 0 size).foldl (fun (l : List Nat) r => l.erase r) b.peers }

/-- A complete episode: the next one opens, and every thread that arrived is released, in the gang's save while it is detached (R330). -/
def State.completeBar (s : State) (gid : Nat) (key : Nat) (b : Bar) : State :=
  match SMap.find s.gangs gid with
  | none => s
  | some g =>
    let g := { g with bars := SMap.put {} g.bars key (b.following g.record.size) }
    if g.saved.isEmpty then b.arrived.foldl (fun s t => s.setCtx t ((s.ctx t).freedBar t.core key)) (s.setGang gid g)
    else s.setGang gid (b.arrived.foldl (fun g t => g.freedBar key t) g)

/-- A gang whose threads have all arrived at BARB tells the other ranks of its blend, once an episode (R328). -/
def State.tellBar (s : State) (gid key : Nat) (b : Bar) : State :=
  match SMap.find s.gangs gid with
  | none => s
  | some g =>
    if key = 2 ^ 20 + 1 ∧ g.record.size ≠ 1 ∧ b.told = false ∧ s.barHere gid g key b then
      (s.setGang gid { g with bars := SMap.put {} g.bars key { b with told := true } }).sendFar g.part
        [.arrived ((g.record.dw 0x68).bits 32 32) g.record.rank]
    else s

/-- Every open episode of a gang that is complete ends: what a thread's arrival, exit or departure, or a peer's news may bring (R328). -/
def State.settleBars (s : State) (gid : Nat) : State :=
  match SMap.find s.gangs gid with
  | none => s
  | some g => g.bars.foldl (fun s p => if s.barDone gid g p.1 p.2 then (s.tellBar gid p.1 p.2).completeBar gid p.1 p.2 else s.tellBar gid p.1 p.2) s

/-- The gang of a core. -/
def State.gangOf (s : State) (core : Nat) : Option Gang := (s.core core).gang.bind (SMap.find s.gangs)

/-- The barriers of the gang on a core settled. -/
def State.settleAt (s : State) (core : Nat) : State :=
  match (s.core core).gang with
  | some gid => s.settleBars gid
  | none => s

/-- A barrier instruction (R336): it waits for pending bits, starts its release and goes on behind itself; BARRIER_ARRIVAL counts it. BARB of a blend with a discarded peer raises TEARDOWN (R330). -/
def barrier (s : State) (b : BarKind) : Host.Outcome State Fault Refusal :=
  let u : Use := { all := true }
  issue s u (fun s _ =>
    match (if b = .barb then (s.gangOf s.cur.core).bind Gang.torn else none) with
    | some m => .trap cTEARDOWN 0 (word m)
    | none => .jump ((s.probe s.cur).goHeld u (.arriving b) 0))

/-- BARC. -/
def execBarc (s : State) : Host.Outcome State Fault Refusal := barrier s .barc

/-- BARG. -/
def execBarg (s : State) : Host.Outcome State Fault Refusal := barrier s .barg

/-- BARB. -/
def execBarb (s : State) : Host.Outcome State Fault Refusal := barrier s .barb

/-- The address of the word a thread issued last. -/
def Ctx.lastWord (c : Ctx) : Word :=
  match c.enter with
  | .none => c.pc - 4
  | _ => c.blk.first + word (4 * (c.blk.len - 1))

/-- The event code of a barrier in the wait word (R89). -/
def BarKind.event : BarKind → Nat
  | .barc => 3
  | .barg => 4
  | .barb => 5

/-- BARRIER_ARRIVAL (R328, R329): once its egress is empty and its echoes are back the thread's arrival is counted. -/
def execBarrierArrival (s : State) : Host.Outcome State Fault Refusal :=
  let t := Thr.ctx s.sel.a s.sel.b
  let c := s.ctx t
  match c.busy with
  | .arriving b =>
    if c.stopped || !s.egEmpty t || s.probing t then .next s
    else
      match (s.core s.sel.a).gang, s.gangOf s.sel.a with
      | some gid, some g =>
        match (if b = .barb then g.torn else none) with
        | some m => .next ((s.setCtx t c.undone).raise t { code := cTEARDOWN, sub := 0, epc := c.lastWord, vaddr := word m })
        | none =>
          let key := barKey b s.sel.a
          let x := SMap.get {} g.bars key
          let s := s.setGang gid { g with bars := SMap.put {} g.bars key { x with arrived := x.arrived ++ [t] } }
          let s := s.setCtx t { c with busy := .barrier b x.episode, wait := waitWord b.event 0 0 0 0 (x.episode % 2 ^ 32) }
          .next (s.settleBars gid)
      | _, _ => .next s
  | _ => .next s

/-- BARRIER_COMPLETION (R329): the news reaches a waiter, which issues again; a parked one becomes READY. -/
def execBarrierCompletion (s : State) : Host.Outcome State Fault Refusal :=
  let t := Thr.ctx s.sel.a s.sel.b
  let c := s.ctx t
  match c.busy with
  | .released _ => .next ((s.setCtx t { c with busy := .none }).wake t)
  | _ => .next s

/-! ## TEXIT, YIELD, PRIO -/

/-- TEXIT (R333). -/
def execTexit (s : State) : Host.Outcome State Fault Refusal :=
  issue s { all := true } (fun s _ => s.fenced true (fun s =>
    match s.cur with
    | .ctx n i => .jump ((s.retire n i).settleAt n)
    | _ => .stay s .memory .none))

/-- A READY context of a core with priority at least `p` (R334). -/
def Core.readyAbove (c : Core) (p : Nat) : Bool := c.ctxs.any (fun (x : Nat × Ctx) => x.2.st == .ready && decide (p ≤ x.2.prio))

/-- A bound context put back in the run queue or in a wait (R311): its slot is free. -/
def State.unbind (s : State) (core i : Nat) (x : Ctx) : State :=
  s.setCore core (((s.core core).unslot i false).setCtx i x.closed)

/-- YIELD (R334): with a READY context of at least its priority the thread becomes READY behind the YIELD; a saved context holds no pending bit, so it waits for them first (DEDUCED from R41, R90). -/
def execYield (s : State) : Host.Outcome State Fault Refusal :=
  issue s {} (fun s c =>
    match s.cur with
    | .ctx n i =>
      if !(s.core n).readyAbove c.prio then .go s
      else if !c.pend.empty then
        match s.dueAt s.cur {} true with
        | some f => .fell (s.takeFail s.cur f)
        | none => .stay s .memory .none
      else .jump (s.unbind n i { c.advance {} false with st := .ready, stamp := s.time, aged := 0 })
    | _ => .go s)

/-- PRIO (R335). -/
def execPrio (rd ra : GReg) (s : State) : Host.Outcome State Fault Refusal :=
  issue s (useRR rd ra) (fun s c =>
    let old := word c.prio
    .go (s.setCtx s.cur ({ c with prio := s.here.ceiled c ((c.gr ra).bits 0 7) }.setG rd old)))

/-! ## Migration (R350-R361) -/

/-- The owner core of an address (R351). -/
def State.ownerCore (s : State) (a : Word) : Option Nat :=
  if s.canonModule (moduleOf a) ≠ ownModule then none
  else
    let o := ownerOf a
    let x := offsetOf a
    if o < 32 then
      if x < 0x10000000 then some (512 * o + x / 0x80000)
      else if x < ctlBase then some (512 * o + 64 * ((x - 0x10000000) / 0x2000000))
      else none
    else if o < 64 then some (512 * (o - 32) + 511)
    else none

/-- A landing header keeps within the sachet set (R352): no live bit for g11-g31, for a v register, or for k2 and k3. -/
def landable (h : Header) : Bool := h.liveg / 2 ^ 10 == 0 && h.livev == 0 && h.livek / 2 ^ 2 == 0

/-- The control word of a sachet (R350). -/
def State.sachetWord (s : State) (core : Nat) (c : Ctx) : Word :=
  let k := s.core core
  word (k.asid + 2 ^ 16 * Nat.min 31 (c.hops + 1) + 2 ^ 21 * c.prio + 2 ^ 28 * k.ginc + 2 ^ 36 * k.gnum + 2 ^ 50 * core)

/-- The 13 doublewords of a sachet (R350). -/
def State.sachetBody (s : State) (core : Nat) (c : Ctx) (l : Word) : List Word :=
  [l, c.kr 1] ++ (rangeFrom 1 10).map c.gr ++ [s.sachetWord core c]

/-- MIGR (R352, R353, R361): the origin checks, then a release at .sys with the sachet behind it; the thread waits at its slot for the answer. -/
def execMigr (rd ra : GReg) (s : State) : Host.Outcome State Fault Refusal :=
  issue s (useS [rd, ra]).waits (fun s c =>
    let t := s.cur
    let a := c.gr ra
    let l := c.gr rd
    match s.ownerCore a with
    | none => .trap cBAD_OWNER 0 a
    | some o =>
      checked s permR [(a, 1)] (fun s =>
        match s.peerCore t.core o with
        | some (code, va) => .trap code 0 va
        | none =>
          match s.lookHeader t.core l with
          | .wait s => .stay s .memory .none
          | .access code va => .trap code 0 va
          | .bad => .trap cBAD_TARGET 0 l
          | .ok s h =>
            if h.kind ≠ 2 then .trap cBAD_TARGET 0 l
            else if c.sup || !landable h then .trap cMIGR_REFUSED 0 a
            else
              let s := s.sendBehind t .sachet .store o (s.sachetBody t.core c l) a
              .jump (s.setCtx t { s.ctx t with busy := .migr none a })))

/-- MIGR_ANSWER (R353): acceptance retires the context at origin; a bounce traps MIGR_REFUSED, a removal RNR_LIMIT. -/
def execMigrAnswer (s : State) : Host.Outcome State Fault Refusal :=
  let n := s.sel.a
  let t := Thr.ctx n s.sel.b
  let c := s.ctx t
  match c.busy with
  | .migr (some .accepted) _ => .next ((s.leave n s.sel.b).settleAt n)
  | .migr (some .bounced) a => .next ((s.setCtx t { c with busy := .none }).raise t { code := cMIGR_REFUSED, sub := 1, epc := c.pc, vaddr := a })
  | .migr (some .removed) a => .next ((s.setCtx t { c with busy := .none }).raise t { code := cRNR_LIMIT, sub := 0, epc := c.pc, vaddr := a })
  | _ => .next s

end Sys2Proof.Machine
end

