-- ==== Sys2Proof/Machine/Counters.lean ====
section
/-! DEFINITION. CRD, TMARK, the trace ring, the sampler, and positions that pass unused (spec/19_counters.md R400-R414). -/

namespace Sys2Proof.Machine

/-- The partition of a core, by its first pot. -/
def State.partAt (s : State) (core : Nat) : Nat := (s.partOf (potOf core)).1

/-- A counter read by CRD (R400): a core's as it stood at the end of the previous cycle (R407). -/
def State.counter (s : State) (core n : Nat) : Word :=
  let k := s.core core
  let p := s.part (s.partAt core)
  if n < 0x040 then SMap.get 0 k.ctrSeen n
  else if n = 0x040 then ((s.gangOf core).map Gang.active).getD 0
  else if n = 0x041 then ((s.gangOf core).map Gang.detached).getD 0
  else if n = 0x042 then p.traceRec
  else if n = 0x043 then p.traceDrop
  else p.samples

/-- A core whose counters CRD now sees as they stand: NEXTID0-3 are counters 0 to 3. -/
def Core.seen (c : Core) : Core := { c with ctrSeen := c.nextid.map (fun p => (p.1, word p.2)) ++ c.ctr }

/-- The launch engine's reply to a thread, 40 cycles later: the value for rd as the counter stands at issue (R407) (DESIGN CHOICE, log 9). -/
def State.answerIn (s : State) (t : Thr) (rd : GReg) (x : Word) : State :=
  let c := s.ctx t
  let f : Flight := { thr := t, slot := s.slotOf t, unit := 17, delay := 40, ready := s.time + 40, epc := c.pc, dest := {}, writes := { g := [(rd.val, x)] } }
  let k := s.core t.core
  s.setCore t.core { k with flight := k.flight ++ [f] }

/-- CRD (R407): a core's counter at once; for the launch engine's the thread issues nothing further until the reply has written rd. -/
def execCrd (rd : GReg) (n : Fin 4096) (s : State) : Host.Outcome State Fault Refusal :=
  let u := useD rd
  issue s u (fun s _ =>
    let x := s.counter s.cur.core n.val
    if n.val < 0x040 then .go (s.putG rd x) else .jump ((s.answerIn s.cur rd x).goHeld u .reply 0))

/-- The capture window of a gang after TMARK.start or TMARK.stop (R414). -/
def Gang.marked (g : Gang) (k : Nat) : Gang :=
  if k = 1 then { g with active := 0, detached := 0, window := true } else if k = 2 then { g with window := false } else g

/-- The trace record of a TMARK that meets the gang's window as it is (R410, R414). -/
def Mark.bytes (time : Word) (g : Gang) (m : Mark) : List Byte :=
  traceBytes time (0x30 + m.kind) 0 m.inc m.slot m.core (m.data.bits 0 16) (if m.kind = 2 then g.active else m.pc) (if m.kind = 2 then g.detached else m.data)

/-- A TMARK put in its place by core number: one cycle's TMARKs act with the lower core first (R414). -/
def insMark (m : Mark) : List Mark → List Mark
  | [] => [m]
  | x :: t => if m.core < x.core then m :: x :: t else x :: insMark m t

/-- One cycle's TMARKs in the order in which they act. -/
def sortMarks (l : List Mark) : List Mark := l.foldl (fun l m => insMark m l) []

/-- The records of TMARKs, each made with the window as the ones before it leave it. -/
def Gang.markRecords (time : Word) : Gang → List Mark → List (List Byte)
  | _, [] => []
  | g, m :: t => m.bytes time g :: (g.marked m.kind).markRecords time t

/-- A gang with this cycle's TMARKs applied. -/
def Gang.applied (g : Gang) : Gang := { (sortMarks g.marks).foldl (fun g m => g.marked m.kind) g with marks := [] }

/-- The state with the records of this cycle's TMARKs sent. -/
def State.sendMarks (s : State) : State :=
  s.gangs.foldl (fun u p => (p.2.markRecords s.time (sortMarks p.2.marks)).foldl (fun u r => u.sendTrace p.2.part r) u) s

/-- TMARK (R413, R414): 0 mark, 1 start, 2 stop. Its record leaves with the cycle's others, at this cycle's TIME. -/
def execTmark (ra : GReg) (k : Fin 4) (s : State) : Host.Outcome State Fault Refusal :=
  issue s (useS [ra]) (fun s c =>
    let n := s.cur.core
    let x := c.gr ra
    match (s.core n).gang, s.gangOf n with
    | some gid, some g =>
      let nm := c.traceName
      .go (s.setGang gid { g with marks := g.marks ++ [⟨n, nm.1, nm.2, k.val, c.pc, x⟩] })
    | _, _ => .go s)

/-- The trace control block of a partition (R408). -/
def traceLoc (part : Nat) : Nat := rootLoc part + 0x480

/-- TRACE_RECORD_WRITE (R411): the next record goes to its ring position, or is dropped at a full or disabled ring (DEDUCED, log 35); while the position has no translation its write cannot perform, and the record waits. -/
def execTraceRecordWrite (s : State) : Host.Outcome State Fault Refusal :=
  let n := s.sel.a
  let p := s.part n
  match p.traces with
  | [] => .next s
  | r :: rest =>
    let b := traceLoc n
    let size := s.readNat (b + 8) 4
    let w := s.readNat (b + 0x10) 4
    let used := (2 ^ 32 + w - s.readNat (b + 0x18) 4) % 2 ^ 32
    if size ≤ used then .next (s.setPart n { p with traces := rest, traceDrop := p.traceDrop + 1 })
    else
      match s.sysLoc { secure := s.potSecure n, asid := s.readNat (b + 0xC) 2 } (word (s.readNat b 8 + 32 * (w % size))) with
      | none => .next s
      | some l =>
        let s := (s.writeLocs l r).writeNat (b + 0x10) 4 (w + 1)
        .next (s.setPart n { p with traces := rest, traceRec := p.traceRec + 1 })

/-- The positions that a partition's sampler goes through, as 16 times the core plus the slot (R412). -/
def State.samplePoints (s : State) (part : Nat) : List Nat :=
  (s.cores.filter (fun p => p.2.gang.isSome && s.partAt p.1 == part)).flatMap (fun p => (rangeFrom 0 15).map (fun i => 16 * p.1 + i))

/-- The sampling period's logarithm: SHIFT (R408). -/
def State.shift (s : State) (part : Nat) : Nat := s.readNat (traceLoc part + 0x20) 8 % 32

/-- A sample is due in this cycle (R412). -/
def State.sampleDue (s : State) (part : Nat) : Bool := decide (10 ≤ s.shift part) && s.time.toNat % 2 ^ s.shift part == 0

/-- The record of a sample of a core's slot (R410, R412): the class last given to the position (DEDUCED, log 34), with the bound thread's name and program counter, or with SLOT 15 and PC 0 where the position is vacant. -/
def State.sampleRecord (s : State) (n slot : Nat) : List Byte :=
  let k := s.core n
  let vacant (info : Nat) : List Byte := traceBytes s.time 0x20 info 0 15 n 0 0 0
  match (SMap.get ({} : Slot) k.slots slot).ctx with
  | none => vacant Cls4.vacant.code
  | some i =>
    let info := SMap.get 3 k.posClass slot
    let c := s.ctx (.ctx n i)
    if info % 4 = Cls4.vacant.code then vacant info else traceBytes s.time 0x20 info c.traceName.1 c.traceName.2 n 0 c.pc 0

/-- PC_SAMPLE (R412): the next position of the sampler's cycle is recorded. -/
def execPcSample (s : State) : Host.Outcome State Fault Refusal :=
  let n := s.sel.a
  let p := s.part n
  let l := s.samplePoints n
  if !s.sampleDue n then .next s
  else
    match (match l.find? (fun x => decide (p.cursor ≤ x)) with | some x => some x | none => l.head?) with
    | none => .next s
    | some x =>
      .next (s.setPart n { p with samples := p.samples + 1, cursor := x + 1, traces := p.traces ++ [s.sampleRecord (x / 16) (x % 16)] })

/-! ## Positions (R402) -/

/-- A stop at the next instruction boundary has been asked for: of the thread, or of its gang (R321, R427). -/
def State.asked (s : State) (t : Thr) : Bool := (s.ctx t).stopReq || ((s.gangOf t.core).map Gang.halting).getD false

/-- The thread's transfer has failed its check, and its trap is still to be raised (R114): a stop waits for its entry (R145). -/
def Ctx.refusing (c : Ctx) : Bool :=
  match c.enter with
  | .refused _ _ => true
  | _ => false

/-- The class of a position whose thread, bound there, cannot issue: it was bound in this rotation, is stopped, in trap entry, held by its last instruction, or stands where a stop was asked for, with or without pending bits to wait for (DEDUCED, log 55). Waiting for the reply of EXPECT, or of a CRD of the launch engine's, counts as memory without a sub-reason (DESIGN CHOICE, log 92). A thread that may attempt to issue has none. -/
def State.holdClass (s : State) (t : Thr) : Option (Cls4 × Sub) :=
  let c := s.ctx t
  if c.stopped || c.fresh then some (.vacant, .none)
  else if c.trap.isSome then some (.vacant, .trap)
  else
    match c.busy with
    | .fence => none
    | .none => if !s.asked t || c.refusing then none else if c.pend.empty then some (.vacant, .none) else some (.memory, .none)
    | .reply => some (.memory, .none)
    | .flag => some (.memory, .barrier)
    | .block i =>
      match SMap.find s.cmds i with
      | some m =>
        if m.block.length ≠ 64 then some (.memory, .none)
        else if s.queueFull m then some (.memory, .hazard)
        else if (s.core t.core).freeHandle.isNone then some (.memory, .handle) else some (.memory, .none)
      | none => some (.memory, .none)
    | .arriving _ | .barrier _ _ | .released _ => some (.message, .barrier)
    | .migr _ _ => some (.message, .handle)

/-- The thread bound in a slot. -/
def State.boundIn (s : State) (core slot : Nat) : Option Thr :=
  (SMap.get ({} : Slot) (s.core core).slots slot).ctx.map (fun i => Thr.ctx core i)

/-- POSITION (R16, R402): the current position of a core passes unused and is counted. -/
def execPosition (s : State) : Host.Outcome State Fault Refusal :=
  let n := s.sel.a
  if 15 ≤ s.pos then .next s
  else
    match s.boundIn n s.pos with
    | none => .next (s.slotPosition n s.pos .vacant .none)
    | some t =>
      match s.holdClass t with
      | some (k, b) => .next (s.slotPosition n s.pos k b)
      | none => .next s

/-! ## The cycle's list (R16, R269, R412) -/

/-- A place in the cycle's list of what is still to be served: 0 a core's position, 1 a sampler, 2 and 3 kettle threads, 4 the end of a rotation. -/
def turnCode (kind n : Nat) : Nat := 2 ^ 16 * kind + n

/-- The place of a thread. -/
def turnOf : Thr → Nat
  | .ctx n _ => n
  | .draw n => turnCode 2 n
  | .brew n => turnCode 3 n

/-- The cores that a gang holds. -/
def State.heldCores (s : State) : List Nat := (s.cores.filter (fun p => p.2.gang.isSome)).map Prod.fst

/-- The cores that no gang holds and that have a mailbox word to move (R16, R84). -/
def State.mailCores (s : State) : List Nat :=
  (s.cores.filter (fun p => p.2.gang.isNone && (rangeFrom 0 4).any (fun i => (p.2.box i).ready))).map Prod.fst

/-- What a cycle serves: the slot of its position on every held core, or position 15's mailboxes, on every core, and kettle threads and end of rotation; and the samplers that are due (DESIGN CHOICE, log 58). -/
def State.turns (s : State) : List Nat :=
  (if s.pos < 15 then s.heldCores
   else (s.heldCores ++ s.mailCores) ++ (s.heldCores.map (turnCode 2) ++ (s.heldCores.map (turnCode 3) ++ s.heldCores.map (turnCode 4))))
    ++ (s.partList.filter s.sampleDue).map (turnCode 1)

end Sys2Proof.Machine
end

