-- ==== Sys2Proof/Machine/Order.lean ====
section
/-! DEFINITION. The moves of the ordering machine: DEPART, ARRIVE and REFUSE, PERFORM, ECHO, REPLY, REMOVE and the retries (spec/11_ordering.md R209-R221, 14_fabric.md R281-R282). -/

namespace Sys2Proof.Machine

/-! ## Entries -/

/-- The entry of a number. -/
def State.entry (s : State) (id : Nat) : Option Entry := s.ents.find? (fun e => e.id == id)

/-- The state with an entry changed where it stands. -/
def State.setEntry (s : State) (e : Entry) : State := { s with ents := s.ents.map (fun x => if x.id = e.id then e else x) }

/-- The state with an entry moved behind all others: it enters its next buffer at the tail. -/
def State.moveEntry (s : State) (e : Entry) : State := { s with ents := s.ents.filter (fun x => x.id != e.id) ++ [e] }

/-- The state without an entry. -/
def State.dropEntry (s : State) (id : Nat) : State := { s with ents := s.ents.filter (fun x => x.id != id) }

/-- The entries older than the one of a number. -/
def olderThan (id : Nat) : List Entry → List Entry
  | [] => []
  | e :: t => if e.id = id then [] else e :: olderThan id t

/-- The entry concerns whole granules. -/
def Entry.granular (e : Entry) : Bool :=
  match e.kind with
  | .feclr | .engClear => true
  | _ => false

/-- Two bytes are one byte, or lie in one granule where `g`. -/
def sameByte (g : Bool) (a b : EByte) : Bool := if g then a.loc / 16 == b.loc / 16 else a.loc == b.loc

/-- The entries share a byte (R215). -/
def Entry.meets (a b : Entry) : Bool := a.bytes.any (fun x => b.bytes.any (fun y => sameByte (a.granular || b.granular) x y))

/-- A memory entry of EG(t). -/
def Entry.inEgress (e : Entry) (p : Party) : Bool := e.phase == .egress && e.src == p && e.cls == .store

/-! ## DEPART (R215) -/

/-- An acquire older than the entry still awaits a reply: a piece of it, or the piece's reply, stands in some buffer. A probe of an access that is itself an acquire is no younger than it. -/
def State.heldByAcquire (s : State) (t : Thr) (e : Entry) : Bool :=
  s.ents.any (fun x => x.acq && x.src == .thr t && decide (x.acc < e.id) && x.acc != e.acc && !(e.kind == .probe && x.after.contains e.id))

/-- Every probe sent with the entry has been answered; one that REMOVE took from a failed link counts as answered (R215, R279) (DESIGN CHOICE, log 78). -/
def State.echoed (s : State) (e : Entry) : Bool := e.after.all (fun i => (s.entry i).isNone)

/-- The conditions of DEPART (DEDUCED, log 37). -/
def State.mayDepart (s : State) (e : Entry) : Bool :=
  let older := olderThan e.id s.ents
  match e.src with
  | .thr t =>
    match e.cls with
    | .message => s.echoed e && !older.any (fun x => x.phase == .egress && x.cls == .message && x.port == e.port)
    | _ =>
      let eg := older.filter (fun x => x.inEgress e.src)
      !eg.any e.meets && !s.heldByAcquire t e && (e.rel != 1 || eg.isEmpty) && s.echoed e
        && (e.kind != .probe || !eg.any (fun x => x.banks.contains e.tgt)) && (e.kind != .sachet || eg.isEmpty)
  | .host _ =>
    -- The entries of older requests of the port, in whatever buffer they stand (R416, R223).
    let mine := s.ents.filter (fun x => x.src == e.src && decide (x.acc < e.acc))
    !(mine.filter (fun x => x.phase == .egress)).any e.meets && !mine.any (fun x => x.acq) && (e.rel == 0 || mine.isEmpty)
  | _ => true

/-- A store leaves IQ(t) when its pieces have departed (R220). -/
def Ctx.departed (c : Ctx) (acc : Nat) : Ctx :=
  { c with iq := (c.iq.map (fun a => if a.id = acc && !a.load then { a with left := a.left - 1 } else a)).filter (fun a => a.load || decide (0 < a.left)) }

/-- DEPART. -/
def execDepart (s : State) : Host.Outcome State Fault Refusal :=
  match s.entry s.sel.a with
  | none => .next s
  | some e =>
    if e.phase ≠ .egress || !s.mayDepart e then .next s
    else
      -- A sachet carries the world of its core at departure (R350).
      let s := s.moveEntry { e with phase := .channel, env := if e.kind = .sachet then { e.env with secure := (s.core e.env.core).secure } else e.env }
      match e.src, e.cls with
      | .thr _, .message =>
        -- The send queue is the core's from which it was sent (R337), wherever its thread has gone.
        let k := s.core e.port
        .next (s.setCore e.port { k with sendq := k.sendq - 1 })
      | .thr t, _ =>
        let s := s.setCtx t ((s.ctx t).departed e.acc)
        .next (if e.kind = .sachet then s.settleAt t.core else s)
      | _, _ => .next s

/-! ## Completion of an access (R220, R126) -/

/-- The lower of two optional addresses. -/
def minAddr (a b : Option Word) : Option Word :=
  match a, b with
  | some x, some y => some (if x.toNat ≤ y.toNat then x else y)
  | some x, none => some x
  | none, y => y

/-- A piece of a store is gone (R126): one failure for each store, at the lowest of its failed pieces. -/
def Ctx.failStore (c : Ctx) (acc : Nat) (epc va : Word) : Ctx :=
  if c.fails.any (fun f => f.acc == acc) then
    { c with fails := c.fails.map (fun f => if f.acc = acc && decide (va.toNat < f.vaddr.toNat) then { f with vaddr := va } else f) }
  else { c with fails := c.fails ++ [{ acc := acc, dest := none, ecc := false, epc := epc, vaddr := va }] }

/-- The failure of an access: ECC_UNCORR before RNR_LIMIT (R126). -/
def Access.failure (a : Access) : Option (Bool × Word) :=
  match a.ecc, a.rnr with
  | some x, _ => some (true, x)
  | none, some x => some (false, x)
  | none, none => none

/-- The number of the first `n` bytes from place `i` of an access. -/
def Access.num (a : Access) (i n : Nat) : Nat := ofLeBytes ((rangeFrom i n).map (SMap.get 0 a.data))

/-- A scalar load's value (R127). -/
def loadValue (x n : Nat) (signed : Bool) : Word := if signed then BitVec.ofInt 64 (signedOf (8 * n) x) else word x

/-- A vector load's value: active lanes from memory, others kept (R129). -/
def mergeLoad (old : VWord) (m : Word) (a : Access) : VWord :=
  vOfLanes ((rangeFrom 0 64).map (fun i => if maskBit m i then BitVec.ofNat 32 (a.num (4 * i) 4) else VWord.lane old i))

/-- What is written once every reply has come (R220), for a destination in registers. -/
def Ctx.landLoad (c : Ctx) (a : Access) : Ctx :=
  let clear (c : Ctx) (r : RegSet) : Ctx := { c with pend := c.pend.minus r }
  match a.dest with
  | .g rd n sg => clear (c.setG rd (loadValue (a.num 0 n) n sg)) (RegSet.ofG rd)
  | .pair rd => clear ((c.setG rd (word (a.num 0 8))).setG (rd + 1) (word (a.num 8 8))) ((RegSet.ofG rd).union (RegSet.ofG (rd + 1)))
  | .v rd m => clear (c.setV rd (mergeLoad (c.vr rd) m a)) (RegSet.ofV rd)
  | .far rd n => c.setG rd (word (a.num 0 n))
  | .test rd => c.setG rd (word (a.num 0 1))
  | _ => c

/-- The destination registers of an access. -/
def Dest.regs : Dest → RegSet
  | .g rd _ _ => RegSet.ofG rd
  | .pair rd => (RegSet.ofG rd).union (RegSet.ofG (rd + 1))
  | .v rd _ => RegSet.ofV rd
  | _ => {}

/-- The parameter block of a command has come, or has failed. -/
def Cmd.gotBlock (m : Cmd) (a : Access) : Cmd :=
  match a.failure with
  | some (true, x) => { m with ecc := some x }
  | some (false, x) => { m with rnr := some x }
  | none => { m with block := (rangeFrom 0 64).map (SMap.get 0 a.data) }

/-- An access with every reply in takes effect (R220, R133, R246, R247, R405, R249). A parked FWAIT that wakes keeps its program counter, and issues again when its thread binds (R89); one whose thread is bound is done (DEDUCED, log 16). -/
def State.complete (s : State) (t : Thr) (a : Access) : State :=
  let c := s.ctx t
  let c := { c with iq := c.iq.filter (fun x => x.id != a.id) }
  let failing (c : Ctx) (d : Option RegSet) : Ctx :=
    match a.failure with
    | some (ecc, va) => c.fail d ecc a.epc va
    | none => c
  match a.dest with
  | .far _ _ => ((s.setCtx t { (if a.failure.isSome then failing c none else c.landLoad a) with busy := .none })).wake t
  | .test _ => s.setCtx t { (if a.failure.isSome then failing c none else c.landLoad a) with busy := .none }
  | .wake =>
    let c' := if a.failure.isSome then failing c none else if c.st = .waiting then { c with woken := some c.pc } else c.advance {} false
    (s.setCtx t { c' with busy := .none, wait := c.wait }).wake t
  | .expect f =>
    if a.failure.isNone && decide (0 < a.num 0 1) then (s.setCtx t c.undone).raise t { code := cEXPECT_OVF, sub := 0, epc := a.epc, vaddr := f }
    else s.setCtx t { failing c none with busy := .none }
  | .block i =>
    let s := s.setCtx t c
    match SMap.find s.cmds i with
    | some m => s.setCmd (m.gotBlock a)
    | none => s
  | .draw tag n =>
    let s := s.setCtx t c
    let k := s.core t.core
    s.setCore t.core { k with drawq := k.drawq.map (fun d => if d.tag = tag then { d with filled := true, failed := a.failure, val := word (a.num 0 n) } else d) }
  | _ => s.setCtx t (if a.failure.isSome then failing c (some a.dest.regs) else c.landLoad a)

/-- A piece of an access has come back, or is gone: the access completes with the last one. -/
def State.pieceBack (s : State) (t : Thr) (acc : Nat) (data : List (Nat × Byte)) (ecc rnr : Option Word) : State :=
  let c := s.ctx t
  match c.iq.find? (fun a => a.id == acc) with
  | none => s
  | some a =>
    let a := { a with
      left := a.left - 1
      data := data.foldl (fun m p => SMap.put 0 m p.1 p.2) a.data
      ecc := minAddr a.ecc ecc
      rnr := minAddr a.rnr rnr }
    if a.left = 0 then s.complete t a
    else s.setCtx t { c with iq := c.iq.map (fun x => if x.id = acc then a else x) }

/-- A piece of a command has come back or performed (R252). -/
def State.cmdBack (s : State) (id : Nat) (data : List (Nat × Byte)) (ecc rnr : Option Word) : State :=
  match SMap.find s.cmds id with
  | none => s
  | some c => s.setCmd { c.fill data with out := c.out - 1, ecc := minAddr c.ecc ecc, rnr := minAddr c.rnr rnr }

/-- The answer of a request whose every part has come back. -/
def HostAcc.answer (h : HostAcc) (req : Nat) : HostAns :=
  { req := req, error := h.error, data := if h.error then [] else (rangeFrom 0 h.reads).map (SMap.get 0 h.data) }

/-- A piece of a host request has come back, or is gone: with the last one the host port has its answer, an error where a piece failed (R416). -/
def State.hostBack (s : State) (part req : Nat) (data : List (Nat × Byte)) (bad : Bool) : State :=
  let p := s.part part
  match SMap.find p.asked req with
  | none => s
  | some h =>
    let h := { h with left := h.left - 1, data := data.foldl (fun m x => SMap.put 0 m x.1 x.2) h.data, error := h.error || bad }
    if h.left = 0 then s.setPart part { p with asked := SMap.del p.asked req, answers := p.answers ++ [h.answer req] }
    else s.setPart part { p with asked := SMap.ins p.asked req h }

/-! ## REFUSE, REMOVE and the retries (R216, R282) -/

/-- TRIES and SHIFT of s.rnrlimit (R142). -/
def Env.tries (e : Env) : Nat := e.rnrlimit % 2 ^ 8
def Env.shift (e : Env) : Nat := e.rnrlimit / 2 ^ 8 % 2 ^ 5

/-- A message or a start message that a thread has sent. -/
def EKind.sent : EKind → Bool
  | .msg | .start .. => true
  | _ => false

/-- The entry names the gang whose thread or core sent it, which may be saved while it is on its way: messages, their acknowledgements, start messages. -/
def EKind.named (k : EKind) : Bool := k.sent || k == .ack

/-- A counter of the entry's gang counted on its source core while the gang holds it: the counters of a detached gang do not count (R401, R414). -/
def State.countFor (s : State) (e : Entry) (n : Nat) : State :=
  if !e.kind.named || (s.core e.env.core).gang == some e.gang then s.countAt e.env.core n else s

/-- REMOVE (R216, R279): the entry leaves its channel, its bytes never performed, and its source learns of it; the failure of a message whose sender has retired is dropped (DEDUCED, log 38). -/
def State.remove (s : State) (e : Entry) : State :=
  let s := (s.dropEntry e.id).countFor e 0x034
  match e.src with
  | .thr t =>
    match e.kind with
    | .sachet => (s.setCtx t { s.ctx t with busy := .migr (some .removed) e.low }).settleAt t.core
    | .msg | .start .. =>
      let lost (c : Ctx) : Ctx := c.fail none false e.epc (word e.tgt)
      if (s.core t.core).gang = some e.gang then (if (s.ctx t).live then s.setCtx t (lost (s.ctx t)) else s).settleAt t.core
      else
        -- The sender's gang is saved: its thread meets the failure after restore.
        match SMap.find s.gangs e.gang with
        | some g =>
          match SMap.find g.saved t.core with
          | some k =>
            match SMap.find k.ctxs t.id with
            | some c => if c.live then s.setGang e.gang { g with saved := SMap.ins g.saved t.core (k.setCtx t.id (lost c)) } else s
            | none => s
          | none => s
        | none => s
    | .probe => s
    | _ =>
      if (s.ctx t).iq.any (fun a => a.id == e.acc && a.load) then s.pieceBack t e.acc [] none (some e.low)
      else if (s.ctx t).live then s.setCtx t ((s.ctx t).failStore e.acc e.epc e.low)
      else s
  | .cmd i => s.cmdBack i [] none (some ((e.bytes.head?.map EByte.va).getD e.low))
  | .host part => s.hostBack part e.acc [] true
  | _ => s

/-- REFUSE (R216, R281): the entry keeps its place in its channel, and the refusal leaves for its source port in the reply class. -/
def State.refuse (s : State) (e : Entry) : State :=
  let r : Entry := { id := s.next, src := e.src, port := e.port, tgt := e.tgt, cls := .reply, phase := .reply, kind := .refusal e.id, env := e.env, gang := e.gang }
  let s := s.setEntry { e with refused := true }
  { s with ents := s.ents ++ [r], next := s.next + 1 }

/-- A refusal has reached the source port (R282): the entry waits for its delay, or is removed when its retries have run out (DEDUCED, log 36). -/
def State.refusalBack (s : State) (e : Entry) : State :=
  let s := s.countFor e 0x033
  let k := e.tries + 1
  if e.env.tries < k then s.remove e
  else s.setEntry { e with refused := false, tries := k, due := s.time.toNat + Nat.max 1 (e.env.rnrbase * 2 ^ Nat.min (k - 1) e.env.shift) }

/-- RNR_RETRY (R282): the delay is over and the entry is sent again in its place. -/
def execRnrRetry (s : State) : Host.Outcome State Fault Refusal :=
  match s.entry s.sel.a with
  | none => .next s
  | some e =>
    if e.phase = .channel && !e.refused && decide (0 < e.due ∧ e.due ≤ s.time.toNat) then .next (s.setEntry { e with due := 0 }) else .next s

/-! ## ARRIVE (R216) -/

/-- The pages an entry touches. -/
def Entry.pages (e : Entry) : List Nat := dedup (e.bytes.map (fun b => pageOf b.loc))

/-- The entries are in one channel CH(s, b, c); a piece of several bank groups is in the channel of each (R123, R211). -/
def sameChannel (a b : Entry) : Bool := a.phase == .channel && a.port == b.port && a.cls == b.cls && a.banks.any b.banks.contains

/-- Nothing older in the channel holds the entry back. -/
def State.mayArrive (s : State) (e : Entry) : Bool :=
  let ch := (olderThan e.id s.ents).filter (fun x => sameChannel x e)
  e.phase == .channel && e.due == 0 && !e.refused
    && (match e.cls with
      | .message => ch.isEmpty
      | _ => !ch.any (fun x => x.pages.any e.pages.contains) && (e.kind != .probe || !ch.any (fun x => x.src == e.src)))

/-- A core's gang is there and not detaching (R286) (DEDUCED, log 46). -/
def State.gangHere (s : State) (n : Nat) : Bool := (s.core n).gang.isSome && !((s.gangOf n).map Gang.halting).getD false

/-- The cores at whose scratchpad, slice or flag words an SRAM location of this module stands. -/
def coresAt (l : Nat) : List Nat :=
  let f := locOff l
  if f < 0x10000000 then [512 * locOwner l + f / 0x80000]
  else if ctlBase ≤ f ∧ f < imageBase then [flagCore l]
  else clusterCores (8 * locOwner l + (f - 0x10000000) / 0x2000000)

/-- The command is a push (R253). -/
def State.isPush (s : State) (i : Nat) : Bool :=
  match (SMap.find s.cmds i).map Cmd.instr with
  | some (.xpush ..) | some (.xpushr ..) => true
  | _ => false

/-- The gang whose thread or command sent an entry. -/
def State.gangFrom (s : State) (e : Entry) : Option Nat :=
  match e.src with
  | .thr t => (s.core t.core).gang
  | .cmd i => (SMap.find s.cmds i).map Cmd.gang
  | _ => none

/-- The gang holds its cores and is not detaching (R286) (DEDUCED, log 46). -/
def Gang.standing (g : Gang) : Bool := !g.halting && (g.st == .running || g.st == .reported)

/-- The SRAM location of this module is in the gang's place: a scratchpad or flag word of a core of its, or a byte of a slice of theirs that its leases cover. -/
def State.inPlace (s : State) (g : Gang) (l : Nat) : Bool :=
  let r := g.record
  let window := mkLoc blendModule (locOwner l - r.potbase g.part) (locOff l)
  g.cores.any (coresAt l).contains
    && ((coresAt l).length == 1 || r.lease.any (fun p => s.leaseCovers p.2 l || (decide (r.potbase g.part ≤ locOwner l) && s.leaseCovers p.2 window)))

/-- The BLENDID that an entry's sender has; an entry of another module carries it. -/
def State.blendFrom (s : State) (e : Entry) : Option Nat :=
  match e.src with
  | .peer _ => some e.gang
  | _ => (s.gangFrom e).bind (fun gid => (SMap.find s.gangs gid).map (fun g => g.record.blendid))

/-- A gang that has exited or ended, and so is detached for good (R286, R319), is the one that an entry is addressed to: its command was issued before that, or its sender is of the gang's blend (DEDUCED, log 46). -/
def State.aimedAt (s : State) (e : Entry) (g : Gang) : Bool :=
  g.st == .ended
    && ((match e.src with | .cmd i => decide (i < g.endNum) | _ => false) || (decide (0 < g.endNum ∧ 1 < g.record.size) && s.blendFrom e == some g.record.blendid))

/-- The gang whose place a push's byte is in is detaching, detached or not yet restored (R281); where a standing gang, or the sender's own, has the place, it is the one addressed (DEDUCED, log 46). -/
def State.awayAt (s : State) (e : Entry) (l : Nat) : Bool :=
  let own := s.gangFrom e
  let here := s.gangs.filter (fun p => s.inPlace p.2 l)
  !here.any (fun p => own == some p.1 || p.2.standing) && here.any (fun p => p.2.halting || p.2.st == .saved || p.2.st == .resumed || s.aimedAt e p.2)

/-- The gang of rank `r` in the sender's blend stands in this module (R281, R309): the sender's own, or another of its BLENDID; a gang launched alone is a blend of its own (R20). -/
def State.rankHere (s : State) (e : Entry) (r : Nat) : Bool :=
  s.gangs.any (fun p => p.2.record.rank == r && p.2.standing
    && (s.gangFrom e == some p.1 || decide (1 < p.2.record.size) && s.blendFrom e == some p.2.record.blendid))

/-- The entry is a window access or a push to a gang that is not there (R281, R286): the window names a rank of the sender's blend, whichever gang now holds the cores there (DEDUCED, log 46). -/
def State.detachedPeer (s : State) (e : Entry) : Bool :=
  let own := s.gangFrom e
  let push := match e.src, e.kind with
    | .cmd i, .engWrite => s.isPush i
    | .cmd i, .landing => s.isPush i
    | .peer _, .engWrite => true
    | .peer _, .landing => true
    | _, _ => false
  e.bytes.any (fun b => locModule b.loc == ownModule && decide (locOwner b.loc < 32)
    && (if moduleOf b.va = blendModule then !s.rankHere e (blendRankOf b.va) && !(own.isSome && (coresAt b.loc).any (fun n => (s.core n).gang == own))
      else push && s.awayAt e b.loc))

/-- The entry is a flag write to a core of another world (R251, R281). -/
def State.flagClash (s : State) (e : Entry) : Bool :=
  match e.kind with
  | .landing | .flagSet => e.bytes.any (fun b => locModule b.loc == ownModule && (s.core (flagCore b.loc)).secure != e.env.secure)
  | _ => false

/-- The translations of an entry's bytes. -/
def State.xlats (s : State) (e : Entry) : List Xlat := e.bytes.map (fun b => s.xlat e.env b.loc)

/-- The walks that missing translations start (R203, R387). -/
def State.walksFor (s : State) (e : Entry) : State :=
  e.bytes.foldl (fun s b => match s.xlat e.env b.loc with | .miss k => s.startWalk (locOwner b.loc) k | _ => s) s

/-- The bytes at their physical locations. -/
def translated (l : List EByte) (x : List Xlat) : List EByte :=
  (l.zip x).map (fun p => match p.2 with | .ok a => { p.1 with loc := a } | _ => p.1)

/-- The pot of a source port. -/
def portPot (port : Nat) : Nat := if port < 16384 then port / 512 else (port - 16384) % 32

/-- The link on which an entry leaves or reaches the module (R276, R415): a Brixhild port 0-35, or the host's UCIe link 36; none within the module. -/
def Entry.link (e : Entry) : Option Nat :=
  let m := e.tgt / 2 ^ 20
  if e.cls == .message || e.cls == .reply || e.kind == .sachet then none
  else if m ≠ ownModule then some ((Nat.min m 0xFFF + portPot e.port) % 36)
  else
    match e.src with
    | .host _ => some 36
    | _ => if e.tgt % 2 ^ 20 = 32 * 1024 + 66 then some 36 else none

/-- The entry's link stands still while it retrains; a failed link has been left for a new route (R279). -/
def State.linkHeld (s : State) (e : Entry) : Bool := (e.link.map (fun n => (s.link n).retraining)).getD false

/-- An entry has come through its link. -/
def State.crossed (s : State) (e : Entry) : State :=
  match e.link with
  | some n => s.linkPassed n
  | none => s

/-- The further parts of a piece that has arrived, one in the ingress of each bank group. -/
def partEntries (e : Entry) : Nat → List (Nat × List EByte) → List Entry
  | _, [] => []
  | n, (b, l) :: r => { e with id := n, tgt := b, bytes := l, phase := .ingress } :: partEntries e (n + 1) r

/-- A load waits for the reply of every part. -/
def Ctx.parted (c : Ctx) (acc n : Nat) : Ctx := { c with iq := c.iq.map (fun a => if a.id = acc && a.load then { a with left := a.left + n } else a) }

/-- A host request waits for every part. -/
def State.hostParted (s : State) (part req n : Nat) : State :=
  let p := s.part part
  match SMap.find p.asked req with
  | some h => s.setPart part { p with asked := SMap.ins p.asked req { h with left := h.left + n } }
  | none => s

/-- A piece accepted by its target: the bytes of each bank group enter that group's ingress (R211, R216). -/
def State.accept (s : State) (e : Entry) : State :=
  match splitBanks e.bytes with
  | (b, l) :: x :: r =>
    let s := s.moveEntry { e with phase := .ingress, tgt := b, bytes := l }
    let es := partEntries e s.next (x :: r)
    let s := { s with ents := s.ents ++ es, next := s.next + es.length }
    match e.src with
    | .thr t => s.setCtx t ((s.ctx t).parted e.acc es.length)
    | .cmd i =>
      match SMap.find s.cmds i with
      | some c => s.setCmd { c with out := c.out + es.length }
      | none => s
    | .host part => s.hostParted part e.acc es.length
    | _ => s
  | _ => s.moveEntry { e with phase := .ingress }

/-- An access that arrives, with its translations; or the refusal (DEDUCED, log 49). -/
def State.arrive (s : State) (e : Entry) : State :=
  let x := s.xlats e
  if s.detachedPeer e || s.flagClash e then s.refuse e
  else if x.all (fun r => match r with | .ok _ => true | _ => false) then s.accept { e with bytes := translated e.bytes x }
  else (s.walksFor e).refuse e

/-- The entry is a message, a start message or a sachet, which arrive by rows of their own. -/
def Entry.packet (e : Entry) : Bool :=
  match e.kind with
  | .msg | .start .. | .sachet | .ack | .answer _ | .refusal _ => true
  | _ => false

/-- The class in which an access travels (R212): the reads, writes and flag writes of engines in class engine, a thread's or kettle thread's requests in class store. -/
def EKind.cls : EKind → Cls
  | .engRead | .engWrite | .engAdd | .engClear | .landing | .flagSet => .engine
  | _ => .store

/-- An access of another module enters the channel of its source (R280): it carries its world, address space, sub-page regions and back-off values and its sender's BLENDID, and addresses this module's owners untranslated. -/
def State.foreign (s : State) (m port blend : Nat) (kind : EKind) (env : Env) (bytes : List EByte) : State :=
  let bs := bytes.map (fun b => { b with loc := mkLoc ownModule (locOwner b.loc) (locOff b.loc), done := false })
  let e : Entry :=
    { id := s.next, src := .peer m, port := 2 ^ 16 * (m + 1) + port, tgt := bankOf ((bs.head?.map EByte.loc).getD 0), cls := kind.cls, phase := .channel,
      kind := kind, bytes := bs, env := { env with core := 2 ^ 15 }, gang := blend, low := (bs.head?.map EByte.va).getD 0 }
  if bs.isEmpty || e.packet || decide (66 < locOwner ((bs.head?.map EByte.loc).getD 0)) then s else { s with ents := s.ents ++ [e], next := s.next + 1 }

/-- The entry is an access that may be refused outside this model: one for another module, or for the host window, whose owner, the host die, translates it (R201, R203); a probe is never refused (R281). -/
def Entry.far (e : Entry) : Bool := (decide (e.tgt / 2 ^ 20 ≠ ownModule) || e.bytes.any (fun b => locOwner b.loc == 66)) && e.kind != .probe

/-- ARRIVE and REFUSE; the environment brings the accesses of other modules, and `flag` is the refusal with which another module, or the host die, answers an entry sent there (R203, R281, R282) (DESIGN CHOICE, log 8). -/
def execArrive (s : State) : Host.Outcome State Fault Refusal :=
  match s.sel.inp with
  | .foreign m port blend kind env bytes => .next (s.foreign m port blend kind env bytes)
  | _ =>
    match s.entry s.sel.a with
    | none => .next s
    | some e => if !s.mayArrive e || e.packet || s.linkHeld e then .next s
      else if s.sel.flag && e.far then .next ((s.crossed e).refuse e) else .next ((s.crossed e).arrive e)

/-! ## PERFORM (R217-R219) -/

/-- The entry performs whole: an atomic, LDS, or an access to a flag word (R218). -/
def Entry.whole (e : Entry) : Bool :=
  match e.kind with
  | .atomic .. | .lds _ | .fset | .fclr | .ftst | .fwait _ | .expect _ | .landing | .flagSet => true
  | _ => false

/-- No older entry of the bank group's ingress still has the byte to perform. -/
def State.byteFree (s : State) (e : Entry) (b : EByte) : Bool :=
  !((olderThan e.id s.ents).any (fun x => x.phase == .ingress && x.tgt == e.tgt && x.bytes.any (fun y => !y.done && sameByte (x.granular || e.granular) y b)))

/-- Every granule of the entry is full. -/
def State.allFull (s : State) (e : Entry) : Bool := e.bytes.all (fun b => s.isFull b.loc)

/-- An older LDS of the wait list waits on a granule of the entry. -/
def State.olderWaiter (s : State) (e : Entry) (due : Nat) : Bool :=
  s.ents.any (fun x => x.id != e.id && x.phase == .waitlist && (match x.kind with | .lds _ => true | _ => false)
    && decide (due = 0 ∨ x.due < due) && x.bytes.any (fun y => e.bytes.any (sameByte true y)))

/-- Uncorrectable data among the bytes: the address a failure names. -/
def State.eccOf (s : State) (e : Entry) (l : List EByte) : Option Word :=
  match l.find? (fun b => s.isPoison b.loc) with
  | some b => some (match e.src with | .cmd _ => b.va | _ => e.low)
  | none => none

/-- Every byte marked performed, with the values of a list. -/
def valued (l : List EByte) (v : List Byte) : List EByte := (l.zip v).map (fun p => { p.1 with val := p.2, done := true })

/-- All the bytes of an entry read in one move. -/
def State.readAll (s : State) (e : Entry) : Entry :=
  { e with bytes := e.bytes.map (fun b => { b with val := s.readLoc b.loc, done := true }), ecc := s.eccOf e e.bytes }

/-- Reply kinds: what comes back to the source once performed. -/
def Entry.replies (e : Entry) : Bool :=
  match e.kind with
  | .load | .atomic .. | .lds _ | .ftst | .fwait _ | .expect _ | .engRead => true
  | _ => match e.src with | .host _ => true | _ => false

/-- A fully performed entry leaves its ingress: a reply goes back, or a command's write is counted, or it is gone. -/
def State.performed (s : State) (e : Entry) : State :=
  if e.replies then s.moveEntry { e with phase := .reply }
  else
    match e.src with
    | .cmd i => (s.dropEntry e.id).cmdBack i [] none none
    | _ => s.dropEntry e.id

/-- The entry with the bytes at some places marked performed. -/
def Entry.mark (e : Entry) (p : EByte → Bool) : Entry := { e with bytes := e.bytes.map (fun b => if p b then { b with done := true } else b) }

/-- An entry some of whose bytes have performed: it leaves with the last of them. -/
def State.settleEntry (s : State) (e : Entry) : State := if e.bytes.all EByte.done then s.performed e else s.setEntry e

/-- The bytes of the entry in the granule of `b`. -/
def Entry.granuleOf (e : Entry) (b : EByte) : List EByte := e.bytes.filter (fun x => x.loc / 16 == b.loc / 16)

/-- A write that has replaced all of a granule leaves no uncorrectable data in it (DEDUCED, log 21). -/
def State.healed (s : State) (e : Entry) (b : EByte) : State :=
  let g := e.granuleOf b
  if g.length = 16 && g.all EByte.done then { s with poison := SMap.put false s.poison (b.loc / 16) false } else s

/-- One store byte performs; `full` where the entry sets full bits, with the last byte it writes in a granule (R219). -/
def State.performStore (s : State) (e : Entry) (b : EByte) (full : Bool) : State :=
  let e := e.mark (fun x => x.idx == b.idx && x.loc == b.loc)
  let s := (s.writeLoc b.loc b.val).healed e b
  let s := if full && hasFull b.loc && (e.granuleOf b).all EByte.done then s.setFull b.loc true else s
  s.settleEntry e

/-- One FP32 addition of an engine: the word of four bytes that holds `b` (R264, R218). -/
def State.performAdd (s : State) (e : Entry) (b : EByte) : State :=
  let w := e.bytes.filter (fun x => x.idx / 4 == b.idx / 4)
  let a := w.headD b
  let n := w.length
  let x := BitVec.ofNat 32 (ofLeBytes (w.map EByte.val))
  let old := BitVec.ofNat 32 (s.readNat a.loc n)
  let e := { e.mark (fun x => x.idx / 4 == b.idx / 4) with ecc := minAddr e.ecc (s.eccOf e w) }
  let s := if (s.eccOf e w).isSome then s else s.writeNat a.loc n (fadd32 .rne old x).1.toNat
  let s := if hasFull a.loc && (e.granuleOf a).all EByte.done then s.setFull a.loc true else s
  if e.bytes.all EByte.done then
    match e.src with
    | .cmd i => (s.dropEntry e.id).cmdBack i [] e.ecc none
    | _ => s.dropEntry e.id
  else s.setEntry e

/-- An atomic performs (R218, R236). -/
def State.performAtomic (s : State) (e : Entry) (op n b c : Nat) : State :=
  let l := (e.bytes.headD ⟨0, 0, 0, 0, false⟩).loc
  let r := s.readAll e
  if r.ecc.isSome then s.performed r
  else
    match atomicNew op n (s.readNat l n) b c with
    | some x => (s.writeNat l n x).performed r
    | none => s.performed r

/-- An LDS performs all its bytes, clearing the bits where it says so (R241), also where its data are uncorrectable and it brings back the failure (DESIGN CHOICE, log 87). -/
def State.performLds (s : State) (e : Entry) (clear : Bool) : State :=
  let r := s.readAll e
  let s := if clear then e.bytes.foldl (fun s b => s.setFull b.loc false) s else s
  s.performed r

/-- The flag word of an entry. -/
def Entry.flagLoc (e : Entry) : Nat := (e.bytes.headD ⟨0, 0, 0, 0, false⟩).loc / 8 * 8

/-- The first byte of a flag entry carries its answer. -/
def Entry.answering (e : Entry) (x : Nat) : Entry :=
  { e with bytes := e.bytes.map (fun b => { b with done := true, val := if b.idx = 0 then BitVec.ofNat 8 x else 0 }) }

/-- SET of a flag word becomes 0. -/
def State.clearSet (s : State) (l : Nat) : State := s.setFlag l (s.flag l &&& ~~~ 1)

/-- An entry put in the wait list, behind those already there. -/
def State.toWait (s : State) (e : Entry) : State :=
  { s with next := s.next + 1 }.setEntry { e with phase := .waitlist, due := s.next }

/-- The entry brings back what its flag word holds: FTST, FWAIT, EXPECT. -/
def EKind.awaitsFlag : EKind → Bool
  | .ftst | .fwait _ | .expect _ => true
  | _ => false

/-- An entry performs whole (R218, R219, R241, R246, R247, R405). A flag word with an uncorrectable error gives the thread that awaits it ECC_UNCORR, and stays as it is (R425). An LDS whose granules are full waits behind an older one of the wait list on any of them (DESIGN CHOICE, log 65). -/
def State.performWhole (s : State) (e : Entry) : State :=
  let l := e.flagLoc
  let bad := s.eccOf e e.bytes
  if e.kind.awaitsFlag && bad.isSome then s.performed { e.answering 0 with ecc := bad }
  else match e.kind with
  | .atomic op n b c => s.performAtomic e op n b c
  | .lds clear => if s.allFull e && !s.olderWaiter e 0 then s.performLds e clear else s.toWait e
  | .fset => (s.setSet l).performed (e.answering 0)
  | .fclr => (s.clearSet l).performed (e.answering 0)
  | .ftst => s.performed (e.answering ((s.flag l).toNat % 2))
  | .fwait clear =>
    if (s.flag l).toNat % 2 = 1 then (if clear then s.clearSet l else s).performed (e.answering 0) else s.toWait e
  | .expect n =>
    let w := s.flag l
    if 2 ^ 20 ≤ w.bits 32 20 + n then s.performed (e.answering 1)
    else (s.setFlag l (word (w.toNat + 2 ^ 32 * n))).performed (e.answering 0)
  | .landing => (s.landing l).performed (e.answering 0)
  | .flagSet => (s.setSet l).performed (e.answering 0)
  | _ => s

/-- One byte of an entry performs. -/
def State.performByte (s : State) (e : Entry) (b : EByte) : State :=
  match e.kind with
  | .load =>
    s.settleEntry { e with
      -- Every lane that reads the byte receives the value of this one event (R132).
      bytes := e.bytes.map (fun x => if x.loc = b.loc then { x with val := s.readLoc b.loc, done := true } else x)
      ecc := minAddr e.ecc (s.eccOf e [b]) }
  | .engRead =>
    -- A byte of uncorrectable data brings nothing (R252, R265).
    let bad := s.isPoison b.loc
    s.settleEntry { e with
      bytes := e.bytes.filterMap (fun x => if x.idx = b.idx && x.loc = b.loc then (if bad then none else some { x with val := s.readLoc b.loc, done := true }) else some x)
      ecc := minAddr e.ecc (s.eccOf e [b]) }
  | .store => s.performStore e b false
  | .stf | .engWrite => s.performStore e b true
  | .feclr | .engClear => (s.setFull b.loc false).settleEntry (e.mark (fun x => x.loc / 16 == b.loc / 16))
  | .engAdd => s.performAdd e b
  | _ => s

/-- PERFORM: byte `i` of an ingress entry, or all of an entry that performs whole, when no older entry still has those bytes to perform. -/
def execPerform (s : State) : Host.Outcome State Fault Refusal :=
  match s.entry s.sel.a with
  | none => .next s
  | some e =>
    if e.phase ≠ .ingress then .next s
    else if e.whole then (if e.bytes.all (s.byteFree e) then .next (s.performWhole e) else .next s)
    else
      match e.bytes[s.sel.b]? with
      | none => .next s
      | some b =>
        let with' := if e.kind = .engAdd then e.bytes.filter (fun x => x.idx / 4 == b.idx / 4) else [b]
        if b.done || !with'.all (s.byteFree e) then .next s else .next (s.performByte e b)

/-- LDS_PERFORM (R219): a waiting LDS performs once its granules are full and no older one waits on any of them. -/
def execLdsPerform (s : State) : Host.Outcome State Fault Refusal :=
  match s.entry s.sel.a with
  | none => .next s
  | some e =>
    match e.kind with
    | .lds clear => if e.phase = .waitlist && s.allFull e && !s.olderWaiter e e.due then .next (s.performLds { e with due := 0 } clear) else .next s
    | _ => .next s

/-! ## ECHO and REPLY (R220, R221) -/

/-- An entry of the probe's thread that arrived before it, an older probe among them, is still in IN(b) or WL(b) (R221). An FWAIT that waits at its flag word stands in neither, and holds back no echo (DEDUCED, log 80). -/
def State.echoHeld (s : State) (e : Entry) : Bool :=
  (olderThan e.id s.ents).any (fun x => x.src == e.src && x.tgt == e.tgt
    && (x.phase == .ingress || x.phase == .waitlist && (match x.kind with | .fwait _ => false | _ => true)))

/-- TB(t) without the bank group that has answered a probe, unless EG(t) received an entry for it after the probe (R221). -/
def Ctx.echoed (c : Ctx) (e : Entry) : Ctx := { c with tb := c.tb.filter (fun p => p.1 != e.tgt || decide (e.id < p.2)) }

/-- ECHO. -/
def execEcho (s : State) : Host.Outcome State Fault Refusal :=
  match s.entry s.sel.a with
  | none => .next s
  | some e =>
    if e.kind ≠ .probe || e.phase ≠ .ingress || s.echoHeld e then .next s
    else
      let s' := s.moveEntry { e with phase := .reply }
      match e.src with
      | .thr t => .next (s'.setCtx t ((s'.ctx t).echoed e))
      | _ => .next s'

/-- The values an entry brings back, by place in its access. -/
def Entry.data (e : Entry) : List (Nat × Byte) := e.bytes.map (fun b => (b.idx, b.val))

/-- The access of a reply is a DLD. -/
def State.isDraw (s : State) (e : Entry) : Bool :=
  match e.src with
  | .thr t => (s.ctx t).iq.any (fun a => a.id == e.acc && (match a.dest with | .draw _ _ => true | _ => false))
  | _ => false

/-- The command loses all of a read piece that failed, which then writes nothing (R252); a reduction loses single elements (R265), a collective's and a caddy's data are dealt with by element and vector (R298, R377) (DEDUCED, log 47). -/
def State.losesPiece (s : State) (i : Nat) : Bool :=
  match (SMap.find s.cmds i).map Cmd.instr with
  | some (.xpush ..) | some (.xpushr ..) | some (.trayGather ..) | some (.trayScatter ..) | some (.traySub ..) => true
  | _ => false

/-- A reply reaches its source. -/
def State.replyBack (s : State) (e : Entry) : State :=
  let s := s.dropEntry e.id
  match e.kind with
  | .refusal i => (match s.entry i with | some x => s.refusalBack x | none => s)
  | _ =>
    match e.src with
    | .thr t => if e.kind = .probe then s else s.pieceBack t e.acc e.data e.ecc none
    | .cmd i => s.cmdBack i (if e.ecc.isSome && s.losesPiece i then [] else e.data) e.ecc none
    | .host part => s.hostBack part e.acc e.data e.ecc.isSome
    | _ => s

/-- REPLY. -/
def execReply (s : State) : Host.Outcome State Fault Refusal :=
  match s.entry s.sel.a with
  | none => .next s
  | some e => if e.phase ≠ .reply || s.isDraw e then .next s else .next (s.replyBack e)

/-- DLD_REPLY (R271): the reply of a DLD fills its draw-queue entry. -/
def execDldReply (s : State) : Host.Outcome State Fault Refusal :=
  match s.entry s.sel.a with
  | none => .next s
  | some e => if e.phase ≠ .reply || !s.isDraw e then .next s else .next (s.replyBack e)

end Sys2Proof.Machine
end

