-- ==== Sys2Proof/Machine/Slots.lean ====
section
/-! DEFINITION. Contexts and slots: arrivals of start messages, messages and sachets, binding, parking, aging and the return from spill (spec/15_scheduler.md R310-R316, 16_migration.md R341-R343, R354-R356). -/

namespace Sys2Proof.Machine

/-! ## Arrivals -/

/-- The context that a start message creates (R78). -/
def startCtx (time pc arg : Word) (prio : Nat) : Ctx :=
  { st := .ready, pc := pc, enter := .start, g := SMap.put 0 [] 1 arg, prio := prio, stamp := time }

/-- The start messages that a core passes on (R310): a pot root to the other cluster roots of its pot, and as root of its own cluster, as each cluster root does, to the other member cores of the cluster. -/
def startHops (cores : List Nat) (n hop : Nat) : List (Nat × Nat) :=
  let roots := (dedup ((cores.filter (fun m => potOf m == potOf n)).map clusterOf)).filterMap (fun c => cores.find? (fun m => clusterOf m == c))
  (if hop = 2 then (roots.filter (fun m => m != n)).map (fun m => (m, 1)) else [])
    ++ (if 0 < hop then (cores.filter (fun m => clusterOf m == clusterOf n && m != n)).map (fun m => (m, 0)) else [])

/-- Start messages of a gang from one port to some cores, each with what that core passes on (R310). -/
def startEntries (gid port : Nat) (pc arg : Word) (prio : Nat) (env : Env) : Nat → List (Nat × Nat) → List Entry
  | _, [] => []
  | id, (n, hop) :: t =>
    { id := id, src := .none, port := port, tgt := n, cls := .message, phase := .channel, kind := .start pc arg prio hop, env := env, gang := gid }
      :: startEntries gid port pc arg prio env (id + 1) t

/-- The start messages that a core which has taken one passes on. -/
def State.passOn (s : State) (e : Entry) (pc arg : Word) (prio hop : Nat) : State :=
  match SMap.find s.gangs e.gang with
  | none => s
  | some g =>
    let l := startHops g.cores e.tgt hop
    { s with ents := s.ents ++ startEntries e.gang e.tgt pc arg prio e.env s.next l, next := s.next + l.length }

/-- START_MESSAGE_ARRIVAL (R310, R312, R332): a READY context, or receiver-not-ready while neither the store nor the run-queue area has room; a start of a gang that has ended is discarded (DEDUCED, log 71); a root of the spanning tree passes the start on. -/
def execStartMessageArrival (s : State) : Host.Outcome State Fault Refusal :=
  match s.entry s.sel.a with
  | none => .next s
  | some e =>
    match e.kind with
    | .start pc arg prio hop =>
      if !s.mayArrive e then .next s
      else if (s.core e.tgt).gang ≠ some e.gang then .next (s.dropEntry e.id)
      else
        match s.arriveCtx e.tgt (startCtx s.time pc arg prio) with
        | some s => .next ((s.dropEntry e.id).passOn e pc arg prio hop)
        | none => .next (s.refuse e)
    | _ => .next s

/-- The context's sachet has been accepted elsewhere: its name is current no longer (R358). -/
def Ctx.gone (c : Ctx) : Bool :=
  match c.busy with
  | .migr (some .accepted) _ => true
  | _ => false

/-- The context that holds a name on a core, if the name is current (R338). -/
def Core.named (c : Core) (slot inc : Nat) : Option Nat :=
  let x := SMap.get ({} : Slot) c.slots slot
  match x.last with
  | some i =>
    let y := SMap.get ({} : Ctx) c.ctxs i
    if x.inc = inc && y.live && !y.gone then some i else none
  | none => none

/-- The acknowledgement of a message (R343): KIND 1 delivered, 2 orphaned, to the sender's name. -/
def State.acknowledge (s : State) (e : Entry) (kind : Nat) : State :=
  match e.pay with
  | w0 :: w1 :: _ =>
    if w0.bits 44 1 = 0 || w0.bits 45 2 ≠ 0 then s
    else
      let a0 := word (w1.bits 0 32 + 2 ^ 32 * w0.bits 32 8 + 2 ^ 45 * kind + validBit)
      let a : Entry :=
        { id := s.next, src := .none, port := e.tgt, tgt := w0.bits 0 14, cls := .reply, phase := .channel, kind := .ack, env := s.env e.tgt,
          pay := [a0, word (w0.bits 0 32), w1, 0, 0, 0], gang := e.gang }
      { s with ents := s.ents ++ [a], next := s.next + 1 }
  | _ => s

/-- The number of data messages in a receive queue. -/
def Core.dataMessages (c : Core) : Nat := (c.rq.filter (fun m => m.w0.bits 45 2 == 0)).length

/-- A message at a core of its gang (R341 steps 2 to 4). -/
def State.takeMessage (s : State) (e : Entry) : State :=
  let n := e.tgt
  let k := s.core n
  let w0 := e.pay.headD 0
  let w1 := (e.pay.drop 1).headD 0
  let m : Msg := { ctx := 0, w0 := w0, w1 := w1, payload := e.pay.drop 2 }
  match k.named (w1.bits 16 4) (w1.bits 24 8) with
  | none => ((s.setCore n (k.orphan m)).dropEntry e.id).acknowledge e 2
  | some i =>
    if w0.bits 45 2 = 0 && decide (32 ≤ k.dataMessages) then s.refuse e
    else
      let s := ((s.setCore n { k with rq := k.rq ++ [{ m with ctx := i }] }).dropEntry e.id).acknowledge e 1
      if (s.ctx (.ctx n i)).wait.bits 0 4 = 1 then s.wake (.ctx n i) else s

/-- The gang of a message is saved and may come back (R341 step 1). -/
def State.gangAway (s : State) (gid : Nat) : Bool :=
  match SMap.find s.gangs gid with
  | some g => g.st == .saved || g.st == .resumed
  | none => false

/-- The gang of a core is being discarded (R326). -/
def State.gangLeaving (s : State) (n : Nat) : Bool := ((s.gangOf n).map Gang.discarding).getD false

/-- MESSAGE_ARRIVAL (R341): refused while the gang is being pre-empted or detached, discarded once it ends or is discarded, else orphaned, refused or delivered. An acknowledgement, which is a message, is refused by step 1 alone (R281); what R343 says of it is about room (DEDUCED, log 70). -/
def execMessageArrival (s : State) : Host.Outcome State Fault Refusal :=
  match s.entry s.sel.a with
  | none => .next s
  | some e =>
    if !s.mayArrive e || !(e.kind == .msg || e.kind == .ack) then .next s
    else if (s.core e.tgt).gang = some e.gang then
      if s.gangLeaving e.tgt then .next (s.dropEntry e.id)
      else if !s.gangHere e.tgt then .next (s.refuse e) else .next (s.takeMessage e)
    else if s.gangAway e.gang then .next (s.refuse e)
    else .next (s.dropEntry e.id)

/-- The number of READY unbound contexts of a core (R354). -/
def Core.runLength (c : Core) : Nat := (c.ctxs.filter (fun p => p.2.st == CtxState.ready)).length

/-- The context that a sachet creates (R355). -/
def landedCtx (time : Word) (p : List Word) : Ctx :=
  let w := (p.drop 12).headD 0
  { st := .ready, pc := p.headD 0, enter := .sachet, k := SMap.put 0 [] 1 ((p.drop 1).headD 0),
    g := SMap.row 0 1 ((p.drop 2).take 10), prio := w.bits 21 7, hops := w.bits 16 5, stamp := time }

/-- The answer to a sachet reaches its origin context (R353). -/
def State.answer (s : State) (e : Entry) (a : MigrAnswer) : State :=
  match e.src with
  | .thr t => s.setCtx t { s.ctx t with busy := .migr (some a) e.low }
  | _ => s

/-- A LAND or BOUNCE record (R410): it names the core at which the sachet arrived, SLOT 15 and INC 0 (DESIGN CHOICE, log 93). -/
def State.traceSachet (s : State) (e : Entry) (type : Nat) : State :=
  let w := (e.pay.drop 12).headD 0
  s.trace e.tgt 10 type (w.bits 16 5) 0 15 0 (e.pay.headD 0) (word (w.bits 50 14))

/-- What is still owed to a thread that its sachet has brought to another context, the same thread (R357): the deferred faults that are due at its next attempt, and those of its messages that are still on their way (R126, R341) (DEDUCED, log 84). -/
def State.follow (s : State) (old new : Thr) : State :=
  let due := (s.ctx old).fails.filter (fun f => f.dest.isNone)
  let s := s.setCtx new { s.ctx new with fails := due }
  { s with ents := s.ents.map (fun e => if e.src == .thr old && e.kind.sent then { e with src := .thr new } else e) }

/-- SACHET_ARRIVAL (R354-R356). -/
def execSachetArrival (s : State) : Host.Outcome State Fault Refusal :=
  match s.entry s.sel.a with
  | none => .next s
  | some e =>
    if !s.mayArrive e || e.kind ≠ .sachet then .next s
    else
      let n := e.tgt
      let k := s.core n
      let w := (e.pay.drop 12).headD 0
      if k.gang.isNone || k.gnum ≠ w.bits 36 14 || k.ginc ≠ w.bits 28 8 then .next (s.dropEntry e.id)
      else if e.env.secure ≠ k.secure || decide (k.rqlimit < k.runLength) then
        .next (((s.dropEntry e.id).answer e .bounced).traceSachet e 0x16 |>.settleAt n)
      else
        match s.arriveCtx n (landedCtx s.time e.pay) with
        | none => .next (s.refuse e)
        | some s' =>
          let s' := match e.src with | .thr t => s'.follow t (.ctx n (s.arriveId n)) | _ => s'
          .next (((s'.dropEntry e.id).answer e .accepted).traceSachet e 0x15)

/-! ## The run queue (R312-R316) -/

/-- A context whose count of cycles in the run queue is full (R315). -/
def Ctx.agedOut (c : Ctx) : Bool := c.st == .ready && decide (2 ^ 20 ≤ c.aged)

/-- A bound context's place in the order of binding: higher priority, then the earlier stamp. -/
def bindsFirst (a b : Ctx) : Bool := decide (b.prio < a.prio) || (a.prio == b.prio && decide (a.stamp.toNat < b.stamp.toNat))

/-- The READY context to bind among some (R313); of two with one priority and one ready stamp, the lower context number (DESIGN CHOICE, log 59). -/
def pickReady : List (Nat × Ctx) → Option (Nat × Ctx)
  | [] => none
  | x :: t =>
    match pickReady t with
    | none => some x
    | some y => if bindsFirst y.2 x.2 then some y else some x

/-- The lowest free slot of a core. -/
def Core.freeSlot (c : Core) : Option Nat := (rangeFrom 0 15).find? (fun i => (SMap.get ({} : Slot) c.slots i).ctx.isNone)

/-- A slot that binds context `i`: s.inc advances when it is not the context it bound last (R314). -/
def Slot.binding (x : Slot) (i : Nat) : Slot :=
  { ctx := some i, inc := if x.last = some i then x.inc else (x.inc + 1) % 256, last := some i }

/-- A spilled context read back from its entry of the run-queue area, where its aging count has gone on (R315); none where R90 rejects the image, or it is uncorrectable (R425). -/
def State.unspill (s : State) (n i j : Nat) : Option State :=
  let c := s.ctx (.ctx n i)
  let b := s.readLocs (areaLoc (clusterOf n) j) 4608
  if s.poisoned (areaLoc (clusterOf n) j) 4608 then none
  else if b = c.image then some (s.setCtx (.ctx n i) { c with spilled := none })
  else if imgOk b then some (s.setCtx (.ctx n i) { c.fromImage b with spilled := none, wait := 0 })
  else none

/-- The gang of a context whose image cannot be taken back ends (R90, R425). -/
def State.endByImage (s : State) (n i j : Nat) : State :=
  let code := if s.poisoned (areaLoc (clusterOf n) j) 4608 then cECC_UNCORR else cLEASE
  s.gangEndBy (.ctx n i) code code (s.ctx (.ctx n i)).pc 0

/-- The state in which a context can bind: one that stands in the run-queue area takes a store entry, and from a full store one unbound context takes its place there (R312, R313) (DESIGN CHOICE, log 26). -/
def State.fetched (s : State) (n i : Nat) (c : Ctx) : Option State :=
  match c.spilled with
  | none => some s
  | some j =>
    match s.unspill n i j with
    | none => none
    | some s' =>
      if (s.core n).stored < storeRoom then some s'
      else
        match pickVictim ((s.core n).ctxs.filter (fun p => p.2.spilled.isNone && (p.2.st == .waiting || p.2.st == .ready))) with
        | some v => some (s'.spillTo n v.1 j)
        | none => some s'

/-- A context bound to a slot (R313, R314). -/
def State.bindTo (s : State) (n j i : Nat) : State :=
  let k := s.core n
  let c := s.ctx (.ctx n i)
  let x := (SMap.get ({} : Slot) k.slots j).binding i
  let c' := { c with st := .bound, fresh := true, name := some ⟨j, x.inc⟩, aged := 0, wait := 0, stopReq := false }
  let s := s.setCore n ({ k with slots := SMap.put {} k.slots j x }.setCtx i c')
  s.trace n 10 0x13 c.prio x.inc j 0 c.pc (s.time - c.stamp)

/-- BIND (R313, R314): the lowest free slot binds the READY context with the highest priority and, among equals, the earliest stamp. -/
def execBind (s : State) : Host.Outcome State Fault Refusal :=
  let n := s.sel.a
  let k := s.core n
  match k.freeSlot, pickReady (k.ctxs.filter (fun p => p.2.st == CtxState.ready)) with
  | some j, some (i, c) =>
    if k.gang.isNone then .next s
    else
      match s.fetched n i c with
      | some s => .next (s.bindTo n j i)
      | none => .next (s.endByImage n i (c.spilled.getD 0))
  | _, _ => .next s

/-- The event for which a thread is blocked has not come (R311). -/
def State.stillBlocked (s : State) (t : Thr) : Bool :=
  let c := s.ctx t
  let k := s.core t.core
  match c.wait.bits 0 4 with
  | 1 => !k.rq.any (fun m => m.ctx == t.id)
  | 2 =>
    let h := c.gr (c.wait.bits 4 5)
    let e := k.handle (h.bits 0 6)
    e.gen == h.bits 8 8 && e.st == .pending
  | 3 | 4 | 5 => (match c.busy with | .barrier _ _ => true | _ => false)
  | 6 => c.busy == .reply
  | 7 => c.busy == .flag
  | 8 => !xwaitDone (SMap.get 0 k.xdone (c.wait.bits 10 2)) (c.wait.bits 32 32)
  | _ => false

/-- The sub-reason of a park record (R410). -/
def parkSub (ev : Nat) : Nat := if ev = 2 ∨ ev = 8 then 2 else if ev = 3 ∨ ev = 4 ∨ ev = 5 ∨ ev = 7 then 3 else 0

/-- The class of a position at which a thread blocked on an event waits (R402, R82, R134, R247, R259, R329, R347). -/
def waitClass (ev : Nat) : Cls4 × Sub :=
  if ev = 1 then (.message, .none) else if ev = 3 ∨ ev = 4 ∨ ev = 5 then (.message, .barrier)
  else if ev = 6 then (.memory, .none) else if ev = 7 then (.memory, .barrier) else (.memory, .handle)

/-- This cycle's position of a core is still to be served: its bound thread has not had it. -/
def State.turnOpen (s : State) (n : Nat) : Bool := s.turn.contains n

/-- The state with a core's position of this cycle served by a thread that waits there, if it was not yet. -/
def State.waitsHere (s : State) (n slot ev : Nat) : State :=
  if s.turnOpen n then ({ s with turn := s.turn.erase n }).slotPosition n slot (waitClass ev).1 (waitClass ev).2 else s

/-- The event is awaited by an instruction that has not issued: RECV, a handle read, XWAIT (R89, R311). -/
def unissued (ev : Nat) : Bool := ev == 1 || ev == 2 || ev == 8

/-- The thread bound in a slot is to park there now (R316, R134): it is at its position, and not at the one where the instruction that holds it issued; its event has not come, the run queue holds a READY context, and its pending bits have cleared or a failed one ends the wait for them (R41, R42) (DEDUCED, log 25). -/
def State.parks (s : State) (n slot : Nat) : Bool :=
  match s.boundIn n slot with
  | some t =>
    let c := s.ctx t
    s.pos == slot && (unissued (c.wait.bits 0 4) || c.since != s.time) && !c.stopped && c.trap.isNone && s.stillBlocked t && (s.core n).readyAbove 0 && (c.pend.empty || (s.dueAt t {} true).isSome)
  | none => false

/-- A thread of some core is to park at this cycle's position. -/
def State.parkDue (s : State) : Bool := s.cores.any (fun p => s.parks p.1 s.pos)

/-- PARK (R316, R134): at its position a blocked bound thread becomes WAITING while the run queue holds a READY context. A vector command whose destination is g0 or k0 alone sets no pending bit, and may still stand in its queue when its context leaves (DESIGN CHOICE, log 86). -/
def execPark (s : State) : Host.Outcome State Fault Refusal :=
  let n := s.sel.a
  match s.boundIn n s.sel.b with
  | some (.ctx _ i) =>
    let t := Thr.ctx n i
    let c := s.ctx t
    let ev := c.wait.bits 0 4
    if !s.parks n s.sel.b then .next s
    else if !c.pend.empty then
      match s.dueAt t {} true with
      | some f => .next (s.takeFail t f)
      | none => .next s
    else
      let s' := (s.waitsHere n s.sel.b ev).unbind n i { c with st := .waiting }
      .next (s'.trace n 10 0x14 (parkSub ev) c.traceName.1 c.traceName.2 0 c.pc 0)
  | _ => .next s

/-- A free slot of a core and a READY context for it: R313 binds in this cycle (R316, R334). -/
def Core.bindDue (k : Core) : Bool := k.gang.isSome && k.freeSlot.isSome && k.ctxs.any (fun p => p.2.st == CtxState.ready)

/-- Something of the run queue is due in this cycle: a thread parks at its position, a free slot binds, or a count of cycles is full (R315, R316, R334). -/
def State.queueDue (s : State) : Bool := s.parkDue || s.cores.any (fun p => p.2.bindDue || p.2.ctxs.any (fun q => q.2.agedOut))

/-- AGING_STEP (R315): after 2^20 cycles unbound a READY context below 126 rises by one. -/
def execAgingStep (s : State) : Host.Outcome State Fault Refusal :=
  let t := Thr.ctx s.sel.a s.sel.b
  let c := s.ctx t
  if !c.agedOut then .next s
  else .next ((s.setCtx t { c with aged := 0, prio := if c.prio < 126 then c.prio + 1 else c.prio }).respill s.sel.a s.sel.b)

/-- No other spilled context of the core ranks above this one (R312). -/
def Core.topSpilled (c : Core) (i : Nat) (x : Ctx) : Bool :=
  c.ctxs.all (fun p => p.1 == i || p.2.spilled.isNone || !goesFirst x p.2)

/-- SPILL_RETURN (R312): the highest-ranked spilled READY context returns once an entry of the store is free; an image that R90 rejects ends the gang, and so does an uncorrectable one, with CODE 0x13 (R425). -/
def execSpillReturn (s : State) : Host.Outcome State Fault Refusal :=
  let n := s.sel.a
  let i := s.sel.b
  let k := s.core n
  let c := s.ctx (.ctx n i)
  match c.spilled with
  | none => .next s
  | some j =>
    if c.st ≠ .ready || decide (storeRoom ≤ k.stored) || !k.topSpilled i c then .next s
    else
      match s.unspill n i j with
      | some s => .next s
      | none => .next (s.endByImage n i j)

end Sys2Proof.Machine
end

