-- ==== Sys2Proof/Machine/Launch.lean ====
section
/-! DEFINITION. The launch engine up to dispatch: queues, records and their checks, dependencies, residency, and the placing of a gang (spec/15_scheduler.md R300-R310, 10_memories.md R193, R204, R207, R208, 18_tables.md R391, R392, 14_fabric.md R283-R286). -/

namespace Sys2Proof.Machine

/-! ## Queue headers (R301) -/

/-- The location of the header of launch queue `q` of a partition. -/
def queueLoc (part q : Nat) : Nat := rootLoc part + 64 * q

/-- The fields of a queue header. -/
def State.qBase (s : State) (part q : Nat) : Nat := s.readNat (queueLoc part q) 8
def State.qSize (s : State) (part q : Nat) : Nat := s.readNat (queueLoc part q + 8) 2
def State.qWrite (s : State) (part q : Nat) : Nat := s.readNat (queueLoc part q + 0x10) 4
def State.qRead (s : State) (part q : Nat) : Nat := s.readNat (queueLoc part q + 0x18) 4
def State.qState (s : State) (part q : Nat) : Nat := s.readNat (queueLoc part q + 0x20) 8 % 4
def State.qOverrun (s : State) (part q : Nat) : Bool := (s.readNat (queueLoc part q + 0x20) 8).testBit 2

/-- STATE and OVERRUN written. -/
def State.setQState (s : State) (part q st : Nat) (ovr : Bool) : State :=
  s.writeNat (queueLoc part q + 0x20) 8 (st + if ovr then 4 else 0)

/-- READ written. -/
def State.setQRead (s : State) (part q n : Nat) : State := s.writeNat (queueLoc part q + 0x18) 4 n

/-- The ring lies in the record area (R301). From one whose BASE is no multiple of 64 or lies below the record area, which R301 asks of the host, no record is taken either (DESIGN CHOICE, log 88). -/
def State.ringOk (s : State) (part q : Nat) : Bool :=
  let b := s.qBase part q
  let n := s.qSize part q
  decide (0 < n) && decide (0x1B00800 ≤ b) && b % 64 == 0 && decide (b + 192 * n ≤ 0x1B80000)

/-- The location of record number `n` of a queue. -/
def State.recLoc (s : State) (part q n : Nat) : Nat := sliceLoc (part * 8) + s.qBase part q + 192 * (n % s.qSize part q)

/-! ## The fields of a record (R302) -/

def Rec.pc (r : Rec) : Word := r.dw 0x08
def Rec.arg (r : Rec) : Word := r.dw 0x10
def Rec.potmask (r : Rec) : Nat := (r.dw 0x20).bits 0 32
def Rec.clumask (r : Rec) : Nat := (r.dw 0x20).bits 32 8
def Rec.coremask (r : Rec) : Nat := (r.dw 0x28).bits 0 64

/-- The numbers below `n` whose bits are set. -/
def setBits (n m : Nat) : List Nat := (rangeFrom 0 n).filter (fun i => m.testBit i)

/-- The core set, in increasing core number. -/
def Rec.coreSet (r : Rec) (part : Nat) : List Nat :=
  (setBits 32 r.potmask).flatMap (fun i => (setBits 8 r.clumask).flatMap (fun c => (setBits 64 r.coremask).map (fun n => 512 * (part + i) + 64 * c + n)))

/-- A doubleword of the record is at fault (R304). -/
def Rec.dwBad (r : Rec) (size : Nat) (i : Nat) : Bool :=
  let x := r.dw (8 * i)
  if i = 0 then x.bits 7 1 != 0 || x.bits 9 7 != 0 || x.bits 21 3 != 0 || x.bits 27 5 != 0 || x.bits 48 16 != 0
    || !decide (1 ≤ r.nlease ∧ r.nlease ≤ 16) || decide (4 < r.ndep)
  else if i = 1 then x.bits 0 3 != 0
  else if i = 4 then x.bits 40 24 != 0 || r.potmask == 0 || r.clumask == 0 || r.coremask == 0 || r.potmask / 2 ^ size != 0
  else if i = 8 then x.bits 33 15 != 0
  else if i = 13 then x.bits 12 4 != 0 || x.bits 29 3 != 0
  else decide (20 ≤ i) && x.bits 0 64 != 0

/-- The lowest doubleword of the record at fault. -/
def Rec.firstBad (r : Rec) (size : Nat) : Option Nat := (rangeFrom 0 24).find? (r.dwBad size)

/-! ## Lease descriptors (R204, R304, R391, R392) -/

/-- A descriptor's two doublewords that hold reserved fields have none set. -/
def descOk (d1 d3 : Word) : Bool := d1.bits 45 16 == 0 && d3 == 0

/-- A lease from a descriptor's doublewords. -/
def leaseOf (d0 d1 d2 : Word) : Lease :=
  { base := d0, r := d1.bits 63 1 == 1, w := d1.bits 62 1 == 1, secure := d1.bits 61 1 == 1, len := d1.bits 0 45, map := d2 }

/-- The first and last-plus-one keys of a range. -/
def State.leaseSpan (s : State) (l : Lease) : Nat × Nat := (s.leaseKey l.base, s.leaseKey l.base + l.len)

/-- The ranges share a byte. -/
def overlap (a b : Nat × Nat) : Bool := decide (a.1 < b.2) && decide (b.1 < a.2)

/-- The first pot of each rank of a record's blend that stands in this module (R283). -/
def State.ranksHere (s : State) (part : Nat) (r : Rec) : List Nat :=
  if r.size = 1 then [part] else (r.blend.filter (fun p => p.2.module == s.mgmt.conf.fabric)).map (fun p => p.2.potbase)

/-- The stretches of this module's locations that a range covers: a blend-window range, its span at every rank that stands here (R204). -/
def State.leaseHere (s : State) (part : Nat) (r : Rec) (l : Lease) : List (Nat × Nat) :=
  if moduleOf l.base = blendModule then
    (s.ranksHere part r).map (fun b => (mkLoc ownModule (b + ownerOf l.base) (l.base.bits 0 30), mkLoc ownModule (b + ownerOf l.base) (l.base.bits 0 30) + l.len))
  else [s.leaseSpan l]

/-- Two lists of stretches share a byte. -/
def overlapAny (a b : List (Nat × Nat)) : Bool := a.any (fun x => b.any (overlap x))

/-- The part of a stretch that lies in a cluster slice. -/
def sliceOf (x : Nat × Nat) : Option (Nat × Nat) :=
  let o := mkLoc (locModule x.1) (locOwner x.1) 0
  let y := (Nat.max x.1 (o + 0x10000000), Nat.min x.2 (o + ctlBase))
  if locOwner x.1 < 32 ∧ y.1 < y.2 then some y else none

/-- Base and length keep R204. -/
def leaseShape (l : Lease) : Bool :=
  let o := ownerOf l.base
  let near := decide (o < 32)
  let f := if moduleOf l.base = blendModule then l.base.bits 0 30 else offsetOf l.base
  let unit := if near then 16 else 2097152
  decide (o ≤ 66) && decide (0 < l.len) && f % unit == 0 && l.len % unit == 0
    && decide (f + l.len ≤ if near then sramEnd else 2 ^ 45) && (moduleOf l.base != blendModule || near)

/-- The range covers a reserved slice span (R301). -/
def reservedSpan (l : Lease) : Bool :=
  decide (ownerOf l.base < 32) &&
    (let f := if moduleOf l.base = blendModule then l.base.bits 0 30 else offsetOf l.base
     (rangeFrom 0 8).any (fun c => overlap (f, f + l.len) (0x11B00000 + 0x2000000 * c, 0x12000000 + 0x2000000 * c)))

/-- The storage of shard `n` of a descriptor, as keys (R364). -/
def storeSpan (part : Nat) (d : Desc) (n : Nat) : Nat × Nat :=
  (mkLoc ownModule (32 + shardPot part d n) (descStore d), mkLoc ownModule (32 + shardPot part d n) (descStore d) + 2097152 * descNpages d)

/-- The storage of every shard of every caddy of the module that is installed, or whose clearing some shard has still to apply, with its address space (R192). -/
def State.caddyPages (s : State) : List (Nat × (Nat × Nat)) :=
  s.parts.flatMap (fun p => ((p.2.caddies.map Prod.snd).filter descV ++ p.2.retired.map Prod.snd).flatMap (fun d =>
    (rangeFrom 0 (descShards d)).map (fun n => (descAsid d, storeSpan p.1 d n))))

/-- The range covers a caddy page (R192). -/
def State.onCaddy (s : State) (asid : Nat) (l : Lease) : Bool := s.caddyPages.any (fun c => c.1 == asid && overlap c.2 (s.leaseSpan l))

/-- The world of a range agrees with the world of its pot (R207, R208), for a blend-window range with the world of each pot of this module that it reaches. -/
def State.rangeWorld (s : State) (here : List (Nat × Nat)) (l : Lease) : Bool :=
  let o := ownerOf l.base
  if moduleOf l.base = blendModule then here.all (fun x => s.potSecure (locOwner x.1) == l.secure)
  else if s.canonModule (moduleOf l.base) ≠ ownModule then true
  else if o < 32 then s.potSecure o == l.secure
  else if o < 64 then s.potSecure (o - 32) == l.secure
  else true

/-- The block-start map of a range lies in another range of the record that has R; a blend-window range has none (R392). A LENGTH that is no multiple of 64 counts its last map byte whole (DESIGN CHOICE, log 91). -/
def State.mapOk (s : State) (all : SMap Lease) (n : Nat) (l : Lease) : Bool :=
  let x := s.leaseKey l.map
  l.map == 0 ||
    (moduleOf l.base != blendModule &&
      all.any (fun p => p.1 != n && p.2.r && decide (s.leaseKey p.2.base ≤ x) && decide (x + ceilDiv l.len 64 ≤ s.leaseKey p.2.base + p.2.len)))

/-- Range `n` of a record is at fault (R304). -/
def State.leaseBad (s : State) (part : Nat) (r : Rec) (all : SMap Lease) (n : Nat) (l : Lease) : Bool :=
  !leaseShape l || reservedSpan l
    || s.onCaddy r.asid l
    || !s.rangeWorld (s.leaseHere part r l) l
    || all.any (fun p => p.1 != n && p.2.secure != l.secure
      && (overlap (s.leaseSpan p.2) (s.leaseSpan l) || overlapAny (s.leaseHere part r p.2) (s.leaseHere part r l)))
    || !s.mapOk all n l

/-- Doubleword `i` of lease descriptor `n` of a record. -/
def State.descDw (s : State) (r : Rec) (n i : Nat) : Word := s.sysRead r.env (r.dw 0x30 + word (32 * n + 8 * i))

/-- The record with its lease ranges and blend map read. -/
def State.readTables (s : State) (r : Rec) : Rec :=
  { r with
    lease := SMap.row ⟨0, false, false, false, 0, 0⟩ 0 ((rangeFrom 0 r.nlease).map (fun n => leaseOf (s.descDw r n 0) (s.descDw r n 1) (s.descDw r n 2)))
    blend := if r.size = 1 then []
      else (rangeFrom 0 r.size).map (fun k =>
        let x := s.sysRead r.env (r.dw 0x70 + word (8 * k))
        (k, ⟨true, x.bits 12 5, x.bits 0 12⟩)) }

/-- The launch engine can read a record's lease descriptors and blend map (R203) (DESIGN CHOICE, log 11). -/
def State.tablesReach (s : State) (r : Rec) : Bool :=
  (rangeFrom 0 (4 * r.nlease)).all (fun i => (s.sysLoc r.env (r.dw 0x30 + word (8 * i))).isSome)
    && (r.size == 1 || (rangeFrom 0 r.size).all (fun k => (s.sysLoc r.env (r.dw 0x70 + word (8 * k))).isSome))

/-- Every lease of a record by number, those of length and base 0 too. -/
def State.allLeases (s : State) (r : Rec) : SMap Lease :=
  (rangeFrom 0 r.nlease).map (fun n => (n, leaseOf (s.descDw r n 0) (s.descDw r n 1) (s.descDw r n 2)))

/-- The CODE with which a record is refused, before the blend conditions (R303, R304). -/
def State.recordFault (s : State) (part : Nat) (r : Rec) : Option Nat :=
  match r.firstBad (s.partOf part).2 with
  | some i => some i
  | none =>
    let all := s.allLeases r
    let r := s.readTables r
    ((rangeFrom 0 r.nlease).find? (fun n =>
      !descOk (s.descDw r n 1) (s.descDw r n 3)
        || s.leaseBad part r all n (leaseOf (s.descDw r n 0) (s.descDw r n 1) (s.descDw r n 2)))).map (fun n => 0x20 + n)

/-! ## Taking a record (R301, R305) -/

/-- The record `n` of a queue, as it stands in memory. -/
def State.recordAt (s : State) (part q n : Nat) : Rec :=
  { queue := q, num := n, bytes := s.readLocs (s.recLoc part q n) 192, lease := [], blend := [] }

/-- A record of the queue without dependencies waits for placement. A blend's member that has its cores and has reported (R308 step 3) waits no more, and the records behind it pass (DEDUCED, log 82). -/
def State.queueWaits (s : State) (part q : Nat) : Bool :=
  s.gangs.any (fun p => p.2.part == part && p.2.st == .ready && p.2.record.queue == q && p.2.record.ndep == 0)

/-- A record becomes ready for placement, as a gang without cores. -/
def State.addReady (s : State) (part : Nat) (r : Rec) : State :=
  { s with next := s.next + 1 }.setGang s.next { part := part, record := r, cores := r.coreSet part, st := .ready }

/-! ## Blends (R309, R285) -/

/-- A blend-window range, by pot, offset and length, of each range of a record. -/
def Rec.wins (r : Rec) : List (Nat × Nat × Nat) :=
  (r.lease.map Prod.snd).filterMap (fun l => if moduleOf l.base = blendModule then some (ownerOf l.base, l.base.bits 0 30, l.len) else none)

/-- The windows, at a rank with this first pot, cover only scratchpads of these cores and slices of clusters that hold them (R285). -/
def windowFits (potbase : Nat) (cores : List Nat) (wins : List (Nat × Nat × Nat)) : Bool :=
  let spans (p : Nat) : List (Nat × Nat) :=
    let l := cores.filter (fun n => potOf n == p)
    l.map (fun n => (0x80000 * (n % 512), 0x80000 + 0x80000 * (n % 512)))
      ++ (dedup (l.map clusterOf)).map (fun c => (0x10000000 + 0x2000000 * (c % 8), 0x12000000 + 0x2000000 * (c % 8)))
  wins.all (fun w =>
    let sp := spans (potbase + w.1)
    (rangeFrom 0 (w.2.2 / 16)).all (fun k => sp.any (fun x => decide (x.1 ≤ w.2.1 + 16 * k) && decide (w.2.1 + 16 * k < x.2))))

/-- The local part of R285, for a record's own rank. -/
def Rec.windowOk (r : Rec) (part : Nat) : Bool := windowFits (r.potbase part) (r.coreSet part) r.wins

/-- The report of a record (R309). -/
def Rec.report (r : Rec) (part : Nat) (refused : Bool) : BlendReport :=
  { rank := r.rank, size := r.size, secure := r.secure, asid := r.asid, refused := refused, potbase := r.potbase part, cores := r.coreSet part, wins := r.wins }

/-- R285 over all the members: one world, one address space, and every member's windows at every rank. -/
def blendFits (l : List BlendReport) : Bool :=
  l.all (fun a => l.all (fun b => a.secure == b.secure && a.asid == b.asid && windowFits b.potbase b.cores a.wins))

/-- What the tray of rank 0 makes of the reports (R303, R309): 0 to start, the CODE of the refusal, or nothing before all SIZE ranks have reported. Of several grounds the lowest CODE is given (DESIGN CHOICE, log 63). -/
def blendVerdict (l : List BlendReport) : Option Nat :=
  let size := (l.head?.map BlendReport.size).getD 0
  if l.any BlendReport.refused then some 0x30
  else if l.any (fun r => r.size != size) then some 0x31
  else if !(dedup (l.map BlendReport.rank)).length == l.length then some 0x32
  else if !(rangeFrom 0 size).all (fun k => (l.map BlendReport.rank).contains k) then none
  else if blendFits l then some 0 else some 0x33

/-- A record refused after it was ready: its signal reads REFUSED, and it holds nothing, in other modules either (R208, R304, R309). -/
def State.refuseGang (s : State) (gid : Nat) (g : Gang) (code : Nat) : State :=
  ((s.releaseFar g).setGang gid { g with st := .ended, held := [] }).signal g.part g.record 5 code 0

/-- The member of rank 0 of a blend here that is ready or has reported. -/
def State.rankZero (s : State) (part id : Nat) : Option (Nat × Gang) :=
  s.gangs.find? (fun p => p.2.part == part && (p.2.st == .ready || p.2.st == .reported) && decide (1 < p.2.record.size) && p.2.record.rank == 0
    && (p.2.record.dw 0x68).bits 32 32 == id)

/-- The verdict on a blend reaches its members: the one here, and those that reported from other modules. -/
def State.giveVerdict (s : State) (part id code : Nat) : State :=
  let s := s.sendFar part [.verdict id code]
  match s.rankZero part id with
  | none => s
  | some (gid, g) => if code = 0 then s.setGang gid { g with go := true } else s.refuseGang gid g code

/-- A report reaches the tray of rank 0, which starts the blend once all have come, or refuses it; a member that reports to a refused blend is refused (R309). The member of rank 0 that a refusal finds not yet reported is refused with it, and counts as heard (DEDUCED, log 96). -/
def State.takeReport (s : State) (part id : Nat) (r : BlendReport) : State :=
  let t := s.tray part
  let b := SMap.get {} t.blends id
  let b := { b with reports := b.reports ++ [r], seen := b.seen + 1 }
  let v := match b.verdict with
    | some c => some c
    | none => blendVerdict b.reports
  let early : Bool := match s.rankZero part id with
    | some (_, g) => g.st == .ready && v.isSome && v != some 0
    | none => false
  let b := if early then { b with seen := b.seen + 1 } else b
  let finished := v == some 0 || (v.isSome && decide (r.size ≤ b.seen))
  let s := s.setTray part { t with blends := if finished then SMap.del t.blends id else SMap.ins t.blends id { b with verdict := v } }
  match v with
  | some c => s.giveVerdict part id c
  | none => s

/-- A member of a blend tells rank 0's tray that it can start, or that its record is refused: here, or in another module. One that claims rank 0 reports to its own partition's tray, whatever module BLENDMAP entry 0 names (DESIGN CHOICE, log 89). -/
def State.tellBlend (s : State) (part : Nat) (r : Rec) (refused : Bool) : State :=
  let id := (r.dw 0x68).bits 32 32
  if r.size = 1 then s
  else if r.rank = 0 then s.takeReport part id (r.report part refused)
  else s.sendFar part [.report (SMap.get ⟨false, 0, 0⟩ r.blend 0).module id (r.report part refused)]

/-- A record joins the dependency pool. -/
def State.addPool (s : State) (part : Nat) (r : Rec) : State :=
  let p := s.part part
  s.setPart part { p with pool := p.pool ++ [r] }

/-- LAUNCH_RECORD_TAKE (R301, R304, R305): the next record of an active queue is refused, made ready or pooled; an overrun ring stops its queue. A record or header with uncorrectable data is refused (R425) with CODE 0 (DESIGN CHOICE, log 81). A refused member's blend learns of it (R309). While the place of a record's tables has no translation the record stays in its ring (R203) (DESIGN CHOICE, log 11). -/
def execLaunchRecordTake (s : State) : Host.Outcome State Fault Refusal :=
  let part := s.sel.a
  let q := s.sel.b
  let n := s.qRead part q
  let ahead := (2 ^ 32 + s.qWrite part q - n) % 2 ^ 32
  if !s.isPart part || decide (16 ≤ q) || s.qSize part q == 0 || s.qState part q != 0 || ahead == 0 then .next s
  else if s.qSize part q < ahead then .next (s.setQState part q 2 true)
  else if !s.ringOk part q then .next s
  else
    let r := s.recordAt part q n
    let taken := s.setQRead part q ((n + 1) % 2 ^ 32)
    if s.poisoned (s.recLoc part q n) 192 || s.poisoned (queueLoc part q) 64 then .next ((taken.signal part r 5 0 0).tellBlend part (s.readTables r) true)
    else if (r.firstBad (s.partOf part).2).isNone && !s.tablesReach r then .next s
    else
      match s.recordFault part r with
      | some code => .next ((taken.signal part r 5 code 0).tellBlend part (s.readTables r) true)
      | none =>
        let r := s.readTables r
        if 0 < r.ndep then (if 64 ≤ (s.part part).pool.length then .next s else .next (taken.addPool part r))
        else if s.queueWaits part q then .next s
        else .next (taken.addReady part r)

/-- The dependency signals of a record (R305). -/
def State.depSignals (s : State) (r : Rec) : List Word := (rangeFrom 0 r.ndep).map (fun k => s.sysRead r.env (r.dw (0x78 + 8 * k)))

/-- An ABORT or a PREEMPT of the partition is being carried out. -/
def State.queueCommand (s : State) (part : Nat) : Bool :=
  (rangeFrom 0 16).any (fun q => s.qState part q == 3) || s.gangs.any (fun p => p.2.part == part && p.2.halting && p.2.st == .running)

/-- An INVAL or a REVOKE of the partition's table port is being carried out. -/
def Part.portBusy (p : Part) : Bool := p.inval.isSome || p.revoking.isSome

/-- A command of the partition, or of its table port, is being carried out: each is done as a whole between two placement steps (R327, R388). -/
def State.commandBusy (s : State) (part : Nat) : Bool := s.queueCommand part || (s.part part).portBusy

/-- Records of the queue that are taken may be placed: it is active, or an overrun has stopped it and no DRAIN since (R301, R325). -/
def State.queueRuns (s : State) (part q : Nat) : Bool :=
  s.qState part q == 0 || (s.qState part q == 2 && s.qOverrun part q && !(s.part part).drained.contains q)

/-- DEPENDENCY_MET (R305): a pooled record becomes ready when every signal reads DONE, and completes with ABORTED_DEP when one reads another non-zero value. -/
def execDependencyMet (s : State) : Host.Outcome State Fault Refusal :=
  let part := s.sel.a
  let p := s.part part
  match p.pool[s.sel.b]? with
  | none => .next s
  | some r =>
    let l := s.depSignals r
    let s1 := s.setPart part { p with pool := p.pool.eraseIdx s.sel.b }
    if l.any (fun x => x != 0 && x.bits 0 8 != 1) then .next (s1.signal part r 4 0 0)
    else if l.all (fun x => x.bits 0 8 == 1) && s.queueRuns part r.queue && !s.commandBusy part then .next (s1.addReady part r)
    else .next s

/-! ## Residency (R204, R208) -/

/-- The pages of a range in this module's translated owners: owner and page number. -/
def State.leasePages (s : State) (l : Lease) : List (Nat × Nat) :=
  let o := ownerOf l.base
  if s.canonModule (moduleOf l.base) ≠ ownModule ∨ o < 32 ∨ 66 ≤ o then []
  else (rangeFrom (offsetOf l.base / 2 ^ 21) (l.len / 2 ^ 21)).map (fun p => (o, p))

/-- The offsets of the listed doublewords of a table of `n` entries, by entry (R385). -/
def State.listedEntries (s : State) (o base n : Nat) : List Nat :=
  dedup ((SMap.slice s.mem (mkLoc ownModule o base) (8 * n)).map (fun p => p.1 / 8))

/-- The tables of an owner (R385): the entries of one level that are valid, with the number each has in its table. -/
def State.tableEntries (s : State) (o base n : Nat) (ok : Word → Bool) : List Word :=
  ((s.listedEntries o base n).map (fun i => s.tableEntry o (base + 8 * i))).filter ok

/-- The page entries of every address space of an owner. -/
def State.pageEntries (s : State) (o : Nat) : List Word :=
  let dir := s.tableEntries o (SMap.get 0 s.mgmt.conf.root o) 65536 (tableValid o)
  let l1 := dir.flatMap (fun e => s.tableEntries o (2 ^ 15 * e.bits 15 30) 4096 (tableValid o))
  l1.flatMap (fun e => s.tableEntries o (2 ^ 15 * e.bits 15 30) 4096 (pageValid o))

/-- What an owner's physical memory is used for (R385): its tables, and the frames that its page and sub-page entries map, as stretches of offsets. -/
def State.usedFrames (s : State) (o : Nat) : List (Nat × Nat) :=
  let root := SMap.get 0 s.mgmt.conf.root o
  let dir := s.tableEntries o root 65536 (tableValid o)
  let l1 := dir.flatMap (fun e => s.tableEntries o (2 ^ 15 * e.bits 15 30) 4096 (tableValid o))
  let pages := s.pageEntries o
  let subs := (pages.filter (fun e => e.bits 62 1 == 1)).flatMap (fun e => s.tableEntries o (2 ^ 14 * e.bits 14 31) 2048 (subValid o))
  (root, root + 524288) :: (dir ++ l1).map (fun e => (2 ^ 15 * e.bits 15 30, 32768 + 2 ^ 15 * e.bits 15 30))
    ++ pages.map (fun e => if e.bits 62 1 = 1 then (2 ^ 14 * e.bits 14 31, 16384 + 2 ^ 14 * e.bits 14 31) else (2 ^ 21 * e.bits 21 24, 2 ^ 21 * e.bits 21 24 + 2 ^ 21))
    ++ subs.map (fun e => (2 ^ 10 * e.bits 10 35, 1024 + 2 ^ 10 * e.bits 10 35))
    ++ s.owners.flatMap (fun p => p.2.away.filterMap (fun (a : Nat × Nat) => if locOwner a.2 = o then some (locOff a.2, locOff a.2 + 2 ^ 21) else none))

/-- A stretch of an owner's memory holds no table and no mapped frame. -/
def State.frameFree (s : State) (o a n : Nat) : Bool := decide (a + n ≤ ownerSize o) && !(s.usedFrames o).any (overlap (a, a + n))

/-- The 2 MiB frames of an owner in which something stands. -/
def State.usedList (s : State) (o : Nat) : List Nat :=
  dedup ((s.usedFrames o).flatMap (fun x => rangeFrom (x.1 / 2 ^ 21) ((x.2 - 1) / 2 ^ 21 + 1 - x.1 / 2 ^ 21)))

/-- A free 2 MiB frame of an owner, the first one from place `k` on. -/
def State.freeFrame (s : State) (o k : Nat) : Option Nat :=
  let n := ownerSize o / 2 ^ 21
  let used := s.usedList o
  ((rangeFrom 0 (used.length + 1)).map (fun i => (k + i) % n)).find? (fun f => !used.contains f)

/-- A page entry that is valid maps the page. -/
def State.pageMapped (s : State) (asid : Nat) (p : Nat × Nat) : Bool :=
  match s.pageSlot p.1 asid p.2 with
  | none => false
  | some a => pageValid p.1 (s.tableEntry p.1 a)

/-- The tables have a place for the entry of every page, and each owner has frames enough for those that are not mapped. -/
def State.pagesReady (s : State) (asid : Nat) (l : List (Nat × Nat)) : Bool :=
  l.all (fun p => (s.pageSlot p.1 asid p.2).isSome)
    && (dedup (l.map Prod.fst)).all (fun o =>
      decide ((dedup ((l.filter (fun p => p.1 == o && !s.pageMapped asid p)).map Prod.snd)).length + (s.usedList o).length ≤ ownerSize o / 2 ^ 21))

/-- An owner's translations of some pages of an address space forgotten. -/
def Owner.forget (w : Owner) (asid page count : Nat) : Owner :=
  let k := pageKey asid page
  let count := Nat.min count (2 ^ 24 - page)
  { w with
    tlb := w.tlb.filter (fun e => decide (e.1 < k) || decide (k + count ≤ e.1))
    subtlb := w.subtlb.filter (fun e => decide (e.1 < 2 ^ 60 + 2 ^ 11 * k) || decide (2 ^ 60 + 2 ^ 11 * (k + count) ≤ e.1))
    walks := w.walks.filter (fun e =>
      (decide (e < k) || decide (k + count ≤ e)) && (decide (e < 2 ^ 60 + 2 ^ 11 * k) || decide (2 ^ 60 + 2 ^ 11 * (k + count) ≤ e))) }

/-- `n` bytes of memory copied from one location to another, with their uncorrectable granules. -/
def State.copyBytes (s : State) (a b n : Nat) : State :=
  { s with
    mem := SMap.overlay s.mem b n (SMap.slice s.mem a n)
    poison := SMap.overlay s.poison (b / 16) (n / 16) (SMap.slice s.poison (a / 16) (n / 16)) }

/-- The contents of a page that had been moved to the second tier brought back to its new frame (R204). -/
def State.bringBack (s : State) (o key frame : Nat) : State :=
  match SMap.find (s.owner o).away key with
  | some l => (s.copyBytes l (mkLoc ownModule o (2 ^ 21 * frame)) (2 ^ 21)).setOwner o { s.owner o with away := SMap.del (s.owner o).away key }
  | none => s

/-- A page made resident with a range's world (R204 steps 1 and 2): a page without a valid entry takes a free frame, which of them the spec does not name (log 5), with its contents from the second tier where it had been moved there (DESIGN CHOICE, log 28). -/
def State.makeResident (s : State) (asid : Nat) (world : Bool) (p : Nat × Nat) : State :=
  match s.pageSlot p.1 asid p.2 with
  | none => s
  | some a =>
    let l := mkLoc ownModule p.1 a
    let e := s.readNat l 8
    let w := if world then 2 ^ 61 else 0
    if pageValid p.1 (s.tableEntry p.1 a) then
      let s := s.writeNat l 8 (e - 2 ^ 61 * (e / 2 ^ 61 % 2) + w)
      s.setOwner p.1 ((s.owner p.1).forget asid p.2 1)
    else
      match s.freeFrame p.1 (Config.freeNat s.frees) with
      | none => s
      | some f =>
        let s := ({ s with frees := s.frees + 1 } : State).bringBack p.1 (pageKey asid p.2) f
        let s := s.writeNat l 8 (2 ^ 63 + w + 2 ^ 21 * f)
        s.setOwner p.1 ((s.owner p.1).forget asid p.2 1)

/-- Every range of a record made resident. -/
def State.makeAllResident (s : State) (r : Rec) : State :=
  r.lease.foldl (fun s l => (s.leasePages l.2).foldl (fun s p => s.makeResident r.asid l.2.secure p) s) s

/-! ## Dispatch (R307-R310, R193) -/

/-- A gang holds a core or a range: it is on its cores, or saved. -/
def Gang.attached (g : Gang) : Bool := g.st == .running || g.st == .reported
def Gang.detachedNow (g : Gang) : Bool := g.st == .saved || g.st == .resumed

/-- The entry is a message on its way, or a refusal of one: it goes on its own and names its gang (R341, R345). -/
def Entry.parts (e : Entry) : Bool :=
  match e.kind with
  | .msg => e.phase == .channel
  | .refusal _ => true
  | _ => false

/-- The command is an RPASS that will pass its tile to core `n` (R179). -/
def Cmd.passesTo (c : Cmd) (n : Nat) : Bool := match c.instr with | .rpass _ => ringNext c.core == n | _ => false

/-- No command of an earlier gang works on the core or will pass a tile to it, its vector engine is empty, and no entry of its threads is on its way (DEDUCED, log 29). -/
def State.coreQuiet (s : State) (n : Nat) : Bool :=
  s.ents.all (fun e => match e.src with | .thr t => t.core != n || e.parts | _ => true)
    && s.cmds.all (fun p => p.2.core != n && !p.2.passesTo n) && (s.core n).vq.isEmpty && (s.core n).flight.isEmpty

/-- A core is free (R307). -/
def State.coreFree (s : State) (n : Nat) : Bool :=
  (s.core n).gang.isNone && !s.gangs.any (fun p => p.2.st == .reported && p.2.cores.contains n) && s.coreQuiet n

/-- No gang, of this module or another, holds a range in the way (R193, R207, R208): a detached gang's slice range, or a page of the other world. -/
def State.rangesClear (s : State) (gid part : Nat) (r : Rec) : Bool :=
  r.lease.all (fun l =>
    let here := s.leaseHere part r l.2
    s.gangs.all (fun p => p.1 == gid || p.2.record.lease.all (fun m =>
      !(p.2.detachedNow && overlapAny here ((s.leaseHere p.2.part p.2.record m.2).filterMap sliceOf))
        && !((p.2.attached || p.2.detachedNow) && decide (32 ≤ ownerOf l.2.base) && p.2.record.asid == r.asid && m.2.secure != l.2.secure
          && overlap (s.leaseSpan l.2) (s.leaseSpan m.2))))
    && s.parts.all (fun p => p.2.remote.all (fun h => h.secure == l.2.secure || (h.asid != r.asid && decide (32 ≤ ownerOf l.2.base))
      || !overlap (s.leaseSpan l.2) (s.leaseKey h.base, s.leaseKey h.base + h.length))))

/-- Steps 1 and 2 of R308 are possible now. -/
def State.placeable (s : State) (gid : Nat) (g : Gang) : Bool :=
  g.cores.all s.coreFree && s.pagesReady g.record.asid (g.record.lease.flatMap (fun l => s.leasePages l.2)) && s.rangesClear gid g.part g.record

/-- The order of placement (R305, R323): higher PRIO, then restores, then the pool, then the lower queue. -/
def Gang.rank (g : Gang) : Nat :=
  1024 * (127 - g.record.prio) + (if g.st = .resumed then 0 else 512) + (if 0 < g.record.ndep then 0 else 256) + g.record.queue

/-- A gang of the partition stands before this one and could be placed now (DEDUCED, log 27). -/
def State.outranked (s : State) (gid : Nat) (g : Gang) : Bool :=
  s.gangs.any (fun p => p.1 != gid && p.2.part == g.part && (p.2.st == .ready || p.2.st == .resumed)
    && (p.2.st == .resumed || s.queueRuns p.2.part p.2.record.queue) && (decide (p.2.rank < g.rank) || (p.2.rank == g.rank && decide (p.1 < gid))) && s.placeable p.1 p.2)

/-- The region registers and bounds of R302 on a member core, its tables, and the reset state of everything a new gang finds (R85, R178, R193, R254, R283, R395, R401). -/
def Core.dispatched (c : Core) (gid gnum ginc fabric part : Nat) (r : Rec) : Core :=
  { c with
    gang := some gid
    gnum := gnum
    ginc := ginc
    ceil := r.prio
    ctxs := []
    secure := r.secure
    asid := r.asid
    tvec := word (8 * (r.dw 0x38).bits 3 61)
    rqlimit := (r.dw 0x40).bits 48 16
    rnrbase := (r.dw 0x40).bits 0 20
    rnrlimit := (r.dw 0x40).bits 20 13
    regions := SMap.row 0 0 ((rangeFrom 0 4).map (fun i => r.dw (0x48 + 8 * i) &&& regionMask))
    xdone := []
    nextid := []
    lease := r.lease
    blendSize := r.size
    blendRank := r.rank
    blend := if r.size = 1 then [(0, ⟨true, part, fabric⟩)] else r.blend
    handles := (c.handles.map (fun (p : Nat × Handle) => (p.1, ({ p.2 with st := .free } : Handle)))).filter (fun (p : Nat × Handle) => p.2 != {})
    holders := []
    alatch := []
    bl0 := []
    bl1 := []
    bl0Full := false
    bl1Full := false
    twin := false
    ctr := []
    rotIssued := 0
    posClass := []
    draw := kettleIdle
    brew := kettleIdle
    drawq := []
    pourq := [] }

/-- R193 on a member core's memory (DEDUCED, log 18). -/
def State.clearedPad (s : State) (n : Nat) (world : Bool) : State :=
  let wipe := (s.core n).prevWorld != some world
  { s with
    flags := SMap.clearRange s.flags (flagLoc n 0 / 8) 1024
    full := SMap.clearRange s.full (padLoc n / 16) 32768
    mem := if wipe then SMap.clearRange s.mem (padLoc n) 0x80000 else s.mem
    poison := if wipe then SMap.clearRange s.poison (padLoc n / 16) 32768 else s.poison }

/-- One member core installed (R308 step 4). -/
def State.install (s : State) (gid gnum ginc : Nat) (part : Nat) (r : Rec) (n : Nat) : State :=
  let s := s.clearedPad n r.secure
  s.setCore n ((s.core n).dispatched gid gnum ginc s.mgmt.conf.fabric part r)

/-- The pot roots of a gang: the lowest member core of each member pot (R310). -/
def potRoots (cores : List Nat) : List Nat := (dedup (cores.map potOf)).filterMap (fun p => cores.find? (fun n => potOf n == p))

/-- Steps 4 and 5 of R308. -/
def State.dispatch (s : State) (gid : Nat) (g : Gang) : State :=
  let low := g.cores.headD 0
  let ginc := ((s.core low).gangCount + 1) % 256
  let s := g.cores.foldl (fun s n => s.install gid low ginc g.part g.record n) s
  let s := s.setCore low { s.core low with gangCount := ginc }
  let roots := (potRoots g.cores).map (fun n => (n, 2))
  let s := { s with ents := s.ents ++ startEntries gid (512 * g.part) g.record.pc g.record.arg g.record.prio g.record.env s.next roots, next := s.next + roots.length }
  (s.setGang gid { g with st := .running }).traceGang g 0x10 g.record.queue

/-- The ranges of a record in other modules, by number, for which residency is asked there (R208, log 8), one in a host window there (owner 66) among them (DESIGN CHOICE, log 77). -/
def State.remoteRanges (s : State) (r : Rec) : List (Nat × RemoteRange) :=
  r.lease.filterMap (fun p =>
    if moduleOf p.2.base = blendModule || s.canonModule (moduleOf p.2.base) == ownModule then none
    else some (p.1, { source := s.mgmt.conf.fabric, gang := (r.coreSet 0).headD 0, base := p.2.base, length := p.2.len, secure := p.2.secure, asid := r.asid }))

/-- A range of the record that covers a caddy page by now (R192). -/
def State.caddyFault (s : State) (r : Rec) : Option Nat := (r.lease.find? (fun p => s.onCaddy r.asid p.2)).map Prod.fst

/-- A ready record refused at dispatch; its blend learns of it (R309). -/
def State.refuseReady (s : State) (gid : Nat) (g : Gang) (code : Nat) : State := (s.refuseGang gid g code).tellBlend g.part g.record true

/-- A placeable record whose remote ranges are resident: a lone gang is installed and started, a member of a larger blend takes its cores and ranges and reports (R308 steps 2 to 5). -/
def State.placeGang (s : State) (gid : Nat) (g : Gang) : State :=
  let s := s.makeAllResident g.record
  if 1 < g.record.size then (s.setGang gid { g with st := .reported }).tellBlend g.part g.record false
  else if !g.record.windowOk g.part then s.refuseGang gid g 0x33
  else s.dispatch gid g

/-- GANG_DISPATCH (R308): a placeable record asks for its ranges in other modules, waits for every answer (R208), and is placed or refused; a member whose blend starts is installed and started (R309). -/
def execGangDispatch (s : State) : Host.Outcome State Fault Refusal :=
  let gid := s.sel.a
  match SMap.find s.gangs gid with
  | none => .next s
  | some g =>
    if s.commandBusy g.part then .next s
    else if g.st = .reported then (if g.go then .next (s.dispatch gid g) else .next s)
    else if g.st ≠ .ready || !s.queueRuns g.part g.record.queue || !s.placeable gid g || s.outranked gid g then .next s
    else
      match s.caddyFault g.record with
      | some n => .next (s.refuseReady gid g (0x20 + n))
      | none =>
        let far := s.remoteRanges g.record
        if !g.asked && !far.isEmpty then
          .next ((s.setGang gid { g with asked := true }).sendFar g.part (far.map (fun p => .request gid p.1 p.2)))
        else if far.any (fun p => (SMap.find g.answers p.1).isNone) then .next s
        else
          match far.find? (fun p => SMap.find g.answers p.1 == some false) with
          | some p => .next (s.refuseReady gid g (0x20 + p.1))
          | none => .next (s.placeGang gid g)

/-- A thread waiting at BARB takes TEARDOWN at the barrier (R330), one whose context stands in the run-queue area there; none of them counts as arrived any more. -/
def State.tearBarb (s : State) (gid : Nat) (g : Gang) (m : Nat) : State :=
  let key := 2 ^ 20 + 1
  let s := s.setGang gid { g with bars := SMap.put {} g.bars key { SMap.get {} g.bars key with arrived := [] } }
  let waits := (s.liveThreads g).filter (fun t => match (s.ctx t).busy with | .barrier .barb _ => true | _ => false)
  waits.foldl (fun s t =>
    let s := ((s.setCtx t (s.ctx t).undone).wake t).raise t { code := cTEARDOWN, sub := 0, epc := (s.ctx t).lastWord, vaddr := word m }
    s.respill t.core t.id) s

/-- The news of rank 0's tray or of a peer reaches a member (R309, R319, R330); a detached one's threads meet it after restore. -/
def State.blendNews (s : State) (gid : Nat) (g : Gang) : BlendNews → State
  | .report _ _ => s
  | .start =>
    if g.st ≠ .reported || g.record.rank = 0 then s
    else if g.record.windowOk g.part then s.setGang gid { g with go := true }
    else s.refuseGang gid g 0x33
  | .refuse code =>
    -- A member that has not reported yet is refused as well, and its report says so (DEDUCED, log 96).
    if g.record.rank = 0 then s
    else if g.st = .reported then s.refuseGang gid g code
    else if g.st = .ready then (s.refuseGang gid g code).tellBlend g.part g.record true
    else s
  | .peerDone r => (s.setGang gid { g with peers := SMap.put .unknown g.peers r .done }).settleBars gid
  | .peerGone r =>
    let m := (SMap.get ⟨false, 0, 0⟩ g.record.blend r).module
    let g := { g with peers := SMap.put .unknown g.peers r .gone, torn := some m }
    let s := s.setGang gid g
    let s := if g.saved.isEmpty then s.tearBarb gid g m else s
    s.teardown gid m
  | .peerArrived r =>
    let key := 2 ^ 20 + 1
    let x := SMap.get {} g.bars key
    (s.setGang gid { g with bars := SMap.put {} g.bars key { x with peers := x.peers ++ [r] } }).settleBars gid

/-- BLEND_REPORT (R309, R319, R330): a report from another module reaches the tray of rank 0 here, or news reaches a member. -/
def execBlendReport (s : State) : Host.Outcome State Fault Refusal :=
  match s.sel.inp with
  | .news (.report id r) => if s.isPart s.sel.a then .next (s.takeReport s.sel.a id r) else .next s
  | .news b =>
    match SMap.find s.gangs s.sel.a with
    | some g => .next (s.blendNews s.sel.a g b)
    | none => .next s
  | _ => .next s

/-- The blend table of a core with RES of a rank set or cleared (R286). -/
def Core.setRes (k : Core) (r : Nat) (res : Bool) : Core :=
  match SMap.find k.blend r with
  | some e => { k with blend := SMap.ins k.blend r { e with res := res } }
  | none => k

/-- RESIDENCY_BROADCAST (R286): RES of another rank changes in a member core's blend table, of gang `c` - 1 or with `c` 0 of the core's own; in its save while it is detached. A rank that has finished, detached after it, or ended never returns. -/
def execResidencyBroadcast (s : State) : Host.Outcome State Fault Refusal :=
  let n := s.sel.a
  let r := s.sel.b
  let res := s.sel.flag
  match (if s.sel.c = 0 then (s.core n).gang else some (s.sel.c - 1)) with
  | none => .next s
  | some gid =>
    match SMap.find s.gangs gid with
    | none => .next s
    | some g =>
      if r = g.record.rank || (res && SMap.get .unknown g.peers r != .unknown) then .next s
      else if (s.core n).gang = some gid then .next (s.setCore n ((s.core n).setRes r res))
      else
        match SMap.find g.saved n with
        | some k => .next (s.setGang gid { g with saved := SMap.ins g.saved n (k.setRes r res) })
        | none => .next s

end Sys2Proof.Machine
end

