-- ==== Sys2Proof/Machine/Preempt.lean ====
section
/-! DEFINITION. The end of a gang, pre-emption and restore, and the partition commands (spec/15_scheduler.md R306, R317-R327). -/

namespace Sys2Proof.Machine

/-! ## Exit (R318, R319) -/

/-- Something of the gang is in flight: a start message, a sachet, a message or an acknowledgement. -/
def State.inFlight (s : State) (gid : Nat) : Bool :=
  s.ents.any (fun e => e.gang == gid && (match e.kind with | .start .. | .sachet | .msg | .ack => true | _ => false))

/-- Every cluster exit barrier of a gang has completed (R318, R319). -/
def State.gangDone (s : State) (gid : Nat) (g : Gang) : Bool := (s.liveThreads g).isEmpty && !s.inFlight gid

/-- The blend hold is over (R319): the blend has one rank, or the hold is forced, or every other rank has finished, which detaches it, or has been discarded or ended. A peer that a pre-emption has detached, which comes back, does not end it (DEDUCED, log 75). -/
def Gang.released (g : Gang) : Bool :=
  g.record.size == 1 || g.forced || (rangeFrom 0 g.record.size).all (fun r => r == g.record.rank || SMap.get .unknown g.peers r != .unknown)

/-- No accepted command of the gang remains (R253, R298) (DEDUCED, log 39). -/
def State.commandsDone (s : State) (gid : Nat) : Bool := s.cmds.all (fun p => p.2.gang != gid)

/-- GANG_DETACH (R319): a finished gang of a larger blend tells its peers; once they let it go and its commands are done, DONE. A gang that an ABORT discards never reaches it (R327). -/
def execGangDetach (s : State) : Host.Outcome State Fault Refusal :=
  let gid := s.sel.a
  match SMap.find s.gangs gid with
  | none => .next s
  | some g =>
    if g.st ≠ .running || g.discarding || !s.gangDone gid g then .next s
    else if g.record.size ≠ 1 && !g.told then
      .next ((s.setGang gid { g with told := true }).sendFar g.part [.finished ((g.record.dw 0x68).bits 32 32) g.record.rank])
    else if !g.released || !s.commandsDone gid then .next s
    else .next ((s.dropGang gid g .ended 1).signal g.part g.record 1 0 0)

/-- The codes with which a gang ends (R150). -/
def fatalCode (n : Nat) : Bool := n == cLEASE || n == cBAD_TARGET || n == cILLEGAL_HEADER || n == cECC_UNCORR

/-- GANG_END (R320): a fatal fault on a core ends its gang. -/
def execGangEnd (s : State) : Host.Outcome State Fault Refusal :=
  if fatalCode s.sel.b then .next (s.gangEnd s.sel.a s.sel.b) else .next s

/-! ## Quiescence (R321 steps 1 and 2) -/

/-- A thread has stopped at an instruction boundary with nothing outstanding and no trap to take (R145): only FWAIT and a barrier may hold it. -/
def Ctx.quiet (c : Ctx) : Bool :=
  c.trap.isNone && !c.refusing && c.pend.empty && (match c.busy with | .none | .flag | .barrier _ _ => true | _ => false)
    && c.iq.all (fun a => a.dest == .wake)

/-- An entry does not hold the pre-emption of a gang's cores. -/
def entryQuiet (cores : List Nat) (gid : Nat) (e : Entry) : Bool :=
  match e.src with
  | .thr t =>
    !cores.contains t.core ||
      (match e.kind with
        | .fwait _ => e.phase == .waitlist
        | .msg => e.phase == .channel
        | .refusal _ => true
        | _ => false)
  | .none => e.gang != gid || e.kind == .ack
  | _ => true

/-- A collective that waits in a join list, and will be withdrawn (R298). -/
def Cmd.joining (c : Cmd) : Bool := c.isColl && c.stage == .arrived

/-- An entry that has reached the ingress of the gang's scratchpads or flag words, through the window or by number, has still to perform (R286); an FWAIT at its flag word is withdrawn instead (R247). -/
def State.ingressBusy (s : State) (g : Gang) : Bool :=
  s.ents.any (fun e => (e.phase == .ingress || e.phase == .waitlist && (match e.kind with | .fwait _ => false | _ => true))
    && e.bytes.any (fun b => locModule b.loc == ownModule && decide (locOwner b.loc < 32) && (match coresAt b.loc with | [n] => g.cores.contains n | _ => false)))

/-- A gang's threads, kettle pairs, egresses and commands are quiet. -/
def State.gangQuiet (s : State) (gid : Nat) (g : Gang) : Bool :=
  g.cores.all (fun n =>
    let k := s.core n
    k.ctxs.all (fun p => p.2.st == .exited || p.2.quiet) && k.draw.quiet && k.brew.quiet && k.drawq.all DrawEntry.filled && k.flight.isEmpty && k.vq.isEmpty)
    && s.ents.all (entryQuiet g.cores gid) && !s.ingressBusy g
    && s.cmds.all (fun p => p.2.gang != gid || p.2.joining)

/-- A subscription ends for a pre-emption, to restart later; `again` false for an ABORT. -/
def Cmd.endSub (c : Cmd) (gid : Nat) (again : Bool) : Cmd :=
  match c.instr with
  | .traySub .. => if c.gang = gid && !c.ended then { c with ended := true, fresh := again } else c
  | _ => c

/-- The stop reaches a gang: its threads stop, its subscriptions end (R321). Without `again` it is an ABORT's, which discards the gang. -/
def State.halt (s : State) (gid : Nat) (g : Gang) (again : Bool) : State :=
  let s := { s with cmds := s.cmds.map (fun (p : Nat × Cmd) => (p.1, p.2.endSub gid again)) }
  s.setGang gid { g with halting := true, discarding := !again }

/-- A stopped thread's wait for its pending bits ends at a failed bit: it takes the deferred fault first (R42, R145), a kettle thread's too (R274). -/
def State.flushFails (s : State) (g : Gang) : State :=
  (s.liveThreads g ++ g.cores.flatMap (fun n => [Thr.draw n, Thr.brew n])).foldl (fun s t =>
    let c := s.ctx t
    if c.trap.isNone && !c.pend.empty && c.awaited.empty then
      match s.dueAt t {} true with
      | some f => s.takeFail t f
      | none => s
    else s) s

/-- Matrix commands that wait for a ring arrival, or for the next core's bl1, are cancelled, once every other command of the gang's streams has completed (R177). -/
def State.cancelWaiting (s : State) (g : Gang) : State :=
  if !g.cores.all s.streamStuck then s else g.cores.foldl State.cancelStuck s

/-- An LDS of a gang that is being discarded leaves its wait list without performing, and its destination is no longer pending (R242, R326). -/
def State.dropWaiting (s : State) (g : Gang) : State :=
  let out := s.ents.filter (fun e => e.phase == .waitlist && (match e.src, e.kind with | .thr t, .lds _ => g.cores.contains t.core | _, _ => false))
  let s := { s with ents := s.ents.filter (fun e => !out.any (fun x => x.id == e.id)) }
  out.foldl (fun s e =>
    match e.src with
    | .thr t =>
      let c := s.ctx t
      let d := RegSet.all ((c.iq.filter (fun a => a.id == e.acc)).map (fun a => a.dest.regs))
      s.setCtx t { c with iq := c.iq.filter (fun a => a.id != e.acc), pend := c.pend.minus d }
    | _ => s) s

/-- The commands of a gang that wait in join lists withdrawn (R298). -/
def State.withdraw (s : State) (gid : Nat) : State :=
  let out := (s.cmds.map Prod.snd).filter (fun c => c.gang == gid)
  { s with
    cmds := s.cmds.filter (fun p => p.2.gang != gid)
    trays := s.trays.map (fun (p : Nat × Tray) => (p.1, { p.2 with join := p.2.join.filter (fun i => !out.any (fun c => c.id == i)) })) }

/-- Where a full join list keeps a collective of the gang in its slot queue, the gang's commands in that list are withdrawn to rejoin later (R298), so that every one of them comes to be accepted or withdrawn. -/
def State.unjoin (s : State) (gid : Nat) (g : Gang) : State :=
  let full := (s.cmds.map Prod.snd).filter (fun c => c.gang == gid && c.isColl && c.stage == .queued && decide (16 ≤ (s.tray (potOf c.core)).join.length))
  let out := (s.cmds.map Prod.snd).filter (fun c => c.gang == gid && c.joining && full.any (fun x => potOf x.core == potOf c.core))
  if out.isEmpty then s
  else
    ({ s with
      cmds := s.cmds.filter (fun p => !out.any (fun c => c.id == p.1))
      trays := s.trays.map (fun (p : Nat × Tray) => (p.1, { p.2 with join := p.2.join.filter (fun i => !out.any (fun c => c.id == i)) })) }).setGang gid { g with restart := g.restart ++ out }

/-- One step towards quiescence, taken when nothing else moves. -/
def State.press (s : State) (gid : Nat) (g : Gang) (again : Bool) : State :=
  if !g.halting || (!again && !g.discarding) then s.halt gid g again
  else
    let s1 := s.flushFails g
    let s2 := if s1 = s then s.cancelWaiting g else s1
    let s3 := if s2 = s then s.unjoin gid g else s2
    if s3 = s && !again then s.dropWaiting g else s3

/-! ## The save area (R322) -/

/-- Pieces of 1,024 bytes. -/
def chunks : Nat → List Byte → List (List Byte)
  | 0, _ => []
  | n + 1, l => if l.isEmpty then [] else l.take 1024 :: chunks n (l.drop 1024)

/-- Bytes written at a global address by the launch engine, piece by piece. -/
def State.sysWriteAll (s : State) (e : Env) (a : Word) (l : List Byte) : State :=
  ((chunks (l.length + 1) l).zip (rangeFrom 0 (l.length / 1024 + 1))).foldl (fun s p => s.sysWrite e (a + word (1024 * p.2)) p.1) s

/-- `n` bytes, a multiple of 1,024, read at a global address by the launch engine; a piece without translation reads as unlisted memory. -/
def State.sysReadAll (s : State) (e : Env) (a : Word) (n : Nat) : List Byte :=
  (rangeFrom 0 (n / 1024)).flatMap (fun i =>
    match s.sysLoc e (a + word (1024 * i)) with
    | some l => s.readLocs l 1024
    | none => List.replicate 1024 Memory.unlisted)

/-- The full/empty image bytes of a scratchpad. -/
def State.padImage (s : State) (n : Nat) : List Byte :=
  (rangeFrom 0 4096).map (fun i => s.readLoc (mkLoc ownModule (potOf n) (imageBase + (0x80000 * (n % 512)) / 128 + i)))

/-- The handle-pending bits of a context for handles that are PENDING in its core's table: at a save those of the collectives withdrawn from join lists. -/
def Core.pendingBits (k : Core) (c : Ctx) : BitVec 32 :=
  (gregs c.hpend).foldl (fun m r =>
    let e := k.handle ((c.gr r).bits 0 6)
    if e.gen = (c.gr r).bits 8 8 ∧ e.st = .pending then m ||| bit32 r else m) 0

/-- A context as a save records it (R311, R321, R330): FWAIT and XWAIT waits are withdrawn, and a parked RECV's too (R347), a barrier's is kept, and a handler's own windows close (R144) (DEDUCED, log 32). Its handle-pending bits for handles not yet resolved are put aside, so that its image holds those of faulted handles alone (R90) (DESIGN CHOICE, log 76). -/
def Ctx.saving (k : Core) (c : Ctx) : Ctx :=
  let x := k.pendingBits c
  let c := { c.closed with hops := 0, tb := [], iq := [], fresh := false, stopReq := false, hpend := c.hpend &&& ~~~ x, held := x }
  if c.st = .exited then c
  else
    match c.busy with
    | .barrier _ _ => { c with st := .waiting }
    | _ => { c with st := .ready, busy := .none, wait := 0 }

/-- A handle-table entry as a save keeps it: a pre-emption resolves every handle (R90) (DESIGN CHOICE, log 76). -/
def Handle.saving (h : Handle) : Handle := if h.st = .pending then { h with st := .resolved } else h

/-- A core as a save keeps it. -/
def Core.saving (c : Core) : Core :=
  let idle (x : Ctx) : Ctx := { x with tb := [], iq := [] }
  { c with
    ctxs := c.ctxs.map (fun (p : Nat × Ctx) => (p.1, p.2.saving c))
    handles := c.handles.map (fun (p : Nat × Handle) => (p.1, p.2.saving))
    slots := c.slots.map (fun (p : Nat × Slot) => (p.1, { p.2 with ctx := none }))
    draw := idle c.draw
    brew := idle c.brew
    rotIssued := 0 }

/-- The contexts that a core record lists: those its store holds, in order. -/
def Core.savedCtxs (c : Core) : List (Nat × Ctx) := c.ctxs.filter (fun p => p.2.spilled.isNone && p.2.st != CtxState.exited)

/-- A list of bytes filled up with zeros. -/
def padTo (n : Nat) (l : List Byte) : List Byte := (l ++ List.replicate n 0).take n

/-- A draw-queue entry in the save area: its tag, its filled and failure bits, the address of a failed piece, and its value. -/
def DrawEntry.words (e : DrawEntry) : List Nat :=
  [e.tag, (if e.filled then 1 else 0) + (match e.failed with | some x => 2 + if x.1 then 4 else 0 | none => 0), (e.failed.elim 0 Prod.snd).toNat, e.val.toNat]

/-- A draw-queue entry from its words. -/
def drawEntryOf (a b va c : Word) : DrawEntry :=
  { tag := a.toNat, filled := b.bits 0 1 == 1, failed := if b.bits 1 1 = 1 then some (b.bits 2 1 == 1, va) else none, val := c }

/-- The kettle pair in the save area (R274): which threads run, the lengths of the queues, the queues, and each thread's context in the layout of R88; their places within the 16 KiB are internal (R322, log 33). -/
def Core.pairBytes (k : Core) : List Byte :=
  let running (c : Ctx) : Nat := if c.st = .bound then 1 else 0
  let head := ([running k.draw, running k.brew, k.drawq.length, k.pourq.length] ++ k.drawq.flatMap DrawEntry.words ++ k.pourq.map (fun x => x.toNat)).flatMap (leBytes 8)
  padTo 0x1000 head ++ (k.draw.image ++ k.brew.image)

/-- A kettle thread read back from the save area; none where R90 rejects its image. -/
def Ctx.pairBack (c : Ctx) (runs : Bool) (b : List Byte) : Option Ctx :=
  if !runs then some kettleIdle
  else (if b = c.image then some c else if imgOk b then some (c.fromImage b) else none).map (fun c => { c with st := .bound, wait := 0 })

/-- The kettle pair of a core read back (R274). -/
def Core.pairBack (k : Core) (b : List Byte) : Option Core :=
  let dw (i : Nat) : Word := imgDw b (8 * i)
  let nd := Nat.min 32 (dw 2).toNat
  match k.draw.pairBack (dw 0 == 1) ((b.drop 0x1000).take 4608), k.brew.pairBack (dw 1 == 1) ((b.drop 0x2200).take 4608) with
  | some d, some e =>
    some { k with
      draw := d
      brew := e
      drawq := (rangeFrom 0 nd).map (fun i => drawEntryOf (dw (4 + 4 * i)) (dw (5 + 4 * i)) (dw (6 + 4 * i)) (dw (7 + 4 * i)))
      pourq := (rangeFrom 0 (Nat.min 32 (dw 3).toNat)).map (fun i => dw (4 + 4 * nd + i)) }
  | _, _ => none

/-- The engine state and core registers in the save area (R253, R322): the full bits of bl0 and bl1 and the twin bit, s.world, s.asid, s.tvec, s.rqlimit, s.rnrbase, s.rnrlimit, the number of contexts, s.region0-s.region3, s.xdone0-s.xdone3, the channels' next ids, the holder of each tile plus 1, the generation of each handle, the counters 0x010-0x035 (R401); their places within the 6 KiB are internal (log 33). -/
def Core.innerBytes (k : Core) : List Byte :=
  let bit (b : Bool) (n : Nat) : Nat := if b then n else 0
  padTo 0x1800 (([bit k.bl0Full 1 + bit k.bl1Full 2 + bit k.twin 4, bit k.secure 1, k.asid, k.tvec.toNat, k.rqlimit, k.rnrbase, k.rnrlimit, k.savedCtxs.length]
    ++ (SMap.getRange 0 k.regions 0 4).map (fun (x : Word) => x.toNat) ++ SMap.getRange 0 k.xdone 0 4 ++ SMap.getRange 0 k.nextid 0 4
    ++ (rangeFrom 0 10).map (fun t => ((SMap.find k.holders t).map (fun (h : Nat × Bool) => h.1 + 1)).getD 0) ++ (rangeFrom 0 64).map (fun i => (k.handle i).gen)
    ++ (SMap.getRange 0 k.ctr 0x010 0x26).map (fun (x : Word) => x.toNat)).flatMap (leBytes 8))

/-- The offset and bytes of each part of a core record (R322). -/
def State.coreRecord (s : State) (n : Nat) (k : Core) : List (Nat × List Byte) :=
  [(0, s.readLocs (padLoc n) 0x80000),
   (0x80000, (rangeFrom 0 1024).flatMap (fun f => leBytes 8 (s.flag (flagLoc n f)).toNat)),
   (0x82000, s.padImage n),
   (0x83000, (SMap.getRange 0 k.tiles 0 10240).flatMap (fun x => leBytes 4 x.toNat)),
   (0x8D000, SMap.getRange 0 k.alatch 0 2048 ++ (SMap.getRange 0 k.bl0 0 2048 ++ SMap.getRange 0 k.bl1 0 2048)),
   (0x8E800, k.innerBytes),
   (0x90000, k.savedCtxs.flatMap (fun p => p.2.image)),
   (0xD8000, padTo 0x4000 k.pairBytes),
   (0xDC000, List.replicate 0x24000 0)]

/-- The address of the record of the `i`-th member core. -/
def Rec.coreSave (r : Rec) (i : Nat) : Word := r.save + word (0x10000 + 0x100000 * i)

/-- The address of the record of the `j`-th member cluster, behind `n` cores. -/
def Rec.clusterSave (r : Rec) (n j : Nat) : Word := r.save + word (0x10000 + 0x100000 * n + 0x480000 * j)

/-- The member clusters of a gang. -/
def Gang.clusters (g : Gang) : List Nat := dedup (g.cores.map clusterOf)

/-- The numbers with their places. -/
def indexed (l : List Nat) : List (Nat × Nat) := (rangeFrom 0 l.length).zip l

/-- The bytes of a gang's save area (R322). -/
def Gang.saveSize (g : Gang) : Nat := 0x10000 + 0x100000 * g.cores.length + 0x480000 * g.clusters.length

/-- Every page of a gang's save area has a translation; where one has none, or is in the middle of a move, what the launch engine sends there is refused and tried again (R203) (DESIGN CHOICE, log 11). -/
def State.saveReach (s : State) (g : Gang) : Bool :=
  (rangeFrom 0 (ceilDiv g.saveSize (2 ^ 21))).all (fun i => (s.sysLoc g.record.env (g.record.save + word (2 ^ 21 * i))).isSome)

/-- The marks of uncorrectable data of `n` granules from `src` on taken over to those from `dst` on (R425). -/
def State.copyPoison (s : State) (src dst n : Nat) : State :=
  { s with poison := SMap.overlay s.poison (dst / 16) n (SMap.slice s.poison (src / 16) n) }

/-- The marks of uncorrectable data of `n` KiB of memory saved with their bytes at a global address, or restored with them (R425). -/
def State.savedMarks (s : State) (e : Env) (start n : Nat) (a : Word) (back : Bool) : State :=
  (rangeFrom 0 n).foldl (fun s i =>
    let here := start + 1024 * i
    match s.sysLoc e (a + word (1024 * i)), back with
    | some l, false => s.copyPoison here l 64
    | some l, true => s.copyPoison l here 64
    | none, true => { s with poison := SMap.clearRange s.poison (here / 16) 64 }
    | none, false => s) s

/-- The parts of the save area written (R322) (DESIGN CHOICE, log 33). -/
def State.writeSave (s : State) (g : Gang) : State :=
  let e := g.record.env
  let s := (indexed g.cores).foldl (fun s p =>
    let a := g.record.coreSave p.1
    ((s.coreRecord p.2 (s.core p.2).saving).foldl (fun s x => s.sysWriteAll e (a + word x.1) x.2) s).savedMarks e (padLoc p.2) 512 a false) s
  (indexed g.clusters).foldl (fun s p => 
    let a := g.record.clusterSave g.cores.length p.1
    (s.sysWriteAll e a (s.readLocs (areaLoc p.2 0) 0x480000)).savedMarks e (areaLoc p.2 0) 4608 a false) s

/-- The spilled contexts of a core brought, in their entries, to the form in which they are saved: a wait that a save withdraws stands there no longer. -/
def State.saveSpilled (s : State) (n : Nat) : State :=
  (s.core n).ctxs.foldl (fun s p =>
    match p.2.spilled with
    | some j =>
      let l := areaLoc (clusterOf n) j
      let b := s.readLocs l 4608
      if b = p.2.image then s.putImage (clusterOf n) j (p.2.saving (s.core n)).image else s
    | none => s) s

/-- The gang leaves its cores: collectives in join lists are withdrawn and kept (R298), and its state is saved (R321 steps 3 to 5). -/
def State.save (s : State) (gid : Nat) (g : Gang) : State :=
  let out := (s.cmds.map Prod.snd).filter (fun c => c.gang == gid)
  let s := (g.cores.foldl State.saveSpilled (s.withdraw gid)).writeSave g
  let g := { g with saved := g.cores.map (fun n => (n, (s.core n).saving)), restart := g.restart ++ out }
  s.dropGang gid g .saved 0

/-! ## Partition commands (R306) -/

/-- The location of the partition command word. -/
def commandLoc (part : Nat) : Nat := rootLoc part + 0x400

/-- The partition command word. -/
def State.command (s : State) (part : Nat) : Nat := s.readNat (commandLoc part) 8

/-- OP, QUEUE and INDEX. -/
def State.cmdOp (s : State) (part : Nat) : Nat := s.command part % 16
def State.cmdQueue (s : State) (part : Nat) : Nat := s.command part / 16 % 16
def State.cmdIndex (s : State) (part : Nat) : Nat := s.command part / 2 ^ 16 % 2 ^ 32

/-- The command is done: the word reads 0. -/
def State.commandDone (s : State) (part : Nat) : State := s.writeNat (commandLoc part) 8 0

/-- The gang of a queue's record that is not ended. -/
def State.gangOfRecord (s : State) (part q n : Nat) : Option (Nat × Gang) :=
  s.gangs.find? (fun p => p.2.part == part && p.2.record.queue == q && p.2.record.num == n && p.2.st != .ended)

/-- A gang of the queue that has taken its cores is still to run out; a record that is only ready stays unplaced (R325). -/
def State.queueBusy (s : State) (part q : Nat) : Bool :=
  s.gangs.any (fun p => p.2.part == part && p.2.record.queue == q && (p.2.attached || p.2.detachedNow))

/-- DRAIN (R325): the command stops the taking of records; a draining queue without gangs becomes STOPPED. -/
def execDrain (s : State) : Host.Outcome State Fault Refusal :=
  let part := s.sel.a
  if !s.isPart part then .next s
  else if s.cmdOp part = 1 then
    let q := s.cmdQueue part
    let p := s.part part
    let s := s.setPart part { p with drained := p.drained.filter (fun x => x != q) ++ [q] }
    .next ((if s.qState part q = 0 ∨ s.qState part q = 2 then s.setQState part q 1 (s.qOverrun part q) else s).commandDone part)
  else
    match (rangeFrom 0 16).find? (fun q => s.qState part q == 1 && !s.queueBusy part q) with
    | some q => .next (s.setQState part q 2 (s.qOverrun part q))
    | none => .next s

/-- PREEMPT (R321): a running gang stops, grows quiet, is saved once its save area can be written, and leaves its cores; a finished one detaches as R319 does. The save waits for an INVAL or REVOKE in progress (R327, R393) (DEDUCED, log 95). -/
def execPreempt (s : State) : Host.Outcome State Fault Refusal :=
  let part := s.sel.a
  if !s.isPart part || s.cmdOp part ≠ 3 then .next s
  else
    match s.gangOfRecord part (s.cmdQueue part) (s.cmdIndex part) with
    | none => .next (s.commandDone part)
    | some (gid, g) =>
      if g.st ≠ .running then .next (s.commandDone part)
      else if !g.halting && s.gangDone gid g then .next ((s.setGang gid { g with forced := true }).commandDone part)
      else if !g.halting || !s.gangQuiet gid g then .next (s.press gid g true)
      else if (s.part part).portBusy || !s.saveReach g then .next s
      else .next ((s.save gid g).commandDone part)

/-- RESUME (R323). -/
def execResume (s : State) : Host.Outcome State Fault Refusal :=
  let part := s.sel.a
  if !s.isPart part || s.cmdOp part ≠ 4 then .next s
  else
    match s.gangOfRecord part (s.cmdQueue part) (s.cmdIndex part) with
    | some (gid, g) => .next ((if g.st = .saved then s.setGang gid { g with st := .resumed } else s).commandDone part)
    | none => .next (s.commandDone part)

/-- FORCE (R319): a finished gang stops waiting for its blend. -/
def execForce (s : State) : Host.Outcome State Fault Refusal :=
  let part := s.sel.a
  if !s.isPart part || s.cmdOp part ≠ 5 then .next s
  else
    match s.gangOfRecord part (s.cmdQueue part) (s.cmdIndex part) with
    | some (gid, g) => .next ((if g.st = .running && s.gangDone gid g then s.setGang gid { g with forced := true } else s).commandDone part)
    | none => .next (s.commandDone part)

/-- REOPEN (R301, R306): a STOPPED queue becomes ACTIVE; a word of any other OP is cleared here too. -/
def execReopen (s : State) : Host.Outcome State Fault Refusal :=
  let part := s.sel.a
  let op := s.cmdOp part
  if !s.isPart part || s.command part == 0 then .next s
  else if op = 6 then
    let q := s.cmdQueue part
    let p := s.part part
    .next ((if s.qState part q = 2 then (s.setPart part { p with drained := p.drained.filter (fun x => x != q) }).setQState part q 0 false else s).commandDone part)
  else if op = 0 || 6 < op then .next (s.commandDone part)
  else .next s

/-! ## ABORT (R326) -/

/-- A gang discarded: its peers learn of it, its signal reads ABORTED, and what it holds in other modules is released (R208, R326 step 2). A member that has not started yet leaves its report with rank 0's tray, and the other members are not told (R309) (DESIGN CHOICE, log 83). -/
def State.discard (s : State) (gid : Nat) (g : Gang) : State :=
  let s := match g.st with
    | .running => ((s.withdraw gid).dropGang gid g .ended 3).tellGone g
    | _ => ((if g.detachedNow then s.tellGone g else s).releaseFar g).setGang gid { g with st := .ended, saved := [], restart := [], held := [], endNum := s.next }
  s.signal g.part g.record 3 0 0

/-- The records of a queue's ring that are not taken, from READ up to WRITE as the ABORT found it. -/
def State.untaken (s : State) (part q : Nat) : List Rec :=
  if s.ringOk part q then
    (rangeFrom (s.qRead part q) (Nat.min (s.qSize part q) ((2 ^ 32 + (s.part part).abortTo - s.qRead part q) % 2 ^ 32))).map
      (fun n => s.recordAt part q (n % 2 ^ 32))
  else []

/-- ABORT begins: STATE reads ABORTING, WRITE is noted, and a gang whose exit holds have completed keeps its DONE (R326, R327). -/
def State.beginAbort (s : State) (part q : Nat) : State :=
  let p := s.part part
  let s := (s.setPart part { p with abortTo := s.qWrite part q }).setQState part q 3 (s.qOverrun part q)
  { s with gangs := s.gangs.map (fun x =>
      if x.2.part = part ∧ x.2.record.queue = q ∧ x.2.st = .running ∧ s.gangDone x.1 x.2 ∧ x.2.released then (x.1, { x.2 with kept := true }) else x) }

/-- The place of a pooled record one of whose signals reads a failure (R305): partition and index. -/
def State.failedDep (s : State) : Option (Nat × Nat × Rec) :=
  s.parts.findSome? (fun p => ((rangeFrom 0 p.2.pool.length).zip p.2.pool).findSome? (fun x =>
    if (s.depSignals x.2).any (fun w => w != 0 && w.bits 0 8 != 1) then some (p.1, x.1, x.2) else none))

/-- Pooled records that depend on a record without DONE complete with ABORTED_DEP, and those that depend on them in turn (R305, R326 step 4). -/
def State.failDeps : Nat → State → State
  | 0, s => s
  | fuel + 1, s =>
    match s.failedDep with
    | none => s
    | some (part, i, r) =>
      let p := s.part part
      ((s.setPart part { p with pool := p.pool.eraseIdx i }).signal part r 4 0 0).failDeps fuel

/-- Steps 1 to 5 of ABORT, once the queue's running gangs are quiet. -/
def State.abortQueue (s : State) (part q : Nat) : State :=
  let mine := s.gangs.filter (fun p => p.2.part == part && p.2.record.queue == q && p.2.st != .ended && !p.2.kept)
  let s := mine.foldl (fun s p => s.discard p.1 p.2) s
  let p := s.part part
  let s := s.setPart part { p with pool := p.pool.filter (fun r => r.queue != q) }
  let s := (p.pool.filter (fun r => r.queue == q)).foldl (fun s r => s.signal part r 3 0 0) s
  let s := (s.untaken part q).foldl (fun s r => s.signal part r 3 0 0) s
  let s := State.failDeps (s.parts.foldl (fun n p => n + p.2.pool.length) 0) s
  let s := s.setQRead part q (s.part part).abortTo
  (s.setQState part q 2 (s.qOverrun part q)).commandDone part

/-- ABORT (R326): STATE reads ABORTING while the queue's running gangs grow quiet; then everything of the queue is discarded as one. A gang whose exit holds had completed detaches as R319 does (R327). -/
def execAbort (s : State) : Host.Outcome State Fault Refusal :=
  let part := s.sel.a
  if !s.isPart part || s.cmdOp part ≠ 2 then .next s
  else
    let q := s.cmdQueue part
    if s.qState part q ≠ 3 then .next (s.beginAbort part q)
    else
      match s.gangs.find? (fun p => p.2.part == part && p.2.record.queue == q && p.2.st == .running && !p.2.kept && (!p.2.discarding || !s.gangQuiet p.1 p.2)) with
      | some (gid, g) => .next (s.press gid g false)
      | none => .next (s.abortQueue part q)

/-! ## Restore (R323) -/

/-- The bytes of a map of bytes. -/
def bytesMap (l : List Byte) : SMap Byte := SMap.row 0 0 l

/-- A restored context whose handle-pending bits for the handles of rejoining collectives stand again (DESIGN CHOICE, log 76). -/
def Ctx.regained (c : Ctx) : Ctx := { c with hpend := c.hpend ||| c.held, held := 0 }

/-- A saved context read back over its image, with a new ready stamp: WAITING as saved, or READY where it awaits nothing or its barrier completed meanwhile (R323, R330); none where R90 rejects the image. -/
def Ctx.readBack (c : Ctx) (time : Word) (b : List Byte) : Option Ctx :=
  let freed := match c.busy with
    | .released _ => true
    | _ => false
  let x := if b = c.image then some c else if imgOk b then some (c.fromImage b) else none
  x.map (fun c =>
    let c := c.regained
    if freed || c.wait.bits 0 4 = 0 then { c with st := .ready, stamp := time, busy := .none, wait := 0 } else { c with st := .waiting, stamp := time })

/-- The contexts of a core record read back; the flag says whether every image is acceptable. -/
def readCtxs (time : Word) (bs : List Byte) : Nat → List (Nat × Ctx) → List (Nat × Ctx) × Bool
  | _, [] => ([], true)
  | j, (i, c) :: t =>
    let r := readCtxs time bs (j + 1) t
    match c.readBack time ((bs.drop (4608 * j)).take 4608) with
    | some x => ((i, x) :: r.1, r.2)
    | none => (r.1, false)

/-- A member core written back from its record (R323), its scratchpad with its marks of uncorrectable data; `true` when its images are acceptable. -/
def State.restoreCore (s : State) (gid : Nat) (g : Gang) (i n : Nat) (k : Core) : State × Bool :=
  let e := g.record.env
  let a := g.record.coreSave i
  let lanes := s.sysReadAll e (a + 0x83000) 0xA000
  let lat := s.sysReadAll e (a + 0x8D000) 0x1800
  let img := s.sysReadAll e (a + 0x82000) 0x1000
  let fl := s.sysReadAll e (a + 0x80000) 0x2000
  let back := readCtxs s.time (s.sysReadAll e (a + 0x90000) 0x48000) 0 k.savedCtxs
  let pair := k.pairBack (s.sysReadAll e (a + 0xD8000) 0x4000)
  let k := pair.getD k
  let others := k.ctxs.filter (fun p => p.2.spilled.isNone && p.2.st == CtxState.exited)
  let ctxs := back.1.foldl (fun m p => SMap.ins m p.1 p.2) others
  let s := (s.writeLocs (padLoc n) (s.sysReadAll e a 0x80000)).savedMarks e (padLoc n) 512 a true
  let s := { s with
    flags := SMap.setRange 0 s.flags (flagLoc n 0 / 8) ((rangeFrom 0 1024).map (fun f =>
      let w := word (ofLeBytes ((fl.drop (8 * f)).take 8)); w &&& 0x000FFFFF00000001))
    full := SMap.setRange false s.full (padLoc n / 16) (img.flatMap (fun (b : Byte) => (rangeFrom 0 8).map (fun j => b.toNat.testBit j))) }
  let live := s.core n
  (s.setCore n { k with
    gang := some gid
    ctxs := ctxs
    gangCount := live.gangCount
    prevWorld := live.prevWorld
    tiles := SMap.row 0 0 ((rangeFrom 0 10240).map (fun t => BitVec.ofNat 32 (ofLeBytes ((lanes.drop (4 * t)).take 4))))
    alatch := bytesMap (lat.take 2048)
    bl0 := bytesMap ((lat.drop 2048).take 2048)
    bl1 := bytesMap ((lat.drop 4096).take 2048) }, back.2 && pair.isSome)

/-- A spilled context written back from its cluster's record to an entry of the run-queue area (R322, R323); `true` when its image is acceptable. -/
def State.restoreSpilled (s : State) (g : Gang) (n i : Nat) (c : Ctx) : State × Bool :=
  let cl := clusterOf n
  let j := c.spilled.getD 0
  let place := ((indexed g.clusters).find? (fun p => p.2 == cl)).map Prod.fst |>.getD 0
  let b := (s.sysReadAll g.record.env (g.record.clusterSave g.cores.length place + word (1024 * (4608 * j / 1024))) 6144).drop (4608 * j % 1024) |>.take 4608
  match c.readBack s.time b with
  | none => (s, false)
  | some x =>
    match s.areaFree cl with
    | some j => ((s.setCtx (.ctx n i) x).spillTo n i j, true)
    | none => (s.setCtx (.ctx n i) { x with spilled := none }, true)

/-- The handle of a collective that rejoins is PENDING again, for it has still to resolve (R252, R298) (DESIGN CHOICE, log 76). -/
def State.reopen (s : State) (c : Cmd) : State :=
  let k := s.core c.core
  if c.isColl && decide (c.hidx < 64) then s.setCore c.core (k.setHandle c.hidx { k.handle c.hidx with st := .pending }) else s

/-- A withdrawn collective rejoins with its sequence position, and a subscription departs again (R267, R298, R322); while the join list is full the collective waits in the tray queue (R294), `fresh` marking that it has its position. -/
def State.rejoin (s : State) (c : Cmd) : State :=
  let s := s.reopen c
  let p := potOf c.core
  let t := s.tray p
  if c.isColl && decide (t.join.length < 16) then (s.setTray p { t with join := t.join ++ [c.id] }).setCmd c
  else
    let k := s.core c.core
    (s.setCore c.core { k with tq := k.tq ++ [c.id] }).setCmd (if c.isColl then { c with stage := .queued, fresh := true } else c)

/-- The first core of a list whose images were not acceptable. -/
def firstBad (a : Option Nat) (ok : Bool) (n : Nat) : Option Nat := match a with
  | some x => some x
  | none => if ok then none else some n

/-- Every member core and spilled context of a gang written back, and the first core with an image that R90 rejects. -/
def State.restoreAll (s : State) (gid : Nat) (g : Gang) : State × Option Nat :=
  let r := (indexed g.cores).foldl (fun (x : State × Option Nat) p =>
    let y := x.1.restoreCore gid g p.1 p.2 (SMap.get {} g.saved p.2)
    (y.1, firstBad x.2 y.2 p.2)) (s, none)
  g.saved.foldl (fun (x : State × Option Nat) p => (p.2.ctxs.filter (fun q => q.2.spilled.isSome)).foldl (fun (x : State × Option Nat) q =>
    let y := x.1.restoreSpilled g p.1 q.1 q.2
    (y.1, firstBad x.2 y.2 p.1)) x) r

/-- Some of `n` bytes at a global address that the launch engine reads are uncorrectable. -/
def State.sysPoison (s : State) (e : Env) (a : Word) (n : Nat) : Bool :=
  !s.poison.isEmpty && (rangeFrom 0 (n / 512)).any (fun i => ((s.sysLoc e (a + word (512 * i))).map (fun l => s.poisoned l 512)).getD false)

/-- The first core whose saved flag words, tiles, latches, engine state, contexts or kettle pair, in the save area, hold uncorrectable data (R425). -/
def State.savePoisoned (s : State) (g : Gang) : Option Nat :=
  let e := g.record.env
  let spilled (n : Nat) : Bool := (SMap.get ({} : Core) g.saved n).ctxs.any (fun q =>
    match q.2.spilled with
    | some j => s.sysPoison e (g.record.clusterSave g.cores.length ((((indexed g.clusters).find? (fun p => p.2 == clusterOf n)).map Prod.fst).getD 0) + word (4608 * j)) 4608
    | none => false)
  ((indexed g.cores).find? (fun p => s.sysPoison e (g.record.coreSave p.1 + 0x80000) 0x5C000 || spilled p.2)).map Prod.snd

/-- What a restored gang meets that happened while it was detached: its barriers' completions, and a discarded peer (R298, R330). -/
def State.caughtUp (s : State) (gid : Nat) (g : Gang) : State :=
  (match g.torn with
  | some m => (s.tearBarb gid g m).teardown gid m
  | none => s).settleBars gid

/-- GANG_RESTORE (R323): once its cores are free and its save area can be read, a resumed gang is written back, and RESIDENT goes out (R286); an image that R90 rejects ends it, and so does uncorrectable data in what is saved (R425). -/
def execGangRestore (s : State) : Host.Outcome State Fault Refusal :=
  let gid := s.sel.a
  match SMap.find s.gangs gid with
  | none => .next s
  | some g =>
    if g.st ≠ .resumed || s.commandBusy g.part || !g.cores.all s.coreFree || !s.saveReach g || s.outranked gid g then .next s
    else
      let bad := s.savePoisoned g
      let r := s.restoreAll gid g
      let g' := { g with st := .running, saved := [], restart := [] }
      let s := (g.restart.foldl State.rejoin (r.1.setGang gid g')).tellResidency g true
      let s := (s.traceGang g 0x12 g.record.queue).caughtUp gid g'
      .next (match bad, r.2 with | some n, _ => s.gangEnd n cECC_UNCORR | none, some n => s.gangEnd n cLEASE | none, none => s)

end Sys2Proof.Machine
end

