-- ==== Sys2Proof/Machine/Table.lean ====
section
/-! DEFINITION. Walks, the table port and its operations, page moves, and the residency requests of other modules (spec/18_tables.md R385-R393, R397, 17_caddy.md R363, 10_memories.md R204-R208). -/

namespace Sys2Proof.Machine

/-! ## Walks (R385, R387) -/

/-- The entry that a finished walk caches: a valid one under its key (DEDUCED, log 41). -/
def State.walked (s : State) (o key : Nat) (w : Owner) : Owner :=
  if key < 2 ^ 60 then
    let e := s.walkPage o (key / 2 ^ 24) (key % 2 ^ 24)
    if pageValid o e then { w with tlb := SMap.ins w.tlb key e } else w
  else
    let x := key - 2 ^ 60
    match s.subSlot o (x / 2 ^ 35) (x / 2 ^ 11 % 2 ^ 24) (x % 2 ^ 11) with
    | some a => if subValid o (s.tableEntry o a) then { w with subtlb := SMap.ins w.subtlb key (s.tableEntry o a) } else w
    | none => w

/-- TLB_WALK (R387): the oldest walk of an owner ends; a valid entry enters the memory-side TLB. -/
def execTlbWalk (s : State) : Host.Outcome State Fault Refusal :=
  let o := s.sel.a
  let w := s.owner o
  match w.walks with
  | [] => .next s
  | k :: rest => .next (s.setOwner o (s.walked o k { w with walks := rest }))

/-! ## The table port (R388, R389) -/

/-- The location of a partition's table port. -/
def portLoc (part : Nat) : Nat := rootLoc part + 0x440

/-- OP, TARGET and ASID of the command word. -/
def State.tpOp (s : State) (part : Nat) : Nat := s.readNat (portLoc part) 8 % 16
def State.tpTarget (s : State) (part : Nat) : Nat := s.readNat (portLoc part) 8 / 16 % 128
def State.tpAsid (s : State) (part : Nat) : Nat := s.readNat (portLoc part) 8 / 2 ^ 16 % 2 ^ 16

/-- Argument A0, A1 or A2. -/
def State.tpArg (s : State) (part i : Nat) : Word := word (s.readNat (portLoc part + 8 + 8 * i) 8)

/-- A command ends: STATUS is written, then OP := 0. -/
def State.tpDone (s : State) (part status : Nat) : State :=
  let w := s.readNat (portLoc part) 8
  (s.writeNat (portLoc part + 0x38) 1 status).writeNat (portLoc part) 8 (w / 16 * 16)

/-- The pot lies in the partition. -/
def State.potIn (s : State) (part pot : Nat) : Bool := decide (part ≤ pot) && decide (pot < part + (s.partOf part).2)

/-- TARGET is an owner of the partition's pots or a second-tier half. -/
def State.ownerIn (s : State) (part o : Nat) : Bool :=
  decide (o = 64 ∨ o = 65) || (decide (32 ≤ o ∧ o < 64) && s.potIn part (o - 32))

/-- The physical address of the entry that a PTE writes; none where an upper table is missing or the level is none of the four. -/
def State.pteSlot (s : State) (o asid : Nat) (a0 : Word) : Option Nat :=
  let p := a0.bits 0 24
  let d := SMap.get 0 s.mgmt.conf.root o + 8 * asid
  match a0.bits 36 3 with
  | 0 => some d
  | 1 =>
    let e := s.tableEntry o d
    if tableValid o e then some (2 ^ 15 * e.bits 15 30 + 8 * (p / 2 ^ 12)) else none
  | 2 => s.pageSlot o asid p
  | 3 => s.subSlot o asid p (a0.bits 24 11)
  | _ => none

/-- A page entry written by the host: what a page move had put away for the page is forgotten with its frame (log 28). -/
def Owner.unaway (w : Owner) (level key : Nat) : Owner := if level = 2 then { w with away := SMap.del w.away key } else w

/-- PTE (R389): the owner writes one entry; no TLB entry changes. A command word of any other OP is cleared here (DEDUCED, log 42). -/
def execPte (s : State) : Host.Outcome State Fault Refusal :=
  let part := s.sel.a
  if !s.isPart part || s.tpOp part == 0 then .next s
  else if s.tpOp part = 1 then
    let o := s.tpTarget part
    if !s.ownerIn part o then .next (s.tpDone part 1)
    else
      match s.pteSlot o (s.tpAsid part) (s.tpArg part 0) with
      | some a =>
        let key := pageKey (s.tpAsid part) ((s.tpArg part 0).bits 0 24)
        let s' := s.writeNat (mkLoc ownModule o a) 8 (s.tpArg part 1).toNat
        .next ((s'.setOwner o ((s'.owner o).unaway ((s.tpArg part 0).bits 36 3) key)).tpDone part 0)
      | none => .next (s.tpDone part 1)
  else if 6 < s.tpOp part then
    let w := s.readNat (portLoc part) 8
    .next (s.writeNat (portLoc part) 8 (w / 16 * 16))
  else .next s

/-! ## INVAL (R390) -/

/-- The requests in an owner's ingress that were translated through a page of the range. -/
def State.usersOf (s : State) (o asid first count : Nat) : List Nat :=
  (s.ents.filter (fun e => (e.phase == .ingress || e.phase == .waitlist) && e.env.asid == asid
    && e.bytes.any (fun b => s.canonModule (moduleOf b.va) == ownModule && decide (ownerOf b.va = o)
      && decide (first ≤ offsetOf b.va / 2 ^ 21) && decide (offsetOf b.va / 2 ^ 21 < first + count)))).map Entry.id

/-- A request is still in an ingress. -/
def State.stillIn (s : State) (id : Nat) : Bool := s.ents.any (fun e => e.id == id && (e.phase == .ingress || e.phase == .waitlist))

/-- The translations of a range of pages forgotten at an owner. -/
def State.invalidate (s : State) (o asid first count : Nat) : State := s.setOwner o ((s.owner o).forget asid first count)

/-- INVAL (R390): the owner forgets the range in one move; STATUS is written once every request that used an old entry has performed. A page count outside 1 to 2^24 is refused (DESIGN CHOICE, log 90). A PREEMPT or ABORT in progress comes first (R327) (DEDUCED, log 95). -/
def execInval (s : State) : Host.Outcome State Fault Refusal :=
  let part := s.sel.a
  if !s.isPart part || s.tpOp part != 2 then .next s
  else
    let p := s.part part
    let o := s.tpTarget part
    let n := (s.tpArg part 1).toNat
    match p.inval with
    | some l => if l.any s.stillIn then .next s else .next ((s.setPart part { p with inval := none }).tpDone part 0)
    | none =>
      if s.queueCommand part then .next s
      else if !s.ownerIn part o || !decide (1 ≤ n ∧ n ≤ 2 ^ 24) then .next (s.tpDone part 1)
      else
        let first := (s.tpArg part 0).bits 0 24
        .next ((s.invalidate o (s.tpAsid part) first n).setPart part { p with inval := some (s.usersOf o (s.tpAsid part) first n) })

/-! ## REVOKE (R393) -/

/-- The buffers that a command names, as its acceptance checked them. -/
def Cmd.bufs (c : Cmd) : List Buf :=
  let im (n : Nat) : List Buf := [⟨none, false, permR, [(clr4 c.ra, n)]⟩]
  match c.instr with
  | .xpush .. | .xpushr .. => pushBufs c
  | .allred .. | .allgath .. => collBufs c c.info
  | .trayGather .. | .trayScatter .. | .trayReduce .. | .traySub .. => trayBufs c
  | .stvec .. | .ldnear .. => caddyBufs c c.data
  | .mlda fmt _ _ => im (imageBytes fmt.val)
  | .mldb fmt _ _ => im (imageBytes fmt.val)
  | .mmai .. => im 256
  | .msca _ k _ _ _ => im (if k.val = 0 then 64 else 256)
  | .mdrain _ fmt _ _ => im (1024 * drainSize fmt.val)
  | _ => []

/-- A stretch of bytes meets a range. -/
def State.meetsRange (s : State) (l : Lease) (r : Word × Nat) : Bool :=
  overlap (s.leaseSpan l) (s.leaseKey r.1, s.leaseKey r.1 + r.2)

/-- The core is the gang's, or was and no gang has it since: what a gang leaves on its way when it ends still counts. -/
def State.coreWas (s : State) (gid n : Nat) : Bool :=
  (s.core n).gang == some gid || ((s.core n).gang.isNone && ((SMap.find s.gangs gid).map (fun g => g.cores.contains n)).getD false)

/-- Something of the gang still stands between issue and performance at the range: an entry, a command with a buffer there, or a command, accepted or still to be, with its parameter block there, where its STATUS and RESULT words go. -/
def State.rangeBusy (s : State) (gid : Nat) (l : Lease) : Bool :=
  s.ents.any (fun e =>
    (match e.src with | .thr t => s.coreWas gid t.core | .cmd i => ((SMap.find s.cmds i).map Cmd.gang) == some gid | _ => false)
      && e.phase != .reply && e.bytes.any (fun b => s.leaseCovers l (s.leaseKey b.va)))
  || s.cmds.any (fun p => p.2.gang == gid && (p.2.stage != .block && p.2.bufs.any (fun b => b.rows.any (s.meetsRange l))
      || (p.2.stage == .block || p.2.block.length == 64) && s.meetsRange l (p.2.ra, 64)))

/-- Clearing V of a lease entry on a core. -/
def Core.unlease (c : Core) (i : Nat) : Core := { c with lease := SMap.del c.lease i }

/-- Range `i` of a gang released at the module that holds it resident (R208). -/
def State.releaseOne (s : State) (gid : Nat) (g : Gang) (i : Nat) : State :=
  let out := g.held.filter (fun h => h.1 == i)
  if out.isEmpty then s
  else (s.setGang gid { g with held := g.held.filter (fun h => h.1 != i) }).sendFar g.part (out.map (fun h => .release h.2))

/-- REVOKE (R393): every member core clears the entry in one move; STATUS is written, and a range of another module released there (R208), once no admitted access to the range is under way. A PREEMPT or ABORT in progress comes first (R327) (DEDUCED, log 95). -/
def execRevoke (s : State) : Host.Outcome State Fault Refusal :=
  let part := s.sel.a
  if !s.isPart part || s.tpOp part != 3 then .next s
  else
    let p := s.part part
    match p.revoking with
    | some (gid, i, l) =>
      if s.rangeBusy gid l then .next s
      else
        let s := s.setPart part { p with revoking := none }
        let s := match SMap.find s.gangs gid with
          | some g => s.releaseOne gid g i
          | none => s
        .next (s.tpDone part 0)
    | none =>
      let a0 := s.tpArg part 0
      let i := (s.tpArg part 1).bits 0 4
      if s.queueCommand part then .next s
      else match s.gangOfRecord part (a0.bits 4 4) (a0.bits 16 32) with
      | none => .next (s.tpDone part 1)
      | some (gid, g) =>
        match SMap.find g.record.lease i with
        | none => .next (s.tpDone part 1)
        | some l =>
          if g.st ≠ .running then .next (s.tpDone part 1)
          else
            let s := g.cores.foldl (fun s n => s.setCore n ((s.core n).unlease i)) s
            let s := s.setGang gid { g with record := { g.record with lease := SMap.del g.record.lease i } }
            .next (s.setPart part { p with revoking := some (gid, i, l) })

/-! ## Buffer names (R397) -/

/-- The end of the bytes of an owner in which a named buffer may begin, data bytes in pot SRAM, and the end of its populated range (R196, R397). -/
def bufStart (o : Nat) : Nat := if o < 32 then ctlBase else 2 ^ 45
def bufEnd (o : Nat) : Nat := if o < 32 then sramEnd else 2 ^ 45

/-- BASE and LENGTH keep R397 at pot `p`. -/
def State.bufPlace (s : State) (p : Nat) (base : Word) (len : Nat) : Bool :=
  s.canonModule (moduleOf base) == ownModule && (ownerOf base == p || ownerOf base == 32 + p)
    && decide (offsetOf base < bufStart (ownerOf base)) && decide (offsetOf base + len ≤ bufEnd (ownerOf base))

/-- The lowest unused entry of a buffer-name table. -/
def Tray.freeName (t : Tray) : Option Nat := (rangeFrom 0 256).find? (fun i => (SMap.find t.names i).isNone)

/-- The entry that a name and address space have. -/
def Tray.nameKey (t : Tray) (name asid : Nat) : Option Nat :=
  (t.names.find? (fun p => p.2.name == name && p.2.asid == asid)).map Prod.fst

/-- BUFREG (R397). -/
def execBufreg (s : State) : Host.Outcome State Fault Refusal :=
  let part := s.sel.a
  if !s.isPart part || s.tpOp part != 4 then .next s
  else
    let p := s.tpTarget part
    let a0 := s.tpArg part 0
    let b : BufName := { secure := a0.bits 20 1 == 1, fmt := a0.bits 16 4, asid := s.tpAsid part, name := a0.bits 0 16, base := s.tpArg part 1, len := (s.tpArg part 2).bits 0 45 }
    let t := s.tray p
    match t.freeName with
    | none => .next (s.tpDone part 1)
    | some i =>
      if !s.potIn part p || decide (9 < b.fmt) || (t.nameKey b.name b.asid).isSome || !s.bufPlace p b.base b.len then .next (s.tpDone part 1)
      else .next ((s.setTray p { t with names := SMap.ins t.names i b }).tpDone part 0)

/-- BUFDEL (R397). -/
def execBufdel (s : State) : Host.Outcome State Fault Refusal :=
  let part := s.sel.a
  if !s.isPart part || s.tpOp part != 5 then .next s
  else
    let p := s.tpTarget part
    let t := s.tray p
    match t.nameKey ((s.tpArg part 0).bits 0 16) (s.tpAsid part) with
    | some i => if s.potIn part p then .next ((s.setTray p { t with names := SMap.del t.names i }).tpDone part 0) else .next (s.tpDone part 1)
    | none => .next (s.tpDone part 1)

/-! ## CADDY (R362, R363) -/

/-- Every field of a descriptor lies in its range, and the reserved ones are 0. -/
def descFields (d : Desc) : Bool :=
  (descFmt d == 0 || descFmt d == 2 || descFmt d == 5) && decide (4 ≤ descDim d ∧ descDim d ≤ 1024) && decide (2 ≤ descDeg d ∧ descDeg d ≤ 64)
    && decide (1 ≤ descLb d ∧ descLb d ≤ 256) && decide (1 ≤ descShards d ∧ descShards d ≤ 32) && decide (1 ≤ descNpages d)
    && (dword d 0).bits 16 3 == 0 && (dword d 1).bits 45 3 == 0 && (dword d 1).bits 0 21 == 0

/-- A running or saved gang, of this module or another, holds a lease on storage pages of the descriptor. -/
def State.storeLeased (s : State) (part : Nat) (d : Desc) : Bool :=
  s.parts.any (fun p => p.2.remote.any (fun h => h.asid == descAsid d
    && (rangeFrom 0 (descShards d)).any (fun n => overlap (storeSpan part d n) (s.leaseKey h.base, s.leaseKey h.base + h.length))))
  || s.gangs.any (fun p => (p.2.attached || p.2.detachedNow) && p.2.record.asid == descAsid d
    && p.2.record.lease.any (fun l => (rangeFrom 0 (descShards d)).any (fun n => overlap (storeSpan part d n) (s.leaseSpan l.2))))

/-- A descriptor with V = 1 is refused (R363). -/
def State.descRefused (s : State) (part : Nat) (d : Desc) : Bool :=
  !descFields d || decide ((s.partOf part).2 < descBasepot d + descShards d)
    || (rangeFrom 0 (descShards d)).any (fun n => s.potSecure (shardPot part d n) != descSecure d) || s.storeLeased part d

/-- Every shard of a caddy starts empty with its stamp at 0 (R363). -/
def State.startShards (s : State) (part c : Nat) (d : Desc) : State :=
  (rangeFrom 0 (descShards d)).foldl (fun s n =>
    let p := shardPot part d n
    let t := s.tray p
    s.setTray p { t with shards := SMap.ins t.shards c { desc := some d, inst := s.next, queue := (SMap.get {} t.shards c).queue } }) { s with next := s.next + 1 }

/-- CADDY (R362, R363, R389): a descriptor is installed, or its V is cleared and every shard has the clearing still to apply. A new installation waits until an earlier clearing has been applied everywhere (DEDUCED, log 22). -/
def execCaddy (s : State) : Host.Outcome State Fault Refusal :=
  let part := s.sel.a
  if !s.isPart part || s.tpOp part != 6 then .next s
  else
    let p := s.part part
    let c := (s.tpArg part 0).bits 0 6
    let d : Desc := [s.tpArg part 1, s.tpArg part 2, 0, 0]
    let old := SMap.get [] p.caddies c
    if descV d then
      if descV old || s.descRefused part d then .next (s.tpDone part 1)
      else if p.clearing.any (fun x => x.1 == c) then .next s
      else .next (((s.setPart part { p with caddies := SMap.ins p.caddies c d }).startShards part c d).tpDone part 0)
    else
      let gone := if descV old then (rangeFrom 0 (descShards old)).map (fun n => (c, n, shardPot part old n)) else []
      .next ((s.setPart part { p with
        caddies := SMap.ins p.caddies c d
        clearing := p.clearing ++ gone
        retired := if descV old then SMap.ins p.retired c old else p.retired }).tpDone part 0)

/-! ## Page moves (R386, R390, R204, R205) -/

/-- The entry that a move changes, with its place: a page's, or with `sub` above 0 that of its sub-page `sub` - 1. -/
def State.framed (s : State) (o asid page sub : Nat) : Option (Nat × Word) :=
  let slot := if sub = 0 then s.pageSlot o asid page else s.subSlot o asid page (sub - 1)
  let ok := if sub = 0 then pageValid o else subValid o
  match slot with
  | some a => if ok (s.tableEntry o a) then some (a, s.tableEntry o a) else none
  | none => none

/-- The size of what an entry maps: a sub-page, the sub-page table of a page with SUB = 1, or a page. -/
def frameSize (e : Word) (sub : Nat) : Nat := if 0 < sub then 2 ^ 10 else if e.bits 62 1 = 1 then 2 ^ 14 else 2 ^ 21

/-- PAGE_MOVE (R390): MOVE is set and the page invalidated; later arrivals are refused. -/
def execPageMove (s : State) : Host.Outcome State Fault Refusal :=
  let o := s.sel.a
  match s.framed o s.sel.b s.sel.c s.sel.d with
  | some (a, e) =>
    if !decide (32 ≤ o ∧ o ≤ 65) || e.bits 60 1 == 1 then .next s
    else .next ((s.writeNat (mkLoc ownModule o a) 8 (e ||| word (2 ^ 60)).toNat).invalidate o s.sel.b s.sel.c 1)
  | none => .next s

/-- A request in an ingress was translated to a stretch of an owner's memory. -/
def State.frameUsed (s : State) (o a n : Nat) : Bool :=
  let l := mkLoc ownModule o a
  s.ents.any (fun e => (e.phase == .ingress || e.phase == .waitlist) && e.bytes.any (fun b => decide (l ≤ b.loc) && decide (b.loc < l + n)))

/-- A gang, of this module or another, holds a lease on a page (R205, R208). -/
def State.pageLeased (s : State) (o asid page : Nat) : Bool :=
  let x := (mkLoc ownModule o (2 ^ 21 * page), mkLoc ownModule o (2 ^ 21 * page) + 2 ^ 21)
  s.gangs.any (fun p => (p.2.attached || p.2.detachedNow) && p.2.record.asid == asid && p.2.record.lease.any (fun l => overlap x (s.leaseSpan l.2)))
    || s.parts.any (fun p => p.2.remote.any (fun h => h.asid == asid && overlap x (s.leaseKey h.base, s.leaseKey h.base + h.length)))

/-- The sub-page that a PAGE_MOVE_END names, plus 1; 0 for the page. -/
def Sel.sub (x : Sel) : Nat :=
  match x.inp with
  | .word w => w.toNat
  | _ => 0

/-- A page moved out to a frame of the second tier (R204): its entry is valid no longer and keeps its WORLD, which a page move does not change (R386), and its contents stand there until the page is made resident again. -/
def State.moveOut (s : State) (o asid page a frame : Nat) (e : Word) : State :=
  let half := 64 + frame / 2 ^ 19
  let f := 2 ^ 21 * (frame % 2 ^ 19)
  if o < 64 ∧ half < 66 ∧ s.frameFree half f (2 ^ 21) ∧ !s.pageLeased o asid page then
    let l := mkLoc ownModule half f
    let s := ((s.copyBytes (mkLoc ownModule o (e.bits 0 45)) l (2 ^ 21)).writeNat (mkLoc ownModule o a) 8 (2 ^ 61 * e.bits 61 1)).invalidate o asid page 1
    s.setOwner o { s.owner o with away := SMap.ins (s.owner o).away (pageKey asid page) l }
  else s

/-- PAGE_MOVE_END (R390): once no request is left at the old frame, its contents are copied to a free frame and the entry takes that frame with MOVE cleared; with `flag` a page that no lease covers goes to the second tier. -/
def execPageMoveEnd (s : State) : Host.Outcome State Fault Refusal :=
  let o := s.sel.a
  let sub := s.sel.sub
  match s.framed o s.sel.b s.sel.c sub with
  | some (a, e) =>
    let n := frameSize e sub
    let old := e.bits 0 45
    let new := n * s.sel.d
    if !decide (32 ≤ o ∧ o ≤ 65) || e.bits 60 1 == 0 || s.frameUsed o old n then .next s
    else if s.sel.flag then (if n = 2 ^ 21 then .next (s.moveOut o s.sel.b s.sel.c a s.sel.d e) else .next s)
    else if !s.frameFree o new n then .next s
    else
      let x := e.toNat - 2 ^ 60 - old + new
      .next (((s.copyBytes (mkLoc ownModule o old) (mkLoc ownModule o new) n).writeNat (mkLoc ownModule o a) 8 x).invalidate o s.sel.b s.sel.c 1)
  | none => .next s

/-! ## Residency requests of other modules (R208) -/

/-- The partition whose launch engine holds an owner; the second tier's is the one of pot 0 (DESIGN CHOICE, log 8). -/
def State.ownerPart (s : State) (o : Nat) : Nat := (s.partOf (if o < 64 then o % 32 else 0)).1

/-- A residency request is refused (R208): the owner is of the other world, or the range covers a caddy page, a reserved span, or a range that a gang of the other world holds or that is held with the other world (DESIGN CHOICE, log 8). -/
def State.remoteRefused (s : State) (l : Lease) (asid : Nat) : Bool :=
  !leaseShape l || s.canonModule (moduleOf l.base) != ownModule || !s.rangeWorld [] l || reservedSpan l || s.onCaddy asid l
    || s.gangs.any (fun p => (p.2.attached || p.2.detachedNow) && (p.2.record.asid == asid || decide (ownerOf l.base < 32))
      && p.2.record.lease.any (fun m => (p.2.record.secure != l.secure || m.2.secure != l.secure)
        && (overlap (s.leaseSpan m.2) (s.leaseSpan l) || overlapAny (s.leaseHere p.2.part p.2.record m.2) [s.leaseSpan l])))
    || s.parts.any (fun p => p.2.remote.any (fun h => h.secure != l.secure && (h.asid == asid || decide (ownerOf l.base < 32))
      && overlap (s.leaseSpan l) (s.leaseKey h.base, s.leaseKey h.base + h.length)))

/-- The range overlaps a slice range of a detached gang, and is granted to no other gang meanwhile (R193). -/
def State.sliceHeld (s : State) (l : Lease) : Bool :=
  s.gangs.any (fun p => p.2.detachedNow && p.2.record.lease.any (fun m => overlapAny ((s.leaseHere p.2.part p.2.record m.2).filterMap sliceOf) [s.leaseSpan l]))

/-- The answer to a gang's residency request for range `n` (R208): an accepted range is held, or given back by a gang that has ended meanwhile. -/
def State.takeAnswer (s : State) (gid n : Nat) (ok : Bool) : State :=
  match SMap.find s.gangs gid with
  | none => s
  | some g =>
    match (s.remoteRanges g.record).find? (fun p => p.1 == n) with
    | none => s
    | some p =>
      if !g.asked || (SMap.find g.answers n).isSome then s
      else
        let g := { g with answers := SMap.ins g.answers n ok }
        if !ok then s.setGang gid g
        else if g.st = .ended then (s.setGang gid g).sendFar g.part [.release p.2]
        else s.setGang gid { g with held := g.held ++ [p] }

/-- RESIDENCY_REQUEST (R208): another module's request is answered: the range's pages become resident with its world and the range is held, or the request is refused; it waits while a page has no frame, or a detached gang's slice range stands in the way (R193). Without a range, the answer to a request of this module arrives: `a` is the gang plus 1, `b` the range number. -/
def execResidencyRequest (s : State) : Host.Outcome State Fault Refusal :=
  match s.sel.inp with
  | .remote r =>
    let l : Lease := { base := r.base, r := true, w := true, secure := r.secure, len := r.length, map := 0 }
    let pages := s.leasePages l
    let n := s.ownerPart (ownerOf r.base)
    if s.remoteRefused l r.asid then .next (s.sendFar n [.answer r false])
    else if !s.pagesReady r.asid pages || s.sliceHeld l then .next s
    else
      let s := (pages.foldl (fun s p => s.makeResident r.asid r.secure p) s).sendFar n [.answer r true]
      let p := s.part n
      .next (s.setPart n { p with remote := p.remote ++ [r] })
  | .none => if s.sel.a = 0 then .next s else .next (s.takeAnswer (s.sel.a - 1) s.sel.b s.sel.flag)
  | _ => .next s

/-- RESIDENCY_RELEASE (R208): the launch engine stops holding a range. -/
def execResidencyRelease (s : State) : Host.Outcome State Fault Refusal :=
  match s.sel.inp with
  | .remote r =>
    let n := s.ownerPart (ownerOf r.base)
    let p := s.part n
    .next (s.setPart n { p with remote := p.remote.erase r })
  | _ => .next s

end Sys2Proof.Machine
end

