-- ==== Sys2Proof/Machine/Boundary.lean ====
section
/-! DEFINITION. The host, boot, attestation, soft errors, freeze, the debugger stop, power, links and the cycle (spec/20_boundary.md R415-R429, 14_fabric.md R278-R279, 15_scheduler.md R315, 19_counters.md R414). -/

namespace Sys2Proof.Machine

/-! ## Host requests and interrupts (R416, R417) -/

/-- The signal of an interrupt owed has performed, or can be written now (R203, R417). -/
def State.irqReady (s : State) (v : Irq) : Bool :=
  match v.write with
  | none => true
  | some (e, a, _) => (s.sysLoc e a).isSome

/-- HOST_INTERRUPT (R417): the oldest vector owed whose signal has performed leaves for the host; a signal that could not be written is written first, once its place has a translation (R203) (DESIGN CHOICE, log 11). -/
def execHostInterrupt (s : State) : Host.Outcome State Fault Refusal :=
  let n := s.sel.a
  let p := s.part n
  match takeFirst s.irqReady p.irqs with
  | none => .next s
  | some (v, rest) =>
    match v.write with
    | none => .next (s.setPart n { p with irqs := rest, sent := p.sent ++ [v.vec] })
    | some (e, a, x) => .next ((s.sysWrite e a (leBytes 8 x)).setPart n { p with irqs := { vec := v.vec } :: rest })

/-- What a host port's accesses carry (R416): its world, the address space of the request, rnrbase 256, SHIFT and TRIES 8. They stand for no core. -/
def State.hostEnv (s : State) (part asid : Nat) : Env :=
  { core := 2 ^ 15, secure := SMap.get false s.mgmt.conf.hostSecure part, asid := asid, rnrbase := 256, rnrlimit := 8 + 8 * 2 ^ 8 }

/-- The number of bytes from `a` on for which a host port's rights do not change: to the next page or window edge. -/
def hostRun (a : Word) : Nat := 2 ^ 21 - offsetOf a % 2 ^ 21

/-- A host port may reach the byte, in its world (R416). -/
def State.hostReaches (s : State) (part : Nat) (e : Env) (a : Word) : Bool :=
  let o := ownerOf a
  s.canonModule (moduleOf a) == ownModule &&
    (if o < 32 then s.potIn part o && s.potSecure o == e.secure && decide (offsetOf a < ctlBase)
     else if o < 66 then
       (decide (64 ≤ o) || s.potIn part (o - 32))
         && (let pe := s.walkPage o e.asid (offsetOf a / 2 ^ 21)
             !pageValid o pe || decide (pe.bits 61 1 = 1) == e.secure)
     else o == 66)

/-- Every byte of a stretch may be reached. -/
def State.hostAll (s : State) (part : Nat) (e : Env) : Nat → Word → Nat → Bool
  | 0, _, _ => false
  | fuel + 1, a, n =>
    if n = 0 then true
    else if !s.hostReaches part e a then false
    else if n ≤ hostRun a then true
    else s.hostAll part e fuel (a + word (hostRun a)) (n - hostRun a)

/-- The source port of a host port. -/
def hostPort (part : Nat) : Nat := 16384 + 64 + part

/-- The entries of host request `req`. -/
def hostEntries (part req : Nat) (e : Env) (k : EKind) (acq : Bool) (rel : Nat) : Nat → List (Nat × List EByte) → List Entry
  | _, [] => []
  | n, (b, l) :: r =>
    { id := n, src := .host part, port := hostPort part, tgt := b, cls := .store, phase := .egress, kind := k, acc := req, bytes := l, env := e, rel := rel, acq := acq,
      low := (l.head?.map EByte.va).getD 0 } :: hostEntries part req e k acq rel (n + 1) r

/-- A request that completes with a UCIe error response: none of its bytes performs. -/
def State.hostError (s : State) (part : Nat) : State :=
  let p := s.part part
  ({ s with next := s.next + 1 } : State).setPart part { p with answers := p.answers ++ [{ req := s.next, error := true, data := [] }] }

/-- A request enters the ordering machine, or completes with an error response and performs nothing; one of no byte is answered at once. -/
def State.hostIssue (s : State) (part asid : Nat) (k : EKind) (acq : Bool) (rel : Nat) (a : Word) (n : Nat) (v : List Byte) : State :=
  let e := s.hostEnv part asid
  if !s.hostAll part e (n / 2 ^ 21 + 2) a n then s.hostError part
  else
    let bs := (contiguous a 0 n v).map (fun b => { b with loc := mkLoc ownModule (ownerOf b.va) (offsetOf b.va) })
    let ps := splitPieces bs
    let p := s.part part
    let h : HostAcc := { left := ps.length, reads := if k = .store then 0 else n }
    let p := if ps.isEmpty then { p with answers := p.answers ++ [h.answer s.next] } else { p with asked := SMap.ins p.asked s.next h }
    ({ s with ents := s.ents ++ hostEntries part s.next e k acq rel (s.next + 1) ps, next := s.next + 1 + ps.length } : State).setPart part p

/-- HOST_REQUEST (R416) (DEDUCED, log 48). -/
def execHostRequest (s : State) : Host.Outcome State Fault Refusal :=
  let part := s.sel.a
  if !s.isPart part then .next s
  else
    match s.sel.inp with
    | .host (.read a asid n acq) => .next (s.hostIssue part asid .load acq 0 a n [])
    | .host (.write a asid data rel) => .next (s.hostIssue part asid .store false (if rel then 2 else 0) a data.length data)
    | .host (.atomic a asid op n b c acq rel) =>
      if (n == 4 || n == 8 || n == 16) && a.toNat % n == 0 then .next (s.hostIssue part asid (.atomic op n b c) acq (if rel then 2 else 0) a n []) else .next (s.hostError part)
    | _ => .next s

/-! ## Boot (R418-R422, R428) -/

/-- The fields of the image, each at its offset of the boot flash (R419): MAGIC, VERSION, BODYLEN, PUBKEY, SIG and BODY. -/
def flashMagic (i : BootImage) : Word := imgDw i.flash 0
def flashVersion (i : BootImage) : Word := imgDw i.flash 8
def flashBodyLen (i : BootImage) : Nat := (imgDw i.flash 0x10).toNat
def flashKey (i : BootImage) : List Byte := (i.flash.drop 0x18).take 2592
def flashSig (i : BootImage) : List Byte := (i.flash.drop 0x0A38).take 4627
def flashBody (i : BootImage) : List Byte := (i.flash.drop 0x1C50).take (flashBodyLen i)

/-- The image lies inside the boot flash (R420 step 1). -/
def flashFits (i : BootImage) : Bool := decide (0x1C50 + flashBodyLen i ≤ i.flash.length)

/-- The image's bytes before the signature, which the signature covers with the body (R419). -/
def bootSigned (i : BootImage) : List Byte := i.flash.take 0x0A38

/-- The whole image (R419). -/
def bootBytes (i : BootImage) : List Byte := i.flash.take (0x1C50 + flashBodyLen i)

/-- MAGIC of R419. -/
def bootMagic : Word := 0x4E4C58494D470001

/-- A number that the configuration block declares (log 7). -/
def confNat (body : List Byte) (n : Nat) : Nat := (Config.confWord body n).getD 0

/-- A truth value that the configuration block declares. -/
def confBit (body : List Byte) (n : Nat) : Bool := confNat body n % 2 == 1

/-- The first pot and size of a pot's partition, of 2^k pots (R418). -/
def confPart (body : List Byte) (p : Nat) : Nat × Nat :=
  let k := Nat.min 5 (confNat body (1 + p))
  (p / 2 ^ k * 2 ^ k, 2 ^ k)

/-- A value is declared, below this bound. -/
def confBelow (body : List Byte) (m n : Nat) : Bool := (Config.confWord body n).any (fun x => decide (x < m))

/-- The partition map: every pot declares its partition's size, 1 to 32 pots, and all pots of a partition declare one size, so that each pot lies in exactly one partition (R418). -/
def confParts (body : List Byte) : Bool :=
  (rangeFrom 0 32).all (fun p => confBelow body 6 (1 + p)
    && (rangeFrom (confPart body p).1 (confPart body p).2).all (fun q => confNat body (1 + q) == confNat body (1 + p)))

/-- The world maps and the world of every partition's host port are declared (R418, R422). -/
def confWorlds (body : List Byte) : Bool :=
  (rangeFrom 0 32).all (fun p => confBelow body 2 (33 + p) && (rangeFrom 0 5).all (fun e => confBelow body 2 (65 + 8 * p + e))
    && ((confPart body p).1 != p || confBelow body 2 (323 + p)))

/-- The fabric number, the form of each half, the directory of each translating owner inside that owner's memory, the cap between 6 kW and 13.5 kW, the secure read-out enable and the route tables are declared (R12, R385, R422, R429) (DESIGN CHOICE, log 7). -/
def confRest (body : List Byte) : Bool :=
  confBelow body 0x1000 0 && confBelow body 2 321 && confBelow body 2 322
    && (rangeFrom 0 34).all (fun k => confBelow body (ownerSize (32 + k) - 8 * 65536 + 1) (387 + k))
    && (Config.confWord body 421).any (fun x => decide (6000 ≤ x) && decide (x ≤ 13500)) && confBelow body 2 422 && (Config.routeTables body).isSome

/-- Step 5 of R420 passes. -/
def confOk (body : List Byte) : Bool := confParts body && confWorlds body && confRest body && Config.confValid body

/-- What the configuration block declares (R422), at numbered places of it (log 7). -/
def confOf (body : List Byte) : Conf :=
  { fabric := confNat body 0 % 0x1000
    partOf := SMap.row (0, 32) 0 ((rangeFrom 0 32).map (confPart body))
    potSecure := SMap.row false 0 ((rangeFrom 33 32).map (confBit body))
    engSecure := SMap.row false 0 ((rangeFrom 65 256).map (confBit body))
    halfForm := SMap.row 0 0 ((rangeFrom 321 2).map (confNat body))
    routes := (Config.routeTables body).getD []
    hostSecure := SMap.row false 0 ((rangeFrom 323 32).map (confBit body))
    root := SMap.row 0 32 ((rangeFrom 387 34).map (confNat body))
    cap := confNat body 421
    secureRead := confBit body 422 }

/-- The step of R420 that fails, if any. -/
def bootFail (i : BootImage) : Option Nat :=
  if flashMagic i ≠ bootMagic || !flashFits i then some 1
  else if Config.sha3_512 (flashKey i) ≠ Config.romDigest then some 2
  else if !Config.mldsaVerify (flashKey i) (Config.sha3_512 (bootSigned i ++ flashBody i)).toList (flashSig i) then some 3
  else if !i.pufOk then some 4
  else if !confOk (flashBody i) then some 5
  else if !i.ucieOk then some 6
  else none

/-- The seed of the identity key (R421). -/
def identitySeed (puf : List Byte) : List Byte := (Config.sha3_512 puf).toList.take 32

/-- MSTATE (R424). -/
def mstateWord (boot step cause : Nat) : Word := word (boot + 2 ^ 4 * step + 2 ^ 8 * cause)

/-- The management core after a boot that succeeds. -/
def bootedMgmt (i : BootImage) : Mgmt :=
  { mstate := mstateWord 1 0 0
    linkfail := word i.linksDown.length
    image := bootBytes i
    body := flashBody i
    version := flashVersion i
    seed := identitySeed Config.puf
    linksDown := i.linksDown
    conf := confOf (flashBody i) }

/-- RESET (R420, R428): everything returns to its reset value, and the boot steps run; the first that fails leaves the module in reset. Memory is left unspecified (log 2). -/
def execReset (s : State) : Host.Outcome State Fault Refusal :=
  match s.sel.inp with
  | .img i =>
    let r : State := { State.reset with agenda := s.agenda, sel := s.sel, frees := s.frees }
    match bootFail i with
    | some n => .next { r with mgmt := { mstate := mstateWord 2 n 0 } }
    | none =>
      .next { r with
        mgmt := bootedMgmt i
        links := SMap.row {} 0 ((rangeFrom 0 45).map (fun n => { failed := i.linksDown.contains n })) }
  | _ => .next s

/-- BOOTSTATE (R424). -/
def State.bootState (s : State) : Nat := s.mgmt.mstate.bits 0 4

/-- The module is frozen (R426). -/
def State.isFrozen (s : State) : Bool := s.bootState == 3

/-! ## Attestation (R423) -/

/-- The report up to its signature. -/
def Mgmt.reportBody (m : Mgmt) : List Byte :=
  (m.nonce ++ List.replicate (64 - m.nonce.length) 0)
    ++ ((Config.sha3_512 m.image).toList ++ (leBytes 8 m.version.toNat ++ ((Config.sha3_512 (Config.confBlock m.body)).toList ++ (Config.mldsaPublic m.seed).toList)))

/-- The signed report. -/
def Mgmt.attested (m : Mgmt) : List Byte := m.reportBody ++ (Config.mldsaSign m.seed (Config.sha3_512 m.reportBody).toList).toList

/-- ATTREQ is set (R423): the report is written and the request clears, in a frozen module too, whose management block keeps running (R426); where no boot has derived the key it stays pending (DEDUCED, log 43). -/
def State.attest (s : State) : State :=
  if s.bootState = 1 || (s.isFrozen && !s.mgmt.seed.isEmpty) then { s with mgmt := { s.mgmt with report := s.mgmt.attested, attreq := 0 } }
  else { s with mgmt := { s.mgmt with attreq := 1 } }

/-- ATTREQ (R423): the host sets the request. -/
def execAttreq (s : State) : Host.Outcome State Fault Refusal := .next s.attest

/-! ## Freeze (R426, R429) -/

/-- Every clock stops, with this cause; a frozen module stays as it is. -/
def State.freeze (s : State) (cause : Nat) : State :=
  if s.isFrozen then s else { s with mgmt := { s.mgmt with mstate := mstateWord 3 (s.mgmt.mstate.bits 4 4) cause } }

/-- FREEZE (R426): the freeze input. -/
def execFreeze (s : State) : Host.Outcome State Fault Refusal := .next (s.freeze 0)

/-- The value whose write asserts freeze (R424). -/
def freezeKey : Word := 0xF5EE0001

/-- A host write of FREEZECMD (R424, R426): the key asserts freeze, another value is ignored. -/
def State.freezeWrite (s : State) (x : Word) : State :=
  if x = freezeKey then ({ s with mgmt := { s.mgmt with freezecmd := x } } : State).freeze 1 else s

/-- FREEZECMD (R426): the host writes the freeze key. -/
def execFreezecmd (s : State) : Host.Outcome State Fault Refusal := .next (s.freezeWrite freezeKey)

/-- THERMAL_TRIP (R429): a die has come to this temperature, in units of 0.1 °C. -/
def execThermalTrip (s : State) : Host.Outcome State Fault Refusal := .next (if 1050 ≤ s.sel.a then s.freeze 2 else s)

/-! ## Read-out of a frozen module (R426) -/

/-- A pot's bytes stay hidden from the debug port (R426). -/
def State.potHidden (s : State) (p : Nat) : Bool := s.potSecure p && !s.mgmt.conf.secureRead

/-- A core's state stays hidden: its pot, or the core itself, is of the secure world (R422, R426). -/
def State.coreHidden (s : State) (n : Nat) : Bool := (s.potSecure (potOf n) || (s.core n).secure) && !s.mgmt.conf.secureRead

/-- What the debug port of a frozen module reads at a location: a byte of pot SRAM, 0 in a hidden pot; R426 names no other memory. -/
def State.readOut (s : State) (l : Nat) : Option Byte :=
  if locOwner l < 32 then some (if s.potHidden (locOwner l) then 0 else s.readLoc l) else none

/-- What the debug port reads of a frozen module beside its bytes (R426): register files, context stores, tiles, latches, F/E bits, queues and tables as they stand, those of hidden pots and cores, of trays and launch engines in hidden pots and of secure gangs left out, which read as zero; the seed of the identity key is in no view (R421) (DESIGN CHOICE, log 13). -/
def State.debugView (s : State) : State :=
  let shown := fun (e : Env) => !e.secure || s.mgmt.conf.secureRead
  { s with
    cores := s.cores.filter (fun p => !s.coreHidden p.1)
    trays := s.trays.filter (fun p => !s.potHidden p.1)
    mem := s.mem.filter (fun p => decide (locOwner p.1 < 32) && !s.potHidden (locOwner p.1))
    full := s.full.filter (fun p => !s.potHidden (locOwner (16 * p.1)))
    flags := s.flags.filter (fun p => !s.potHidden (locOwner (8 * p.1)))
    icache := s.icache.filter (fun l => !s.potHidden (l.cluster / 8))
    ents := s.ents.filter (fun e => shown e.env)
    cmds := s.cmds.filter (fun p => shown p.2.env)
    poison := s.poison.filter (fun p => decide (locOwner (16 * p.1) < 32) && !s.potHidden (locOwner (16 * p.1)))
    owners := s.owners.filter (fun p => !s.potHidden (p.1 - 32))
    parts := s.parts.filter (fun p => !s.potHidden p.1)
    mgmt := { s.mgmt with seed := [] }
    gangs := (s.gangs.filter (fun p => !s.potHidden p.2.part && (!p.2.record.secure || s.mgmt.conf.secureRead))).map (fun (p : Nat × Gang) =>
      (p.1, { p.2 with
        restart := p.2.restart.filter (fun c => shown c.env)
        saved := p.2.saved.filter (fun q => !s.coreHidden q.1 && (!q.2.secure || s.mgmt.conf.secureRead)) })) }

/-! ## Power (R429) -/

/-- The management core after a millisecond's measurement: a lower clock above the cap; milliseconds below 90 % of it counted. -/
def Mgmt.measured (m : Mgmt) (watts temp : Nat) : Mgmt :=
  let m := { m with power := word (watts % 2 ^ 32 + 2 ^ 32 * (temp % 2 ^ 16)) }
  if m.conf.cap < watts then { m with clock := Nat.min 3 (m.clock + 1), below := 0 }
  else if 10 * watts < 9 * m.conf.cap then { m with below := m.below + 1 }
  else { m with below := 0 }

/-- POWER_SAMPLE (R429): a measurement that finds a die at 105 °C freezes the module as well. -/
def execPowerSample (s : State) : Host.Outcome State Fault Refusal :=
  let t : State := { s with mgmt := s.mgmt.measured s.sel.a s.sel.b }
  .next (if 1050 ≤ s.sel.b then t.freeze 2 else t)

/-- CLOCK_STEP_UP (R429): after 10 ms below 90 % of the cap. -/
def execClockStepUp (s : State) : Host.Outcome State Fault Refusal :=
  let m := s.mgmt
  if decide (10 ≤ m.below) && decide (0 < m.clock) then .next { s with mgmt := { m with clock := m.clock - 1, below := 0 } } else .next s

/-! ## The debugger stop (R427) -/

/-- OP, CORE, SLOT and INC of DBGCTL. -/
def Mgmt.dbgOp (m : Mgmt) : Nat := m.dbgctl.bits 0 4
def Mgmt.dbgCore (m : Mgmt) : Nat := m.dbgctl.bits 8 14
def Mgmt.dbgSlot (m : Mgmt) : Nat := m.dbgctl.bits 24 4
def Mgmt.dbgInc (m : Mgmt) : Nat := m.dbgctl.bits 32 8

/-- A command ends: STATUS written, then OP := 0. -/
def Mgmt.dbgDone (m : Mgmt) (status : Nat) : Mgmt := { m with dbgctl := word (2 ^ 8 * (m.dbgctl.toNat / 2 ^ 8) + 2 ^ 4 * status) }

/-- The state with a debugger command ended. -/
def State.dbgDone (s : State) (status : Nat) : State := { s with mgmt := s.mgmt.dbgDone status }

/-- The thread that DBGCTL names, when the name is current. -/
def State.dbgThread (s : State) : Option Nat := (s.core s.mgmt.dbgCore).named s.mgmt.dbgSlot s.mgmt.dbgInc

/-- The thread stands at an instruction boundary, its pending bits cleared and no trap entry in progress (DEDUCED, log 45). -/
def Ctx.atBoundary (c : Ctx) : Bool := c.busy == .none && c.pend.empty && c.trap.isNone && !c.refusing

/-- STOP (R427): refused, or taken at the thread's next instruction boundary; the image of a context that has been spilled says so too (R312). A failed bit ends its wait for pending bits (R42). -/
def execStop (s : State) : Host.Outcome State Fault Refusal :=
  let n := s.mgmt.dbgCore
  if s.mgmt.dbgOp ≠ 1 then .next s
  else
    match s.dbgThread with
    | none => .next (s.dbgDone 2)
    | some i =>
      let t := Thr.ctx n i
      let c := s.ctx t
      if c.stopped || ((s.core n).secure && !s.mgmt.conf.secureRead) then .next (s.dbgDone 2)
      else if c.atBoundary then
        let c := { c with stopped := true, stopReq := false }
        let s := (s.setCtx t c).respill n i
        .next ({ s with mgmt := { s.mgmt with dbgbuf := c.image } }.dbgDone 1)
      else
        match (if c.trap.isNone && c.awaited.empty then s.dueAt t {} true else none) with
        | some f => .next (s.takeFail t f)
        | none => .next (s.setCtx t { c with stopReq := true })

/-- A stopped context with what DBGBUF brings back (R88, R427). Where the image is changed, a parked one that DBGBUF gives no event is READY with the stamp there (R89); one whose wait word, program counter and handle awaited are as they were still waits; any other is READY from now on, for its instruction has not issued (R89), and the word at its program counter issues and decides anew; a bound one has neither wait word nor stamp (DEDUCED, log 97). -/
def Ctx.debugged (c : Ctx) (time : Word) (b : List Byte) : Ctx :=
  if b = c.image then c
  else
    let x := c.fromImage b
    let ev := x.wait.bits 0 4
    let reg := x.wait.bits 4 5
    match c.st with
    | .waiting =>
      if ev = 0 then { x with st := .ready, wait := 0 }
      else if x.wait = c.wait ∧ x.pc = c.pc ∧ (ev ≠ 2 ∨ x.gr reg = c.gr reg) then x
      else { x with st := .ready, stamp := time, wait := 0 }
    | .bound => { x with stamp := c.stamp, wait := 0 }
    | _ => { x with wait := 0 }

/-- RESUME (R427): the context is read back from DBGBUF, unless R90 rejects it. -/
def execDbgctlResume (s : State) : Host.Outcome State Fault Refusal :=
  let n := s.mgmt.dbgCore
  if s.mgmt.dbgOp ≠ 2 then .next s
  else
    match s.dbgThread with
    | none => .next (s.dbgDone 2)
    | some i =>
      let t := Thr.ctx n i
      let c := s.ctx t
      let b := s.mgmt.dbgbuf
      if !c.stopped || !imgOk b then .next (s.dbgDone 2)
      else
        .next (((s.setCtx t { c.debugged s.time b with stopped := false, stopReq := false }).respill n i).dbgDone 1)

/-! ## Host writes of management registers (R424) -/

/-- Bytes put into a buffer of `n` bytes at an offset. -/
def putBytes (l : List Byte) (n o : Nat) (v : List Byte) : List Byte :=
  let l := l ++ List.replicate (n - l.length) 0
  l.take o ++ (v ++ l.drop (o + v.length))

/-- DBGCTL after a host write: STATUS is the management core's and stays; an OP other than STOP and RESUME is cleared (R427). -/
def dbgWritten (old x : Word) : Word :=
  word ((if x.bits 0 4 ≤ 2 then x.bits 0 4 else 0) + 2 ^ 4 * old.bits 4 4 + 2 ^ 8 * x.bits 8 14 + 2 ^ 24 * x.bits 24 4 + 2 ^ 32 * x.bits 32 8)

/-- The management block after a host write of a doubleword: NONCE, DBGCTL and DBGBUF take it; the other registers are the management core's (R424). -/
def Mgmt.write (m : Mgmt) (off : Nat) (x : Word) : Mgmt :=
  if off % 8 ≠ 0 then m
  else if 0x100 ≤ off ∧ off < 0x140 then { m with nonce := putBytes m.nonce 64 (off - 0x100) (leBytes 8 x.toNat) }
  else if off = 0x2000 then { m with dbgctl := dbgWritten m.dbgctl x }
  else if 0x2040 ≤ off ∧ off < 0x2040 + 4608 then { m with dbgbuf := putBytes m.dbgbuf 4608 (off - 0x2040) (leBytes 8 x.toNat) }
  else m

/-- A host write of a doubleword of the management block (R424): ATTREQ, FREEZECMD, or a register that takes it. -/
def State.hostWrite (s : State) (off : Nat) (x : Word) : State :=
  if off = 0x48 then if x.toNat % 2 = 1 then s.attest else { s with mgmt := { s.mgmt with attreq := 0 } }
  else if off = 0x50 then s.freezeWrite x
  else { s with mgmt := s.mgmt.write off x }

/-- REGISTER_WRITE (R424). -/
def execRegisterWrite (s : State) : Host.Outcome State Fault Refusal := .next (s.hostWrite s.sel.a (word s.sel.b))

/-! ## Soft errors (R425, R152, R155) -/

/-- SOFT_ERROR (R425): an error in a v or k register is met by the next instruction that reads it (R155) (DEDUCED, log 51). -/
def execSoftError (s : State) : Host.Outcome State Fault Refusal :=
  match s.sel.inp with
  | .err (.correctedCore n) => .next (s.countAt n 0x035)
  | .err .correctedSram => .next { s with mgmt := { s.mgmt with corrsram := s.mgmt.corrsram + 1 } }
  | .err .correctedHbm => .next { s with mgmt := { s.mgmt with corrhbm := s.mgmt.corrhbm + 1 } }
  | .err (.granule l) =>
    .next ({ s with poison := SMap.put false s.poison (l / 16) true }.logError (locOwner l) (locOff l))
  | .err (.gangState n) => .next ((s.logError n 0).gangEnd n cECC_UNCORR)
  | .err (.register n slot k r) =>
    let s := s.logError n 0
    match s.boundIn n slot with
    | some t =>
      let c := s.ctx t
      .next (s.setCtx t { c with bad := c.bad.union (if k then RegSet.ofK r else RegSet.ofV r) })
    | none => .next s
  | _ => .next s

/-! ## Links (R278, R279) -/

/-- The state with a link's replay state replaced. -/
def State.setLink (s : State) (n : Nat) (l : Link) : State := { s with links := SMap.put {} s.links n l }

/-- LINK_FAIL (R279): the entries waiting in channels for the link are removed, a collective whose pieces wait for it ends (R298), and new routes leave it out. -/
def State.linkFail (s : State) (n : Nat) : State :=
  let l := s.ents.filter (fun e => e.phase == .channel && e.link == some n)
  let s := l.foldl State.remove s
  let m := (s.cmds.map Prod.snd).filter (fun c => c.isColl && c.stage == .begun && c.phase == 0 && !c.ended && s.samovarLink c == some n)
  let s := m.foldl State.collBroken s
  let s := s.setLink n { failed := true }
  { s with mgmt := { s.mgmt with linkfail := s.mgmt.linkfail + 1, linksDown := s.mgmt.linksDown ++ [n] } }

/-- FLIT_CRC_FAIL (R278, R279): a replay is counted; after 8 failures of one flit the link retrains, and after 8 more it is declared failed. -/
def execFlitCrcFail (s : State) : Host.Outcome State Fault Refusal :=
  let n := s.sel.a
  let l := s.link n
  if l.failed || l.retraining then .next s
  else
    let s := { s with mgmt := { s.mgmt with replay := s.mgmt.replay + 1 } }
    let k := l.fails + 1
    if k = 8 then .next (s.setLink n { l with fails := k, retraining := true })
    else if 16 ≤ k then .next (s.linkFail n)
    else .next (s.setLink n { l with fails := k })

/-- RETRAINING_END (R279). -/
def execRetrainingEnd (s : State) : Host.Outcome State Fault Refusal :=
  let n := s.sel.a
  let l := s.link n
  if !l.retraining then .next s
  else if s.sel.flag then .next (s.setLink n { l with retraining := false })
  else .next (s.linkFail n)

/-- The samovar ports through which a tray's news of a blend leaves for the members in other modules of which `dst` holds (R289) (DEDUCED, log 44). -/
def State.blendLinks (s : State) (part id : Nat) (dst : Nat → Bool) : List Nat :=
  match s.gangs.find? (fun p => p.2.part == part && p.2.record.blendid == id) with
  | none => []
  | some p => (p.2.record.blend.filter (fun b => b.2.module != s.mgmt.conf.fabric && dst b.2.module)).map
      (fun b => 37 + Config.samovarRoute part b.2.module b.2.potbase % 8)

/-- The links that a message to other modules needs: a Brixhild port for those of R208, samovar ports for those of a blend (R276, R289). -/
def State.farLinks (s : State) (part : Nat) : FarMsg → List Nat
  | .request _ _ r => [(moduleOf r.base + part) % 36]
  | .release r => [(moduleOf r.base + part) % 36]
  | .answer r _ => [(r.source + part) % 36]
  | .report m id _ => s.blendLinks part id (fun x => x == m)
  | .finished id _ => s.blendLinks part id (fun _ => true)
  | .gone id _ => s.blendLinks part id (fun _ => true)
  | .arrived id _ => s.blendLinks part id (fun _ => true)
  | .residency id _ _ => s.blendLinks part id (fun _ => true)
  | .verdict id _ => s.blendLinks part id (fun _ => true)

/-- The message travels over the samovar, and not over the Brixhild fabric (R208, R289). -/
def FarMsg.samovar : FarMsg → Bool
  | .request .. | .release _ | .answer .. => false
  | _ => true

/-- What of an outbox leaves and what stays: on each of the two networks the messages go in order, up to one that is held; neither network waits on the other (R289). -/
def leaving (held : FarMsg → Bool) : Bool → Bool → List FarMsg → List FarMsg × List FarMsg
  | _, _, [] => ([], [])
  | brix, samo, m :: t =>
    let stop := held m || if m.samovar then samo else brix
    let r := leaving held (if m.samovar then brix else stop) (if m.samovar then stop else samo) t
    if stop then (r.1, m :: r.2) else (m :: r.1, r.2)

/-- The messages to other modules leave, on each network up to one that needs a link that is retraining (R279, R289). -/
def State.sendOut (s : State) : State :=
  s.parts.foldl (fun u p =>
    let go := leaving (fun m => (s.farLinks p.1 m).any (fun n => (s.link n).retraining)) false false p.2.outbox
    (go.1.flatMap (s.farLinks p.1)).foldl State.linkPassed (u.setPart p.1 { p.2 with outbox := go.2, left := p.2.left ++ go.1 })) s

/-! ## The cycle (R85, R315, R414) -/

/-- A context after one more cycle: a READY unbound one has waited it (R315); with a rotation's end one bound in it may issue (R313). -/
def Ctx.cycled (c : Ctx) (rotation : Bool) : Ctx :=
  let c := if c.st = .ready then { c with aged := c.aged + 1 } else c
  if rotation then { c with fresh := false } else c

/-- The count of cycles in the images of spilled READY contexts after one more (R88, R315). -/
def State.ageImages (s : State) : State :=
  s.cores.foldl (fun s p => (p.2.ctxs.filter (fun q => q.2.spilled.isSome && q.2.st == CtxState.ready)).foldl (fun s q =>
    let l := 0x140 + areaLoc (clusterOf p.1) (q.2.spilled.getD 0)
    let w := word (s.readNat l 8)
    s.writeNat l 8 (w.toNat - 2 ^ 20 * w.bits 20 20 + 2 ^ 20 * ((w.bits 20 20 + 1) % 2 ^ 20))) s) s

/-- A gang after one more cycle: an open capture window counts it as attached, up to its NOT-RESIDENT broadcast, or as detached (R414). -/
def Gang.cycled (g : Gang) : Gang :=
  if !g.window then g else if g.st = .running then { g with active := g.active + 1 } else { g with detached := g.detached + 1 }

/-- The next cycle: this one's TMARKs applied, its messages to other modules sent, its time, what has waited one more cycle, and the next position, the same for every core (R16) (DESIGN CHOICE, log 58). -/
def State.nextCycle (s : State) : State :=
  let s := s.sendMarks.sendOut
  let s := { s with
    time := s.time + 1
    pos := (s.pos + 1) % 16
    cores := s.cores.map (fun (p : Nat × Core) => (p.1, { p.2.seen with ctxs := p.2.ctxs.map (fun (q : Nat × Ctx) => (q.1, q.2.cycled (s.pos == 15))) }))
    gangs := s.gangs.map (fun (p : Nat × Gang) => (p.1, p.2.applied.cycled)) }
  { s.ageImages with turn := s.turns }

/-- CYCLE (R16, R85, R153, R315, R316, R414, R436): the next cycle begins once this one's positions have been served and no thread is left to park at its own, no free slot to bind, no count of cycles to return to 0, no result to be written and no vector unit to take a command. -/
def execCycle (s : State) : Host.Outcome State Fault Refusal := .next (if s.turn = [] ∧ s.queueDue = false ∧ s.unitDue = false then s.nextCycle else s)

end Sys2Proof.Machine
end

