-- ==== Sys2Proof/Machine/Dispatch.lean ====
section
/-! DEFINITION. exec: one arm per row of the opcode table, each one direct call of that row's meaning. -/

namespace Sys2Proof.Machine

open Sys2Proof

def exec (i : Instr) (s : State) : Host.Outcome State Fault Refusal :=
  match i with
  | .add rd ra rb => Sys2Proof.Machine.execAdd rd ra rb s
  | .sub rd ra rb => Sys2Proof.Machine.execSub rd ra rb s
  | .addw rd ra rb => Sys2Proof.Machine.execAddw rd ra rb s
  | .subw rd ra rb => Sys2Proof.Machine.execSubw rd ra rb s
  | .and rd ra rb => Sys2Proof.Machine.execAnd rd ra rb s
  | .or rd ra rb => Sys2Proof.Machine.execOr rd ra rb s
  | .xor rd ra rb => Sys2Proof.Machine.execXor rd ra rb s
  | .andn rd ra rb => Sys2Proof.Machine.execAndn rd ra rb s
  | .orn rd ra rb => Sys2Proof.Machine.execOrn rd ra rb s
  | .xnor rd ra rb => Sys2Proof.Machine.execXnor rd ra rb s
  | .shl rd ra rb => Sys2Proof.Machine.execShl rd ra rb s
  | .shr rd ra rb => Sys2Proof.Machine.execShr rd ra rb s
  | .sra rd ra rb => Sys2Proof.Machine.execSra rd ra rb s
  | .rol rd ra rb => Sys2Proof.Machine.execRol rd ra rb s
  | .ror rd ra rb => Sys2Proof.Machine.execRor rd ra rb s
  | .slt rd ra rb => Sys2Proof.Machine.execSlt rd ra rb s
  | .sltu rd ra rb => Sys2Proof.Machine.execSltu rd ra rb s
  | .seq rd ra rb => Sys2Proof.Machine.execSeq rd ra rb s
  | .sne rd ra rb => Sys2Proof.Machine.execSne rd ra rb s
  | .min rd ra rb => Sys2Proof.Machine.execMin rd ra rb s
  | .max rd ra rb => Sys2Proof.Machine.execMax rd ra rb s
  | .minu rd ra rb => Sys2Proof.Machine.execMinu rd ra rb s
  | .maxu rd ra rb => Sys2Proof.Machine.execMaxu rd ra rb s
  | .selnz rd ra rb => Sys2Proof.Machine.execSelnz rd ra rb s
  | .selz rd ra rb => Sys2Proof.Machine.execSelz rd ra rb s
  | .shadd1 rd ra rb => Sys2Proof.Machine.execShadd1 rd ra rb s
  | .shadd2 rd ra rb => Sys2Proof.Machine.execShadd2 rd ra rb s
  | .shadd3 rd ra rb => Sys2Proof.Machine.execShadd3 rd ra rb s
  | .shadd4 rd ra rb => Sys2Proof.Machine.execShadd4 rd ra rb s
  | .mul rd ra rb => Sys2Proof.Machine.execMul rd ra rb s
  | .mulh rd ra rb => Sys2Proof.Machine.execMulh rd ra rb s
  | .mulhu rd ra rb => Sys2Proof.Machine.execMulhu rd ra rb s
  | .mulw rd ra rb => Sys2Proof.Machine.execMulw rd ra rb s
  | .div rd ra rb la => Sys2Proof.Machine.execDiv rd ra rb la s
  | .divu rd ra rb la => Sys2Proof.Machine.execDivu rd ra rb la s
  | .rem rd ra rb la => Sys2Proof.Machine.execRem rd ra rb la s
  | .remu rd ra rb la => Sys2Proof.Machine.execRemu rd ra rb la s
  | .clz rd ra => Sys2Proof.Machine.execClz rd ra s
  | .ctz rd ra => Sys2Proof.Machine.execCtz rd ra s
  | .popc rd ra => Sys2Proof.Machine.execPopc rd ra s
  | .brev rd ra => Sys2Proof.Machine.execBrev rd ra s
  | .bswap rd ra => Sys2Proof.Machine.execBswap rd ra s
  | .sextb rd ra => Sys2Proof.Machine.execSextb rd ra s
  | .sexth rd ra => Sys2Proof.Machine.execSexth rd ra s
  | .sextw rd ra => Sys2Proof.Machine.execSextw rd ra s
  | .zextw rd ra => Sys2Proof.Machine.execZextw rd ra s
  | .addi rd ra imm => Sys2Proof.Machine.execAddi rd ra imm s
  | .andi rd ra imm => Sys2Proof.Machine.execAndi rd ra imm s
  | .ori rd ra imm => Sys2Proof.Machine.execOri rd ra imm s
  | .xori rd ra imm => Sys2Proof.Machine.execXori rd ra imm s
  | .slti rd ra imm => Sys2Proof.Machine.execSlti rd ra imm s
  | .sltiu rd ra imm => Sys2Proof.Machine.execSltiu rd ra imm s
  | .muli rd ra imm => Sys2Proof.Machine.execMuli rd ra imm s
  | .shli rd ra c => Sys2Proof.Machine.execShli rd ra c s
  | .shri rd ra c => Sys2Proof.Machine.execShri rd ra c s
  | .srai rd ra c => Sys2Proof.Machine.execSrai rd ra c s
  | .rori rd ra c => Sys2Proof.Machine.execRori rd ra c s
  | .insh rd q imm => Sys2Proof.Machine.execInsh rd q imm s
  | .beq ra rb off => Sys2Proof.Machine.execBeq ra rb off s
  | .bne ra rb off => Sys2Proof.Machine.execBne ra rb off s
  | .blt ra rb off => Sys2Proof.Machine.execBlt ra rb off s
  | .bge ra rb off => Sys2Proof.Machine.execBge ra rb off s
  | .bltu ra rb off => Sys2Proof.Machine.execBltu ra rb off s
  | .bgeu ra rb off => Sys2Proof.Machine.execBgeu ra rb off s
  | .jal rd off => Sys2Proof.Machine.execJal rd off s
  | .jalr rd ra => Sys2Proof.Machine.execJalr rd ra s
  | .fadd rd ra rb rm => Sys2Proof.Machine.execFadd rd ra rb rm s
  | .fsub rd ra rb rm => Sys2Proof.Machine.execFsub rd ra rb rm s
  | .fmul rd ra rb rm => Sys2Proof.Machine.execFmul rd ra rb rm s
  | .fmac rd ra rb rm => Sys2Proof.Machine.execFmac rd ra rb rm s
  | .fdiv rd ra rb la rm => Sys2Proof.Machine.execFdiv rd ra rb la rm s
  | .fsqrt rd ra la rm => Sys2Proof.Machine.execFsqrt rd ra la rm s
  | .fmin rd ra rb => Sys2Proof.Machine.execFmin rd ra rb s
  | .fmax rd ra rb => Sys2Proof.Machine.execFmax rd ra rb s
  | .fabs rd ra => Sys2Proof.Machine.execFabs rd ra s
  | .fneg rd ra => Sys2Proof.Machine.execFneg rd ra s
  | .feq rd ra rb => Sys2Proof.Machine.execFeq rd ra rb s
  | .flt rd ra rb => Sys2Proof.Machine.execFlt rd ra rb s
  | .fle rd ra rb => Sys2Proof.Machine.execFle rd ra rb s
  | .fclass rd ra => Sys2Proof.Machine.execFclass rd ra s
  | .fcvtSL rd ra rm => Sys2Proof.Machine.execFcvtSL rd ra rm s
  | .fcvtSLU rd ra rm => Sys2Proof.Machine.execFcvtSLU rd ra rm s
  | .fcvtLS rd ra rm => Sys2Proof.Machine.execFcvtLS rd ra rm s
  | .fcvtLUS rd ra rm => Sys2Proof.Machine.execFcvtLUS rd ra rm s
  | .fcvtSH rd ra => Sys2Proof.Machine.execFcvtSH rd ra s
  | .fcvtHS rd ra rm => Sys2Proof.Machine.execFcvtHS rd ra rm s
  | .fcvtSBF rd ra => Sys2Proof.Machine.execFcvtSBF rd ra s
  | .fcvtBFS rd ra rm => Sys2Proof.Machine.execFcvtBFS rd ra rm s
  | .ld rd ra la sz sg disp => Sys2Proof.Machine.execLd rd ra la sz sg disp s
  | .ldAcq rd ra la sz c disp => Sys2Proof.Machine.execLdAcq rd ra la sz c disp s
  | .st rd ra sz disp => Sys2Proof.Machine.execSt rd ra sz disp s
  | .stf rd ra sz disp => Sys2Proof.Machine.execStf rd ra sz disp s
  | .stRel rd ra sz c disp => Sys2Proof.Machine.execStRel rd ra sz c disp s
  | .lds rd ra la sz c disp => Sys2Proof.Machine.execLds rd ra la sz c disp s
  | .ldf rd ra sz disp => Sys2Proof.Machine.execLdf rd ra sz disp s
  | .vld rd ra la k disp => Sys2Proof.Machine.execVld rd ra la k disp s
  | .vst rd ra k disp => Sys2Proof.Machine.execVst rd ra k disp s
  | .vlds rd ra rb la k => Sys2Proof.Machine.execVlds rd ra rb la k s
  | .vsts rd ra rb k => Sys2Proof.Machine.execVsts rd ra rb k s
  | .vldi rd ra rb la k => Sys2Proof.Machine.execVldi rd ra rb la k s
  | .vsti rd ra rb k => Sys2Proof.Machine.execVsti rd ra rb k s
  | .aswapW rd ra rb la c => Sys2Proof.Machine.execAswapW rd ra rb la c s
  | .aswapD rd ra rb la c => Sys2Proof.Machine.execAswapD rd ra rb la c s
  | .aswapQ rd ra rb la c => Sys2Proof.Machine.execAswapQ rd ra rb la c s
  | .aaddW rd ra rb la c => Sys2Proof.Machine.execAaddW rd ra rb la c s
  | .aaddD rd ra rb la c => Sys2Proof.Machine.execAaddD rd ra rb la c s
  | .aandW rd ra rb la c => Sys2Proof.Machine.execAandW rd ra rb la c s
  | .aandD rd ra rb la c => Sys2Proof.Machine.execAandD rd ra rb la c s
  | .aorW rd ra rb la c => Sys2Proof.Machine.execAorW rd ra rb la c s
  | .aorD rd ra rb la c => Sys2Proof.Machine.execAorD rd ra rb la c s
  | .axorW rd ra rb la c => Sys2Proof.Machine.execAxorW rd ra rb la c s
  | .axorD rd ra rb la c => Sys2Proof.Machine.execAxorD rd ra rb la c s
  | .aminW rd ra rb la c => Sys2Proof.Machine.execAminW rd ra rb la c s
  | .aminD rd ra rb la c => Sys2Proof.Machine.execAminD rd ra rb la c s
  | .amaxW rd ra rb la c => Sys2Proof.Machine.execAmaxW rd ra rb la c s
  | .amaxD rd ra rb la c => Sys2Proof.Machine.execAmaxD rd ra rb la c s
  | .aminuW rd ra rb la c => Sys2Proof.Machine.execAminuW rd ra rb la c s
  | .aminuD rd ra rb la c => Sys2Proof.Machine.execAminuD rd ra rb la c s
  | .amaxuW rd ra rb la c => Sys2Proof.Machine.execAmaxuW rd ra rb la c s
  | .amaxuD rd ra rb la c => Sys2Proof.Machine.execAmaxuD rd ra rb la c s
  | .afadd rd ra rb la c => Sys2Proof.Machine.execAfadd rd ra rb la c s
  | .acasW rd ra rb la c => Sys2Proof.Machine.execAcasW rd ra rb la c s
  | .acasD rd ra rb la c => Sys2Proof.Machine.execAcasD rd ra rb la c s
  | .acasQ rd ra rb la c => Sys2Proof.Machine.execAcasQ rd ra rb la c s
  | .fence c => Sys2Proof.Machine.execFence c s
  | .feclr rd ra => Sys2Proof.Machine.execFeclr rd ra s
  | .fset ra n => Sys2Proof.Machine.execFset ra n s
  | .fclr ra n => Sys2Proof.Machine.execFclr ra n s
  | .ftst rd ra n => Sys2Proof.Machine.execFtst rd ra n s
  | .fwait ra c n => Sys2Proof.Machine.execFwait ra c n s
  | .vfadd rd ra rb k la rm => Sys2Proof.Machine.execVfadd rd ra rb k la rm s
  | .vfsub rd ra rb k la rm => Sys2Proof.Machine.execVfsub rd ra rb k la rm s
  | .vfmul rd ra rb k la rm => Sys2Proof.Machine.execVfmul rd ra rb k la rm s
  | .vfma rd ra rb k la rm => Sys2Proof.Machine.execVfma rd ra rb k la rm s
  | .vfmin rd ra rb k la => Sys2Proof.Machine.execVfmin rd ra rb k la s
  | .vfmax rd ra rb k la => Sys2Proof.Machine.execVfmax rd ra rb k la s
  | .vfabs rd ra k la => Sys2Proof.Machine.execVfabs rd ra k la s
  | .vfneg rd ra k la => Sys2Proof.Machine.execVfneg rd ra k la s
  | .vfdiv rd ra rb k la rm => Sys2Proof.Machine.execVfdiv rd ra rb k la rm s
  | .vfsqrt rd ra k la rm => Sys2Proof.Machine.execVfsqrt rd ra k la rm s
  | .vrcp rd ra k la => Sys2Proof.Machine.execVrcp rd ra k la s
  | .vrsq rd ra k la => Sys2Proof.Machine.execVrsq rd ra k la s
  | .vexp2 rd ra k la => Sys2Proof.Machine.execVexp2 rd ra k la s
  | .vadd rd ra rb k la wd => Sys2Proof.Machine.execVadd rd ra rb k la wd s
  | .vsub rd ra rb k la wd => Sys2Proof.Machine.execVsub rd ra rb k la wd s
  | .vmul rd ra rb k la wd => Sys2Proof.Machine.execVmul rd ra rb k la wd s
  | .vmin rd ra rb k la wd => Sys2Proof.Machine.execVmin rd ra rb k la wd s
  | .vmax rd ra rb k la wd => Sys2Proof.Machine.execVmax rd ra rb k la wd s
  | .vminu rd ra rb k la wd => Sys2Proof.Machine.execVminu rd ra rb k la wd s
  | .vmaxu rd ra rb k la wd => Sys2Proof.Machine.execVmaxu rd ra rb k la wd s
  | .vand rd ra rb k la wd => Sys2Proof.Machine.execVand rd ra rb k la wd s
  | .vor rd ra rb k la wd => Sys2Proof.Machine.execVor rd ra rb k la wd s
  | .vxor rd ra rb k la wd => Sys2Proof.Machine.execVxor rd ra rb k la wd s
  | .vshl rd ra rb k la wd => Sys2Proof.Machine.execVshl rd ra rb k la wd s
  | .vshr rd ra rb k la wd => Sys2Proof.Machine.execVshr rd ra rb k la wd s
  | .vsra rd ra rb k la wd => Sys2Proof.Machine.execVsra rd ra rb k la wd s
  | .vadds rd ra rb k la wd => Sys2Proof.Machine.execVadds rd ra rb k la wd s
  | .vsubs rd ra rb k la wd => Sys2Proof.Machine.execVsubs rd ra rb k la wd s
  | .vaddus rd ra rb k la wd => Sys2Proof.Machine.execVaddus rd ra rb k la wd s
  | .vsubus rd ra rb k la wd => Sys2Proof.Machine.execVsubus rd ra rb k la wd s
  | .vabs rd ra k la wd => Sys2Proof.Machine.execVabs rd ra k la wd s
  | .vcmp rd ra rb k la t c => Sys2Proof.Machine.execVcmp rd ra rb k la t c s
  | .vcvt rd ra p k la rm c => Sys2Proof.Machine.execVcvt rd ra p k la rm c s
  | .vperm rd ra rb k la => Sys2Proof.Machine.execVperm rd ra rb k la s
  | .vsel rd ra rb k la => Sys2Proof.Machine.execVsel rd ra rb k la s
  | .vzip rd ra rb k la => Sys2Proof.Machine.execVzip rd ra rb k la s
  | .vunzip rd ra rb k la => Sys2Proof.Machine.execVunzip rd ra rb k la s
  | .vcompress rd ra k la => Sys2Proof.Machine.execVcompress rd ra k la s
  | .vexpand rd ra k la => Sys2Proof.Machine.execVexpand rd ra k la s
  | .vredadd rd ra k la => Sys2Proof.Machine.execVredadd rd ra k la s
  | .vredmax rd ra k la => Sys2Proof.Machine.execVredmax rd ra k la s
  | .vredmin rd ra k la => Sys2Proof.Machine.execVredmin rd ra k la s
  | .vredaddi rd ra k la => Sys2Proof.Machine.execVredaddi rd ra k la s
  | .vredmaxi rd ra k la => Sys2Proof.Machine.execVredmaxi rd ra k la s
  | .vredmini rd ra k la => Sys2Proof.Machine.execVredmini rd ra k la s
  | .vredand rd ra k la => Sys2Proof.Machine.execVredand rd ra k la s
  | .vredor rd ra k la => Sys2Proof.Machine.execVredor rd ra k la s
  | .vredxor rd ra k la => Sys2Proof.Machine.execVredxor rd ra k la s
  | .vsort rd ra k la x => Sys2Proof.Machine.execVsort rd ra k la x s
  | .vselk rd ra rb k la x => Sys2Proof.Machine.execVselk rd ra rb k la x s
  | .vmergek rd ra rb k la x => Sys2Proof.Machine.execVmergek rd ra rb k la x s
  | .vbcast rd ra la => Sys2Proof.Machine.execVbcast rd ra la s
  | .vins rd ra rb la => Sys2Proof.Machine.execVins rd ra rb la s
  | .vext rd ra rb la => Sys2Proof.Machine.execVext rd ra rb la s
  | .kmovgk rd ra la => Sys2Proof.Machine.execKmovgk rd ra la s
  | .kmovkg rd ra la => Sys2Proof.Machine.execKmovkg rd ra la s
  | .kpopc rd ra la => Sys2Proof.Machine.execKpopc rd ra la s
  | .kand rd ra rb la => Sys2Proof.Machine.execKand rd ra rb la s
  | .kor rd ra rb la => Sys2Proof.Machine.execKor rd ra rb la s
  | .kxor rd ra rb la => Sys2Proof.Machine.execKxor rd ra rb la s
  | .kandn rd ra rb la => Sys2Proof.Machine.execKandn rd ra rb la s
  | .knot rd ra la => Sys2Proof.Machine.execKnot rd ra la s
  | .mclaim zt => Sys2Proof.Machine.execMclaim zt s
  | .mfree zt => Sys2Proof.Machine.execMfree zt s
  | .mlda fmt ra rh => Sys2Proof.Machine.execMlda fmt ra rh s
  | .mldb fmt ra rh => Sys2Proof.Machine.execMldb fmt ra rh s
  | .rpass rh => Sys2Proof.Machine.execRpass rh s
  | .mma zt fmt rh => Sys2Proof.Machine.execMma zt fmt rh s
  | .mmab y fmt rh => Sys2Proof.Machine.execMmab y fmt rh s
  | .mmai y fmt ra rh => Sys2Proof.Machine.execMmai y fmt ra rh s
  | .msca zt k u ra rh => Sys2Proof.Machine.execMsca zt k u ra rh s
  | .mzero zt rh => Sys2Proof.Machine.execMzero zt rh s
  | .mdrain zt fmt ra rh => Sys2Proof.Machine.execMdrain zt fmt ra rh s
  | .mtwin on => Sys2Proof.Machine.execMtwin on s
  | .xpush rd ra n => Sys2Proof.Machine.execXpush rd ra n s
  | .xpushr rd ra n => Sys2Proof.Machine.execXpushr rd ra n s
  | .xwait ra n => Sys2Proof.Machine.execXwait ra n s
  | .expect rd ra => Sys2Proof.Machine.execExpect rd ra s
  | .trayGather rd ra off p => Sys2Proof.Machine.execTrayGather rd ra off p s
  | .trayScatter rd ra off p => Sys2Proof.Machine.execTrayScatter rd ra off p s
  | .trayReduce rd ra off p => Sys2Proof.Machine.execTrayReduce rd ra off p s
  | .traySub rd ra off p => Sys2Proof.Machine.execTraySub rd ra off p s
  | .trayUnsub rd ra off p => Sys2Proof.Machine.execTrayUnsub rd ra off p s
  | .mbw ra n => Sys2Proof.Machine.execMbw ra n s
  | .mbr rd n => Sys2Proof.Machine.execMbr rd n s
  | .dld ra sz => Sys2Proof.Machine.execDld ra sz s
  | .dpop rd => Sys2Proof.Machine.execDpop rd s
  | .ppush ra => Sys2Proof.Machine.execPpush ra s
  | .pst ra sz => Sys2Proof.Machine.execPst ra sz s
  | .qcnt rd q => Sys2Proof.Machine.execQcnt rd q s
  | .allred rd ra off => Sys2Proof.Machine.execAllred rd ra off s
  | .allgath rd ra => Sys2Proof.Machine.execAllgath rd ra s
  | .waddr rd ra k => Sys2Proof.Machine.execWaddr rd ra k s
  | .wres rd ra sg => Sys2Proof.Machine.execWres rd ra sg s
  | .stvec rd ra c => Sys2Proof.Machine.execStvec rd ra c s
  | .ldnear rd ra v c => Sys2Proof.Machine.execLdnear rd ra v c s
  | .ixdel rd ra c => Sys2Proof.Machine.execIxdel rd ra c s
  | .ixsnap rd ra v c => Sys2Proof.Machine.execIxsnap rd ra v c s
  | .send rd ra k => Sys2Proof.Machine.execSend rd ra k s
  | .recv rd ra off => Sys2Proof.Machine.execRecv rd ra off s
  | .rqn rd sg => Sys2Proof.Machine.execRqn rd sg s
  | .tstart rd ra p rg => Sys2Proof.Machine.execTstart rd ra p rg s
  | .prio rd ra => Sys2Proof.Machine.execPrio rd ra s
  | .migr rd ra => Sys2Proof.Machine.execMigr rd ra s
  | .htest rd ra => Sys2Proof.Machine.execHtest rd ra s
  | .hpass rd ra => Sys2Proof.Machine.execHpass rd ra s
  | .hcancel ra => Sys2Proof.Machine.execHcancel ra s
  | .crd rd n => Sys2Proof.Machine.execCrd rd n s
  | .tmark ra k => Sys2Proof.Machine.execTmark ra k s
  | .srd rd n => Sys2Proof.Machine.execSrd rd n s
  | .swr ra n => Sys2Proof.Machine.execSwr ra n s
  | .icinv ra => Sys2Proof.Machine.execIcinv ra s
  | .icinvG rd ra => Sys2Proof.Machine.execIcinvG rd ra s
  | .brk c => Sys2Proof.Machine.execBrk c s
  | .nop => Sys2Proof.Machine.execNop s
  | .xfence => Sys2Proof.Machine.execXfence s
  | .texit => Sys2Proof.Machine.execTexit s
  | .yield => Sys2Proof.Machine.execYield s
  | .barc => Sys2Proof.Machine.execBarc s
  | .barg => Sys2Proof.Machine.execBarg s
  | .barb => Sys2Proof.Machine.execBarb s
  | .eret => Sys2Proof.Machine.execEret s
  | .illegalWord => Sys2Proof.Machine.execIllegalWord s
  | .trapEntry => Sys2Proof.Machine.execTrapEntry s
  | .resultWrite => Sys2Proof.Machine.execResultWrite s
  | .mailboxMove => Sys2Proof.Machine.execMailboxMove s
  | .rotationEnd => Sys2Proof.Machine.execRotationEnd s
  | .vectorUnitAccept => Sys2Proof.Machine.execVectorUnitAccept s
  | .matrixStreamAccept => Sys2Proof.Machine.execMatrixStreamAccept s
  | .matrixCommandFinish => Sys2Proof.Machine.execMatrixCommandFinish s
  | .ringMove => Sys2Proof.Machine.execRingMove s
  | .handleResolution => Sys2Proof.Machine.execHandleResolution s
  | .depart => Sys2Proof.Machine.execDepart s
  | .arrive => Sys2Proof.Machine.execArrive s
  | .rnrRetry => Sys2Proof.Machine.execRnrRetry s
  | .perform => Sys2Proof.Machine.execPerform s
  | .ldsPerform => Sys2Proof.Machine.execLdsPerform s
  | .echo => Sys2Proof.Machine.execEcho s
  | .reply => Sys2Proof.Machine.execReply s
  | .engine => Sys2Proof.Machine.execEngine s
  | .blockReadReturn => Sys2Proof.Machine.execBlockReadReturn s
  | .copyChannelTake => Sys2Proof.Machine.execCopyChannelTake s
  | .engineCommandComplete => Sys2Proof.Machine.execEngineCommandComplete s
  | .trayDepart => Sys2Proof.Machine.execTrayDepart s
  | .trayCommandStart => Sys2Proof.Machine.execTrayCommandStart s
  | .subscriptionTileLoad => Sys2Proof.Machine.execSubscriptionTileLoad s
  | .subscriptionTileStore => Sys2Proof.Machine.execSubscriptionTileStore s
  | .subscriptionEnd => Sys2Proof.Machine.execSubscriptionEnd s
  | .dldReply => Sys2Proof.Machine.execDldReply s
  | .collJoin => Sys2Proof.Machine.execCollJoin s
  | .collComplete => Sys2Proof.Machine.execCollComplete s
  | .caddyHomeArrival => Sys2Proof.Machine.execCaddyHomeArrival s
  | .caddyShardCommand => Sys2Proof.Machine.execCaddyShardCommand s
  | .caddyMerge => Sys2Proof.Machine.execCaddyMerge s
  | .caddyClearApply => Sys2Proof.Machine.execCaddyClearApply s
  | .flitCrcFail => Sys2Proof.Machine.execFlitCrcFail s
  | .residencyBroadcast => Sys2Proof.Machine.execResidencyBroadcast s
  | .launchRecordTake => Sys2Proof.Machine.execLaunchRecordTake s
  | .dependencyMet => Sys2Proof.Machine.execDependencyMet s
  | .gangDispatch => Sys2Proof.Machine.execGangDispatch s
  | .residencyRequest => Sys2Proof.Machine.execResidencyRequest s
  | .blendReport => Sys2Proof.Machine.execBlendReport s
  | .startMessageArrival => Sys2Proof.Machine.execStartMessageArrival s
  | .spillReturn => Sys2Proof.Machine.execSpillReturn s
  | .bind => Sys2Proof.Machine.execBind s
  | .park => Sys2Proof.Machine.execPark s
  | .agingStep => Sys2Proof.Machine.execAgingStep s
  | .messageArrival => Sys2Proof.Machine.execMessageArrival s
  | .sachetArrival => Sys2Proof.Machine.execSachetArrival s
  | .migrAnswer => Sys2Proof.Machine.execMigrAnswer s
  | .barrierArrival => Sys2Proof.Machine.execBarrierArrival s
  | .barrierCompletion => Sys2Proof.Machine.execBarrierCompletion s
  | .gangDetach => Sys2Proof.Machine.execGangDetach s
  | .hostInterrupt => Sys2Proof.Machine.execHostInterrupt s
  | .gangEnd => Sys2Proof.Machine.execGangEnd s
  | .drain => Sys2Proof.Machine.execDrain s
  | .abort => Sys2Proof.Machine.execAbort s
  | .preempt => Sys2Proof.Machine.execPreempt s
  | .resume => Sys2Proof.Machine.execResume s
  | .force => Sys2Proof.Machine.execForce s
  | .reopen => Sys2Proof.Machine.execReopen s
  | .gangRestore => Sys2Proof.Machine.execGangRestore s
  | .tlbWalk => Sys2Proof.Machine.execTlbWalk s
  | .pte => Sys2Proof.Machine.execPte s
  | .inval => Sys2Proof.Machine.execInval s
  | .revoke => Sys2Proof.Machine.execRevoke s
  | .bufreg => Sys2Proof.Machine.execBufreg s
  | .bufdel => Sys2Proof.Machine.execBufdel s
  | .caddy => Sys2Proof.Machine.execCaddy s
  | .icinvAck => Sys2Proof.Machine.execIcinvAck s
  | .traceRecordWrite => Sys2Proof.Machine.execTraceRecordWrite s
  | .pcSample => Sys2Proof.Machine.execPcSample s
  | .hostRequest => Sys2Proof.Machine.execHostRequest s
  | .reset => Sys2Proof.Machine.execReset s
  | .attreq => Sys2Proof.Machine.execAttreq s
  | .freeze => Sys2Proof.Machine.execFreeze s
  | .freezecmd => Sys2Proof.Machine.execFreezecmd s
  | .thermalTrip => Sys2Proof.Machine.execThermalTrip s
  | .powerSample => Sys2Proof.Machine.execPowerSample s
  | .clockStepUp => Sys2Proof.Machine.execClockStepUp s
  | .stop => Sys2Proof.Machine.execStop s
  | .dbgctlResume => Sys2Proof.Machine.execDbgctlResume s
  | .registerWrite => Sys2Proof.Machine.execRegisterWrite s
  | .position => Sys2Proof.Machine.execPosition s
  | .cycle => Sys2Proof.Machine.execCycle s
  | .softError => Sys2Proof.Machine.execSoftError s
  | .pageMove => Sys2Proof.Machine.execPageMove s
  | .pageMoveEnd => Sys2Proof.Machine.execPageMoveEnd s
  | .retrainingEnd => Sys2Proof.Machine.execRetrainingEnd s
  | .residencyRelease => Sys2Proof.Machine.execResidencyRelease s

end Sys2Proof.Machine
end

