-- ==== Sys2Proof/Machine/Issue.lean ====
section
/-! DEFINITION. An attempt of a thread to issue: waits, the entry of a block, the fetch of the word and its decoding (spec/02_encoding.md R24-R42, R52, 07_traps.md R137, R151). -/

namespace Sys2Proof.Machine

/-- What an attempt to issue comes to: nothing is executed, or the instruction that is. -/
inductive Attempt where
  | done (s : State)
  | run (s : State) (i : Instr)
deriving DecidableEq, Repr

/-- A thread may attempt to issue: it is bound, since an earlier rotation (R313), not stopped, not in trap entry, and not held by its last instruction; a thread asked to stop only finishes what it has begun, and takes a trap that is due (R145, R321, R427). -/
def State.mayIssue (s : State) (t : Thr) : Bool :=
  let c := s.ctx t
  c.st == .bound && !c.fresh && !c.stopped && c.trap.isNone && (c.busy == .fence || c.busy == .none && (!s.asked t || c.refusing))

/-- The registers of windows whose last covered word has issued (R40). -/
def Ctx.closing (c : Ctx) : RegSet := RegSet.all ((c.windows.filter (fun w => w.left == 0)).map Window.set)

/-- The registers that the next issue waits for before any word is looked at: all of them at the first word of a block, else those of a window just closed (R40). -/
def Ctx.openWaits (c : Ctx) : RegSet := if c.enter = .none then c.closing else c.pend

/-- The deferred fault due at the attempt (R42, R126). -/
def State.dueFirst (s : State) (t : Thr) : Option Fail := s.dueAt t (s.ctx t).openWaits ((s.ctx t).enter != .none)

/-- The kinds of block a restored thread may stand in (R27). -/
def standsIn (t : Thr) (kind : Nat) : Bool :=
  match t with
  | .draw _ => kind == 3
  | .brew _ => kind == 4
  | .ctx _ _ => decide (kind < 3)

/-- The kinds that a header still to be entered may have. -/
def entryKinds (t : Thr) (e : Enter) (kind : Nat) : Bool :=
  match e with
  | .admitted => true
  | _ => admits t e kind

/-- A block entered: no window is open there (R38), its first word is next, and PF of the blocks behind it are prefetched; or ILLEGAL_HEADER (R25, R31). -/
def State.latch (s : State) (t : Thr) (b : Block) : State ⊕ State :=
  let c := s.ctx t
  if b.legal then .inr ((s.setCtx t { c with blk := b, pc := b.first, enter := .none, windows := [] }).prefetch t.core b.pf b.next)
  else .inl ((s.position t .vacant .trap).raise t { code := cILLEGAL_HEADER, sub := 0, epc := b.hdr, vaddr := b.hdr })

/-- The header at an address entered; `.inl` when the attempt ends here. -/
def State.enterHeader (s : State) (t : Thr) (a : Word) (e : Enter) : State ⊕ State :=
  match s.checkTarget t.core a (entryKinds t e) with
  | .wait s => .inl (s.position t .memory .none)
  | .fault code va => .inl ((s.position t .vacant .trap).raise t { code := code, sub := 0, epc := a, vaddr := va })
  | .ok s b => s.latch t b

/-- The thread brought to a word of a block (R27, R146). -/
def State.enterBlock (s : State) (t : Thr) : State ⊕ State :=
  let c := s.ctx t
  match c.enter with
  | .none => .inr s
  | .restored =>
    match s.returnPoint t.core c.pc (standsIn t) with
    | .wait s => .inl (s.position t .memory .none)
    | .bad => .inl ((s.position t .vacant .trap).raise t { code := cBAD_TARGET, sub := 0, epc := c.pc, vaddr := c.pc })
    | .header s b =>
      match s.checkAccess t.core fetchPerm [(b.hdr, 8)] with
      | some (code, va) => .inl ((s.position t .vacant .trap).raise t { code := code, sub := 0, epc := b.hdr, vaddr := va })
      | none => s.latch t b
    | .inside s b i =>
      if i < b.len then .inr (s.setCtx t { c with blk := b, enter := .none })
      else (s.setCtx t { c with blk := b, pc := b.next, enter := .fall, windows := [] }).enterHeader t b.next .fall
  | .refused code va => .inl ((s.position t .vacant .trap).raise t { code := code, sub := 0, epc := c.pc, vaddr := va })
  | e => s.enterHeader t c.pc e

/-- The instruction that a word stands for in a block of this KIND (R51, R52). -/
def wordInstr (kind : Nat) (w : Lane) : Option Instr :=
  match decode w with
  | .ok i => if legalInKind kind i then some i else none
  | .error _ => none

/-- The state in which a word that is no instruction acts (R52). -/
def State.withWord (s : State) (w : Lane) : State := { s with sel := { inp := .lane w } }

/-- The position at which a deferred fault is taken (R42, R126, R151). -/
def State.takeDue (s : State) (t : Thr) (f : Fail) : State := (s.takeFail t f).position t .vacant .trap

/-- The word at the program counter fetched, under the same checks as a load (R32), and decoded (DEDUCED, log 17). A store's deferred fault, due at any attempt, is taken where no word comes; the instruction takes it otherwise, behind an ECC_UNCORR of a register that it names (R151). -/
def State.fetchWord (s : State) (t : Thr) : Attempt :=
  let c := s.ctx t
  let ends (s' : State) : Attempt := .done (match s.dueFirst t with | some f => s.takeDue t f | none => s')
  match s.checkAccess t.core fetchPerm [(c.pc, 4)] with
  | some (code, va) => ends ((s.position t .vacant .trap).raise t { code := code, sub := 0, epc := c.pc, vaddr := va })
  | none =>
    match s.fetchLine t.core c.pc with
    | (s, none) => ends (s.position t .memory .none)
    | (s, some l) =>
      let w : Lane := BitVec.ofNat 32 (l.at c.pc 4)
      match wordInstr c.blk.kind w with
      | some i => .run s i
      | none => .run (s.withWord w) .illegalWord

/-- The attempt ends with the deferred fault `f` before any word is looked at: it is an ECC_UNCORR, or no word will be named at this attempt (R151). -/
def State.dueNow (s : State) (t : Thr) (f : Fail) : Bool :=
  let c := s.ctx t
  f.ecc || c.enter != .none || c.openWaits.meets c.pend

/-- An attempt of a thread to issue, in the order of R151: a deferred fault, the wait of R40, the block's entry, the word. -/
def State.attempt (s : State) (t : Thr) : Attempt :=
  let s := { s with cur := t }
  let c := s.ctx t
  if !s.mayIssue t then .done s
  else
    match (s.dueFirst t).filter (s.dueNow t) with
    | some f => .done (s.takeDue t f)
    | none =>
      if c.openWaits.meets c.pend then .done (s.position t .memory (s.pendSub c.openWaits))
      else
        match s.enterBlock t with
        | .inl s => .done s
        | .inr s => s.fetchWord t

/-! ## An instruction placed for the next step -/

/-- The gang that a placed instruction belongs to: its one range covers the first MiB of pot 0's scratchpads, readable and writable, with its block-start map inside. -/
def placedLease : Lease := { base := 0xFFF0000000000000, r := true, w := true, secure := false, len := 0x100000, map := 0xFFF0000000008000 }

/-- The address of the header of a placed instruction. -/
def placedHdr : Word := 0xFFF0000000001000

/-- A record for a placed gang. -/
def placedGang : Gang := { record := { queue := 0, num := 0, bytes := [], lease := [(0, placedLease)], blend := [] }, cores := [0], st := .running }

/-- The KIND of the block that a word may stand in: 0 where it can, else a kettle's. -/
def placedKind (w : Lane) : Nat :=
  if (wordInstr 0 w).isSome then 0 else if (wordInstr 3 w).isSome then 3 else if (wordInstr 4 w).isSome then 4 else 0

/-- The thread that runs a block of a KIND: the context in slot 0 of core 0, or a kettle thread of that core. -/
def placedThr (kind : Nat) : Thr := if kind = 3 then .draw 0 else if kind = 4 then .brew 0 else .ctx 0 0

/-- The state with a word of 32 bits placed, at the thread's turn, as the one word of a block that the thread of its KIND enters at the next step: a booted module, a gang on core 0, its lease, the block with its map bit, the thread bound (DESIGN CHOICE, log 12). -/
def State.place (s : State) (w : Lane) : State :=
  let kind := placedKind w
  let t := placedThr kind
  let h := encodeHeader { len := 1, liveg := 0, livev := 0, livek := 0, pf := 0, kind := kind }
  let s := { s with
    mgmt := { s.mgmt with mstate := mstateWord 1 0 0 }
    gangs := SMap.ins s.gangs 1 placedGang
    icache := []
    agenda := [.issue t]
    pos := if t.kettle then 15 else 0
    turn := [turnOf t] }
  let s := s.writeLocs (mkLoc ownModule 0 0x1000) (leBytes 8 h.toNat ++ (wordBytes w ++ [0, 0, 0, 0]))
  let s := s.writeLocs (mkLoc ownModule 0 (0x8000 + 0x1000 / 64)) [1]
  let k := { s.core 0 with gang := some 1, lease := [(0, placedLease)] }
  let x : Ctx := { st := .bound, pc := placedHdr, enter := .start }
  match t with
  | .ctx _ _ => s.setCore 0 ({ k with slots := SMap.ins k.slots 0 { ctx := some 0, last := some 0 } }.setCtx 0 { x with name := some ⟨0, 0⟩ })
  | .draw _ => s.setCore 0 { k with draw := x }
  | .brew _ => s.setCore 0 { k with brew := x }

end Sys2Proof.Machine
end

