-- ==== Sys2Proof/Machine/Sched.lean ====
section
/-! DEFINITION. Which move comes next (DESIGN CHOICE, log 1): the environment's, in the order of the agenda; else the first of the part's own moves that changes something; else the next position of the rotation (spec/01_device.md R16, 11_ordering.md R209, R230). -/

namespace Sys2Proof.Machine

/-- The outcome of a move, its arguments put away. -/
def finish : Host.Outcome State Fault Refusal → Host.Outcome State Fault Refusal
  | .next s => .next { s with sel := {} }
  | .fault r => .fault r
  | .refused r => .refused r

/-- A move taken. -/
def State.take (s : State) (i : Instr) (x : Sel) : Host.Outcome State Fault Refusal := finish (exec i { s with sel := x })

/-- An attempt carried out: the instruction it comes to is executed. -/
def Attempt.carry : Attempt → Host.Outcome State Fault Refusal
  | .done s => .next s
  | .run s i => finish (exec i s)

/-! ## The part's own moves -/

/-- A move on an entry, a command or any other numbered thing. -/
def at1 (i : Instr) (a : Nat) : Instr × Sel := (i, { a := a })
def at2 (i : Instr) (a b : Nat) : Instr × Sel := (i, { a := a, b := b })

/-- The moves of an entry of the ordering machine. -/
def entryMoves (e : Entry) : List (Instr × Sel) :=
  match e.phase with
  | .egress => [at1 .depart e.id]
  | .channel => [at1 .rnrRetry e.id, at1 .arrive e.id, at1 .startMessageArrival e.id, at1 .messageArrival e.id, at1 .sachetArrival e.id]
  | .ingress => at1 .echo e.id :: (rangeFrom 0 (Nat.max 1 e.bytes.length)).map (at2 .perform e.id)
  | .waitlist => [at1 .ldsPerform e.id]
  | .reply => [at1 .reply e.id, at1 .dldReply e.id]

/-- The moves of an engine command. -/
def cmdMoves (c : Cmd) : List (Instr × Sel) :=
  [at1 .handleResolution c.id, at1 .engineCommandComplete c.id, at1 .collComplete c.id, at1 .caddyMerge c.id, at1 .subscriptionEnd c.id,
   at1 .blockReadReturn c.id, at1 .engine c.id, at1 .subscriptionTileLoad c.id, at1 .subscriptionTileStore c.id, at1 .caddyHomeArrival c.id,
   at1 .collJoin c.id] ++ c.aux.map (at2 .icinvAck c.id)

/-- The moves of a context. -/
def ctxMoves (n i : Nat) : List (Instr × Sel) :=
  [at2 .trapEntry n i, at2 .barrierArrival n i, at2 .barrierCompletion n i, at2 .migrAnswer n i, at2 .agingStep n i, at2 .spillReturn n i]

/-- The moves of a core. -/
def coreMoves (n : Nat) (k : Core) : List (Instr × Sel) :=
  (rangeFrom 0 k.flight.length).map (at2 .resultWrite n) ++ (rangeFrom 0 4).map (at2 .vectorUnitAccept n)
    ++ (rangeFrom 0 k.stream.length).map (at2 .matrixCommandFinish n) ++ [at1 .ringMove n, at1 .matrixStreamAccept n]
    ++ (rangeFrom 0 4).map (at2 .copyChannelTake n) ++ [at1 .trayDepart n]
    ++ k.ctxs.flatMap (fun p => ctxMoves n p.1) ++ (rangeFrom 0 15).map (at2 .park n) ++ [at1 .bind n]

/-- The moves of a tray. -/
def trayMoves (p : Nat) (t : Tray) : List (Instr × Sel) :=
  [(.trayCommandStart, { a := p }), (.trayCommandStart, { a := p, flag := true })]
    ++ t.fwd.map (fun x => (.caddyShardCommand, { a := x.2.1, b := x.2.2, c := p + 1 })) ++ t.shards.map (fun h => at2 .caddyShardCommand p h.1)

/-- The moves of a partition's launch engine. -/
def partMoves (n : Nat) (p : Part) : List (Instr × Sel) :=
  p.clearing.map (fun x => (.caddyClearApply, { a := n, b := x.1, c := x.2.1 }))
    ++ [at1 .traceRecordWrite n, at1 .hostInterrupt n] ++ (rangeFrom 0 p.pool.length).map (at2 .dependencyMet n)
    ++ [at1 .pte n, at1 .inval n, at1 .revoke n, at1 .bufreg n, at1 .bufdel n, at1 .caddy n]
    ++ [at1 .drain n, at1 .resume n, at1 .force n, at1 .reopen n] ++ (rangeFrom 0 16).map (at2 .launchRecordTake n)

/-- The part's own moves, in the order in which they are tried. -/
def State.ownMoves (s : State) : List (Instr × Sel) :=
  s.ents.flatMap entryMoves ++ s.cmds.flatMap (fun p => cmdMoves p.2) ++ s.cores.flatMap (fun p => coreMoves p.1 p.2)
    ++ (s.links.filter (fun p => p.2.retraining)).map (fun p => (.retrainingEnd, { a := p.1, flag := true }))
    ++ s.trays.flatMap (fun p => trayMoves p.1 p.2) ++ s.owners.map (fun p => at1 .tlbWalk p.1)
    ++ s.partList.flatMap (fun n => partMoves n (s.part n))
    ++ s.gangs.flatMap (fun p => [at1 .gangDetach p.1, at1 .gangDispatch p.1, at1 .gangRestore p.1])
    ++ [at1 .stop 0, at1 .dbgctlResume 0, at1 .clockStepUp 0]
    ++ s.partList.flatMap (fun n => [at1 .preempt n, at1 .abort n])

/-- The state after a move, if the move changes anything. -/
def State.changes (s : State) (m : Instr × Sel) : Option State :=
  match s.take m.1 m.2 with
  | .next s' => if s' = { s with sel := {} } then none else some s'
  | _ => none

/-- The first of the part's own moves that changes something (DESIGN CHOICE, log 1). -/
def State.autoMove (s : State) : Option State := s.ownMoves.findSome? s.changes

/-! ## The rotation (R16, R269, R412) -/

/-- A slot's position: its thread attempts to issue, or the position passes unused (R402). -/
def State.serveSlot (s : State) (n : Nat) : Host.Outcome State Fault Refusal :=
  match s.boundIn n s.pos with
  | some t => if (s.holdClass t).isSome then s.take .position { a := n } else (s.attempt t).carry
  | none => s.take .position { a := n }

/-- One entry of the cycle's list served. -/
def State.serve (s : State) (x : Nat) : Host.Outcome State Fault Refusal :=
  let n := x % 2 ^ 16
  match x / 2 ^ 16 with
  | 0 => if s.pos < 15 then s.serveSlot n else s.take .mailboxMove { a := n }
  | 1 => s.take .pcSample { a := n }
  | 2 => (s.attempt (.draw n)).carry
  | 3 => (s.attempt (.brew n)).carry
  | _ => s.take .rotationEnd { a := n }

/-- The rotation moves on: the next entry of the list, or the next cycle. -/
def State.turnMove (s : State) : Host.Outcome State Fault Refusal :=
  match s.turn with
  | x :: rest => ({ s with turn := rest }).serve x
  | [] => s.take .cycle {}

/-- The results due in this cycle have been written on the core of a place of this cycle's list (R436); a sampler's place is no core's. -/
def State.mayServe (s : State) (x : Nat) : Bool := x / 2 ^ 16 == 1 || !s.resultDue (x % 2 ^ 16)

/-- A place of this cycle's list served out of turn; nothing happens where it has been served already (R16, R17), or where results of its core come first. -/
def State.serveEarly (s : State) (x : Nat) : Host.Outcome State Fault Refusal :=
  if s.turn.contains x && s.mayServe x then ({ s with turn := s.turn.erase x }).serve x else .next s

/-- The thread is the one whose turn its core's position or its pair's is. -/
def State.itsTurn (s : State) (t : Thr) : Bool :=
  match t with
  | .ctx n _ => decide (s.pos < 15) && s.boundIn n s.pos == some t
  | _ => s.pos == 15

/-! ## The next move -/

/-- Moves that the host's side and the management core make while every other clock of the module stands still or the module stays in reset: the management block keeps running, its measurements and the 105 °C trip among it (R420, R424, R426, R429). -/
def outside : Instr → Bool
  | .reset | .attreq | .freeze | .freezecmd | .registerWrite | .powerSample | .thermalTrip | .clockStepUp => true
  | _ => false

/-- The module runs (R420, R426). -/
def State.running (s : State) : Bool := s.bootState == 1

/-- A move that the agenda may bring: a whole step of the part. An instruction is issued by a thread at its position and nowhere else (R16). -/
def eventRow (i : Instr) : Bool :=
  match i with
  | .illegalWord => false
  | i => (encode i).isNone

/-- The place in the cycle's list that a row serves: the rotation offers each of these rows once in a cycle. -/
def placeOf (i : Instr) (x : Sel) : Option Nat :=
  match i with
  | .position | .mailboxMove => some x.a
  | .pcSample => some (turnCode 1 x.a)
  | .rotationEnd => some (turnCode 4 x.a)
  | _ => none

/-- An event of the agenda. -/
def State.agendaMove (s : State) (i : Instr) (x : Sel) : Host.Outcome State Fault Refusal :=
  if !eventRow i then .next s
  else
    match placeOf i x with
    | some p => s.serveEarly p
    | none => s.take i x

/-- The next move of the machine (DESIGN CHOICE, log 1). -/
def State.move (s : State) : Host.Outcome State Fault Refusal :=
  match s.agenda with
  | .event i x :: rest =>
    let s' := { s with agenda := rest }
    if s.running || outside i then s'.agendaMove i x else .next s'
  | .issue t :: rest =>
    let s' := { s with agenda := rest }
    if s.running && s.itsTurn t then s'.serveEarly (turnOf t) else .next s'
  | [] =>
    if s.isFrozen then .fault .frozen
    else if !s.running then .next s
    else
      match s.autoMove with
      | some s' => .next s'
      | none => s.turnMove

end Sys2Proof.Machine
end

