-- ==== Sys2Proof/Machine/Step.lean ====
section
/-! DEFINITION. The step of the machine, and an instruction placed for the next step. -/

namespace Sys2Proof.Machine

/-- One step: the next move (log 1). -/
def step (s : State) : Host.Outcome State Fault Refusal := s.move

/-- The state with an instruction of `nbits` bits placed where the next step fetches it; every instruction is one 32-bit word (DESIGN CHOICE, log 12). -/
def State.withFetchWord (s : State) (nbits w : Nat) : State := s.place (BitVec.ofNat 32 (w % 2 ^ nbits))

end Sys2Proof.Machine
end

