-- ==== Sys2Proof/Safety.lean ====
section
/-! DEFINITION. The terms in which claims speak of a run: what an instruction leaves alone, a completed instruction, and the invariants of the state. -/

namespace Sys2Proof.Machine

/-! ## What an instruction leaves alone -/

/-- The registers of a thread outside the listed g, v and k registers read as before, and its mode, exception registers, priority, failures, accesses and name are unchanged; s.fflags too where `flags` is true. The program counter, windows, pending bits and the hold on the thread are not spoken of. -/
def Ctx.kept (c d : Ctx) (g v k : List Nat) (flags : Bool) : Prop :=
  (∀ r, r ∉ g → d.gr r = c.gr r) ∧ (∀ r, r ∉ v → d.vr r = c.vr r) ∧ (∀ r, r ∉ k → d.kr r = c.kr r)
    ∧ (flags = true → d.fflags = c.fflags)
    ∧ d.prio = c.prio ∧ d.sup = c.sup ∧ d.cause = c.cause ∧ d.epc = c.epc ∧ d.vaddr = c.vaddr
    ∧ d.st = c.st ∧ d.stopped = c.stopped ∧ d.fails = c.fails ∧ d.susp = c.susp ∧ d.stamp = c.stamp ∧ d.name = c.name

/-- A core without its threads and its position counts: its system registers, lease, blend and handle tables, tiles, latches, queues and mailboxes. -/
def Core.bare (c : Core) : Core := { c with ctxs := [], draw := {}, brew := {}, ctr := [], posClass := [], rotIssued := 0 }

/-- The same without the vector queues and the results in flight, for long-latency instructions. -/
def Core.bareOfResults (c : Core) : Core := { c.bare with vq := [], flight := [] }

/-- The same without the handle table, tiles and their holders, the matrix queues, and the queues of messages and of the draw thread: the system registers, tables, latches and mailboxes that no command or message of the core's threads changes at issue. -/
def Core.special (c : Core) : Core :=
  { c.bare with handles := [], holders := [], tiles := [], mq := [], sendq := 0, acks := 0, rq := [], orphans := [], drawq := [] }

/-- Every thread but one is as before. -/
def State.othersKept (s t : State) (x : Thr) : Prop := ∀ y, y ≠ x → t.ctx y = s.ctx y

/-- Every byte of memory, every flag word and every full bit reads as before. -/
def State.memoryKept (s t : State) : Prop :=
  (∀ l, t.readLoc l = s.readLoc l) ∧ (∀ l, t.flag l = s.flag l) ∧ (∀ l, t.isFull l = s.isFull l)

/-- Everything outside the cores is as before: memory, flags, trays, gangs, partitions, tables, entries, commands, the management core, links and time. -/
def State.moduleKept (s t : State) : Prop := { t with cores := s.cores } = s

/-- The same but for the entries of the ordering machine and the numbers given out: what an access adds to. -/
def State.accessKept (s t : State) : Prop := { t with cores := s.cores, ents := s.ents, next := s.next } = s

/-- The frame of an instruction: the acting thread's registers but for the listed ones, every other thread, what `part` shows of each core, what `whole` says of the module, and all of memory are as before. -/
def State.frame (s t : State) (gs vs ks : List Nat) (flags : Bool) (part : Core → Core) (whole : State → State → Prop) : Prop :=
  (s.ctx s.cur).kept (t.ctx s.cur) gs vs ks flags ∧ s.othersKept t s.cur ∧ (∀ n, part (t.core n) = part (s.core n)) ∧ whole s t ∧ s.memoryKept t

/-! ## Completion -/

/-- A g, v or k register of the acting thread. -/
def State.reg (s : State) (r : Nat) : Word := (s.ctx s.cur).gr r
def State.vreg (s : State) (r : Nat) : VWord := (s.ctx s.cur).vr r
def State.kreg (s : State) (r : Nat) : Word := (s.ctx s.cur).kr r

/-- An instruction that names `u` completes from every state in which nothing keeps it from its effect and `g` holds: its effect is `f`, and the thread goes on behind it. -/
def Completes (i : Instr) (u : Use) (g : State → Prop) (f : State → State) : Prop :=
  ∀ s : State, s.clear u = true → g s → exec i s = .next ((f s).behind s.cur u true)

/-- The same, for an instruction behind which the thread is held, or which transfers control: `f` gives the thread's place too. -/
def Holds (i : Instr) (u : Use) (g : State → Prop) (f : State → State) : Prop :=
  ∀ s : State, s.clear u = true → g s → exec i s = .next ((f s).position s.cur .issued .none)

/-- An instruction that names `u` raises a fault where `g` holds: cause code, sub-cause and datum, with the thread's program counter as the saved one. That the position counts as one of trap entry is the model's reading (log 55). -/
def Faults (i : Instr) (u : Use) (g : State → Prop) (code sub : Nat) (va : State → Word) : Prop :=
  ∀ s : State, s.clear u = true → g s → exec i s = .next ((s.position s.cur .vacant .trap).raiseAt s.cur code sub (va s))

/-- No condition. -/
def always : State → Prop := fun _ => True

/-- The frame of an instruction: wherever nothing keeps it from its effect and `g` holds, a next state differs from the one before in the listed registers only. -/
def Frames (i : Instr) (u : Use) (g : State → Prop) (gs vs ks : List Nat) (flags : Bool) (part : Core → Core) (whole : State → State → Prop) : Prop :=
  ∀ s t : State, s.clear u = true → g s → exec i s = .next t → s.frame t gs vs ks flags part whole

/-- An event's move, with the arguments `x`, from a state that meets `g`: there is a next state, and `f` says what it holds. -/
def Moves (i : Instr) (g : State → Prop) (f : State → State → Prop) : Prop :=
  ∀ s : State, g s → ∃ t : State, exec i s = .next t ∧ f s t

/-! ## Invariants -/

/-- Memory, full bits, flag words and uncorrectable granules in their canonical form: keys strictly rising, nothing listed that an unlisted key reads as. -/
def State.memoryWf (s : State) : Prop :=
  Memory.wf s.mem ∧ SMap.wf false s.full = true ∧ SMap.wf 0 s.flags = true ∧ SMap.wf false s.poison = true

end Sys2Proof.Machine
end

