-- ==== Sys2Proof/Safety/Rows.lean ====
section
/-! DEFINITION. The shapes of the register-to-register instructions, in which the claims of completion and of frames are written: what an instruction of the shape names, and the value it writes in terms of the registers it reads. -/

namespace Sys2Proof.Machine

/-- Two g sources and a g destination: rd := f(ga, gb). -/
def FormRRR (i : GReg → GReg → GReg → Instr) (f : Word → Word → Word) : Prop :=
  ∀ rd ra rb, Completes (i rd ra rb) (useRRR rd ra rb) always (fun s => s.putG rd (f (s.reg ra) (s.reg rb)))

/-- The same with rd as a further source: rd := f(gd, ga, gb). -/
def FormRRRd (i : GReg → GReg → GReg → Instr) (f : Word → Word → Word → Word) : Prop :=
  ∀ rd ra rb, Completes (i rd ra rb) (useRRRd rd ra rb) always (fun s => s.putG rd (f (s.reg rd) (s.reg ra) (s.reg rb)))

/-- One g source: rd := f(ga). -/
def FormRR (i : GReg → GReg → Instr) (f : Word → Word) : Prop :=
  ∀ rd ra, Completes (i rd ra) (useRR rd ra) always (fun s => s.putG rd (f (s.reg ra)))

/-- A g source and a 16-bit immediate. -/
def FormImm (i : GReg → GReg → BitVec 16 → Instr) (f : Word → BitVec 16 → Word) : Prop :=
  ∀ rd ra imm, Completes (i rd ra imm) (useRR rd ra) always (fun s => s.putG rd (f (s.reg ra) imm))

/-- A g source and a shift count. -/
def FormCount (i : GReg → GReg → Fin 64 → Instr) (f : Word → Nat → Word) : Prop :=
  ∀ rd ra c, Completes (i rd ra c) (useRR rd ra) always (fun s => s.putG rd (f (s.reg ra) c.val))

/-- The frame of an instruction that writes one g register: rd alone may change, and s.fflags where `flags` is false; nothing outside the thread changes. -/
def FrameG (i : Instr) (u : Use) (rd : GReg) (flags : Bool) : Prop :=
  Frames i u always [rd.val] [] [] flags Core.bare State.moduleKept

/-- The frame of a long-latency scalar form at issue: no register changes value, rd included, nor s.fflags where `flags` is true; nothing outside the thread changes but the results in flight; rd's pending bit is set, and its handle-pending bit clears (R95). -/
def FrameLong (i : Instr) (u : Use) (rd : GReg) (flags : Bool) : Prop :=
  Frames i u always [] [] [] flags Core.bareOfResults State.moduleKept
  ∧ ∀ s t : State, s.clear u = true → exec i s = .next t → (t.ctx s.cur).pend = (s.ctx s.cur).pend.union (RegSet.ofG rd)
      ∧ (rd.val ≠ 0 → (t.ctx s.cur).hpend.getLsbD rd.val = false)

/-- The low 32 bits of a register as an FP32 value (R92). -/
def f32 (x : Word) : Lane := x.setWidth 32

/-- A scalar floating-point form of two sources: an FP32 result zero-extended to rd, its flags ORed into s.fflags. -/
def FormF2 (i : GReg → GReg → GReg → Instr) (f : Lane → Lane → Lane × FFlags) : Prop :=
  ∀ rd ra rb, Completes (i rd ra rb) (useRRR rd ra rb) always
    (fun s => s.putF rd ((f (f32 (s.reg ra)) (f32 (s.reg rb))).1.setWidth 64) (f (f32 (s.reg ra)) (f32 (s.reg rb))).2)

/-- A scalar comparison: 1 or 0 to rd. -/
def FormFc (i : GReg → GReg → GReg → Instr) (f : Lane → Lane → Bool × FFlags) : Prop :=
  ∀ rd ra rb, Completes (i rd ra rb) (useRRR rd ra rb) always
    (fun s => s.putF rd (if (f (f32 (s.reg ra)) (f32 (s.reg rb))).1 then 1 else 0) (f (f32 (s.reg ra)) (f32 (s.reg rb))).2)

/-- A unary scalar floating-point form. -/
def FormF1 (i : GReg → GReg → Instr) (f : Word → Word × FFlags) : Prop :=
  ∀ rd ra, Completes (i rd ra) (useRR rd ra) always (fun s => s.putF rd (f (s.reg ra)).1 (f (s.reg ra)).2)

/-- Flags that reach s.fflags at issue. -/
def State.flagged (s : State) (f : FFlags) : State := s.setCtx s.cur { s.ctx s.cur with fflags := (s.ctx s.cur).fflags ||| f }

/-- The state in which a long-latency scalar form has started: its result is due after `delay` cycles (R95, R436). Its flags come with the result, or at issue where rd is g0, which no pending bit marks: the model's choice (log 56). -/
def State.started (s : State) (delay : Nat) (rd : GReg) (x : Word) (f : FFlags) : State :=
  if rd.val = 0 then (s.flagged f).fly s.cur delay (gset [rd]) { g := [(rd.val, x)], flags := 0 }
  else s.fly s.cur delay (gset [rd]) { g := [(rd.val, x)], flags := f }

/-- A long-latency scalar form: rd becomes pending and its result is due after `delay` cycles. -/
def FormLong (i : GReg → GReg → GReg → La → Instr) (delay : Nat) (f : Word → Word → Word × FFlags) : Prop :=
  ∀ rd ra rb la, Completes (i rd ra rb la) ((useRRR rd ra rb).long la) always
    (fun s => s.started delay rd (f (s.reg ra) (s.reg rb)).1 (f (s.reg ra) (s.reg rb)).2)

/-- The count of a shift by register (R98). -/
def countOf (x : Word) : Nat := x.toNat % 64

/-- Rotation left by a count below 64, as R98 writes it. -/
def rotl (x : Word) (c : Nat) : Word := (x <<< c) ||| (x >>> (64 - c))
/-- Rotation right by a count below 64. -/
def rotr (x : Word) (c : Nat) : Word := (x >>> c) ||| (x <<< (64 - c))

/-- An arithmetic shift right: the floor of the signed quotient by 2^c. -/
def asr (x : Word) (c : Nat) : Word := BitVec.ofInt 64 (x.toInt / 2 ^ c)

/-- The low n bits of a word, sign-extended (R93). -/
def sextOf (n : Nat) (x : Word) : Word := (x.setWidth n).signExtend 64

/-! ## Transfers of control (R28-R31) -/

/-- The check of a transfer's target by the acting thread (R28). -/
def State.target (s : State) (a : Word) : EnterRes := s.checkTarget s.cur.core a (admits s.cur .admitted)

/-- The target is admitted. -/
def State.admitted (s : State) (a : Word) : Prop := ∃ s' b, s.target a = .ok s' b

/-- The state once the target's header has been looked at: a line may have entered the instruction cache. -/
def State.looked (s : State) (a : Word) : State :=
  match s.target a with
  | .ok s' _ => s'
  | _ => s

/-- The address H + 8 × off for the block that the acting thread is in (R29). -/
def State.blockTarget (s : State) (off : Int) : Word := (s.ctx s.cur).blk.hdr + BitVec.ofInt 64 (8 * off)

/-- The acting thread at a target: its program counter there, no window open. -/
def State.jumpTo (s : State) (a : Word) : State :=
  (s.looked a).setCtx s.cur { s.ctx s.cur with pc := a, enter := .admitted, windows := [], wait := 0 }

/-- The same with the link, the header behind the block, in rd. -/
def State.linked (s : State) (rd : GReg) (a : Word) : State :=
  let c := (s.ctx s.cur).setG rd (s.ctx s.cur).blk.next
  (s.looked a).setCtx s.cur { c with pc := a, enter := .admitted, windows := [], wait := 0 }

/-- The acting thread behind a transfer whose target has failed its check: nothing has changed but that its next position takes the fault (R31, R114). -/
def State.targetRefused (s : State) (code : Nat) (va : Word) : State := s.setCtx s.cur { s.ctx s.cur with enter := .refused code va, wait := 0 }

/-- A branch: not taken, it has no effect; taken, it enters an admitted target, or leaves the target's fault to its next position. -/
def BranchForm (i : GReg → GReg → BitVec 13 → Instr) (p : Word → Word → Prop) : Prop :=
  ∀ ra rb off,
    Completes (i ra rb off) (useS [ra, rb]) (fun s => ¬ p (s.reg ra) (s.reg rb)) id
    ∧ Holds (i ra rb off) (useS [ra, rb]) (fun s => p (s.reg ra) (s.reg rb) ∧ s.admitted (s.blockTarget off.toInt)) (fun s => s.jumpTo (s.blockTarget off.toInt))
    ∧ ∀ code va, Holds (i ra rb off) (useS [ra, rb])
        (fun s => p (s.reg ra) (s.reg rb) ∧ s.target (s.blockTarget off.toInt) = .fault code va) (fun s => s.targetRefused code va)

/-! ## Faults before the effect (R39, R136, R151) -/

/-- A privileged instruction in user mode: no deferred fault is due, and PRIV is raised with nothing else done. -/
def PrivIn (i : Instr) (u : Use) : Prop :=
  ∀ s : State, (s.ctx s.cur).sup = false → s.dueAt s.cur (u.src.union u.dst) u.all = none →
    exec i s = .next ((s.position s.cur .vacant .trap).raiseAt s.cur cPRIV 0 0)

/-- An instruction that names a register of an open window: no deferred fault is due, it may run in the thread's mode, and HAZARD is raised with nothing else done. -/
def HazardIn (i : Instr) (u : Use) : Prop :=
  ∀ s : State, (s.ctx s.cur).hazard u = true → (u.priv = true → (s.ctx s.cur).sup = true) → s.dueAt s.cur (u.src.union u.dst) u.all = none →
    exec i s = .next ((s.position s.cur .vacant .trap).raiseAt s.cur cHAZARD 0 0)

/-- Where ERET finds s.epc to point (R146): a header, a word inside a block, or neither, for the kinds that the mode in PMODE may be in. -/
def State.returnTo (s : State) : Point :=
  s.returnPoint s.cur.core (s.ctx s.cur).epc (fun k => k == 0 || ((s.ctx s.cur).cause.bits 16 1 == 1 && k == 1))

end Sys2Proof.Machine
end

