-- ==== Sys2Proof/Safety/Units.lean ====
section
/-! DEFINITION. The shapes of the instructions that hand work to a unit: memory accesses, vector and matrix commands, engine commands; and what the claims say of the work handed over. -/

namespace Sys2Proof.Machine

/-- An attempt that ends without the effect: the thread keeps its position, in the state `f`. -/
def Stays (i : Instr) (u : Use) (g : State → Prop) (f : State → State) (k : Cls4) (b : Sub) : Prop :=
  ∀ s : State, s.clear u = true → g s → exec i s = .next ((f s).position s.cur k b)

/-- The frame of an instruction that hands work over: no register of its thread but the g registers listed, none of the thread's flags and exception registers, no other thread, no system register or table of a core, and no byte of memory changes. -/
def State.workFrame (s t : State) (gs : List Nat) : Prop :=
  (s.ctx s.cur).kept (t.ctx s.cur) gs [] [] true ∧ s.othersKept t s.cur ∧ (∀ n, (t.core n).special = (s.core n).special) ∧ s.memoryKept t

/-- An instruction completes wherever nothing keeps it from its effect and `g` holds: there is a next state, `f` says what it holds, and of the g registers only `gs` may change. -/
def Effects (i : Instr) (u : Use) (g : State → Prop) (gs : List Nat) (f : State → State → Prop) : Prop :=
  ∀ s : State, s.clear u = true → g s → ∃ t : State, exec i s = .next t ∧ s.workFrame t gs ∧ f s t

/-! ## Memory accesses (R121-R132) -/

/-- The base register plus the displacement times the access size (R121). -/
def State.addr (s : State) (ra : GReg) (d : BitVec 7) (n : Nat) : Word := s.reg ra + d.signExtend 64 * word n

/-- The checks of R122 admit the stretches of bytes. -/
def State.allows (s : State) (p : Perm) (l : List (Word × Nat)) : Prop := s.checkAccess s.cur.core p l = none

/-- An access of one or more stretches: admitted, it has the effect `f`; else it raises the first failing check's fault with the failing byte. -/
def AccessForm (i : Instr) (u : Use) (p : Perm) (l : State → List (Word × Nat)) (f : State → State) : Prop :=
  Completes i u (fun s => s.allows p (l s)) f
  ∧ ∀ code va, Faults i u (fun s => s.checkAccess s.cur.core p (l s) = some (code, va)) code 0 (fun _ => va)

/-- A scalar load issues one access of its size whose replies write rd. -/
def LoadForm (i : GReg → GReg → La → Size → BitVec 7 → Instr) (o : Order) (signed : Bool) : Prop :=
  ∀ rd ra la sz d, AccessForm (i rd ra la sz d) ((useRR rd ra).long la) permR (fun s => [(s.addr ra d (2 ^ sz.val), 2 ^ sz.val)])
    (fun s => s.issueAccess s.cur o (.g rd.val (2 ^ sz.val) signed) (contiguous (s.addr ra d (2 ^ sz.val)) 0 (2 ^ sz.val) []))

/-- A scalar store issues one access with the low bytes of gd. -/
def StoreForm (i : GReg → GReg → Size → BitVec 7 → Instr) (o : Word → Order) : Prop :=
  ∀ rd ra sz d, AccessForm (i rd ra sz d) (useS [rd, ra]) permW (fun s => [(s.addr ra d (2 ^ sz.val), 2 ^ sz.val)])
    (fun s => s.issueAccess s.cur (o (s.addr ra d (2 ^ sz.val))) .none
      (contiguous (s.addr ra d (2 ^ sz.val)) 0 (2 ^ sz.val) (leBytes (2 ^ sz.val) (s.reg rd).toNat)))

/-- An aligned access of `n` bytes at an address with full/empty bits (R239): ATOMIC_ALIGN, then BAD_OWNER, then the checks of R122. -/
def GranuleForm (i : Instr) (u : Use) (p : Perm) (a : State → Word) (n : Nat) (f : State → State) : Prop :=
  Completes i u (fun s => (a s).toNat % n = 0 ∧ s.checkFull s.cur.core [(a s, n)] = none ∧ s.allows p [(a s, n)]) f
  ∧ Faults i u (fun s => (a s).toNat % n ≠ 0) cATOMIC_ALIGN 0 a
  ∧ (∀ va, Faults i u (fun s => (a s).toNat % n = 0 ∧ s.checkFull s.cur.core [(a s, n)] = some va) cBAD_OWNER 0 (fun _ => va))
  ∧ ∀ code va, Faults i u (fun s => (a s).toNat % n = 0 ∧ s.checkFull s.cur.core [(a s, n)] = none
      ∧ s.checkAccess s.cur.core p [(a s, n)] = some (code, va)) code 0 (fun _ => va)

/-- What a vector load names. -/
def useVLoad (rd : VReg) (v g : List Nat) (k : KReg) (la : La) : Use := { src := useV (maskSrc rd k v) g [k], dst := RegSet.ofV rd, la := some la.val }

/-- A vector load of the active lanes, lane i at `addr s i`: with no lane active it completes with nothing outstanding (R122, R129, R131). `row` is the byte that the form checks against the module of its base, where it has one. -/
def VectorLoadForm (i : Instr) (u : Use) (rd : VReg) (k : KReg) (addr : State → Nat → Word) (row : State → Option Word) : Prop :=
  (∀ s : State, s.clear u = true → activeLanes (s.kreg k) ≠ [] → row s = none → s.allows permR (laneRanges (activeLanes (s.kreg k)) (addr s)) →
    exec i s = .next ((s.issueAccess s.cur plainLoad (.v rd.val (s.kreg k)) (laneBytes (activeLanes (s.kreg k)) (addr s) 0)).behind s.cur u true))
  ∧ (∀ s : State, s.clear u = true → activeLanes (s.kreg k) = [] → exec i s = .next (s.behind s.cur u false))
  ∧ (∀ b, Faults i u (fun s => row s = some b) cBAD_OWNER 0 (fun _ => b))
  ∧ ∀ code va, Faults i u (fun s => row s = none ∧ s.checkAccess s.cur.core permR (laneRanges (activeLanes (s.kreg k)) (addr s)) = some (code, va)) code 0 (fun _ => va)

/-- A vector store of the active lanes. -/
def VectorStoreForm (i : Instr) (u : Use) (rd : VReg) (k : KReg) (addr : State → Nat → Word) (row : State → Option Word) : Prop :=
  Completes i u (fun s => row s = none ∧ s.allows permW (laneRanges (activeLanes (s.kreg k)) (addr s)))
    (fun s => s.issueAccess s.cur plainStore .none (topBytes (s.located s.cur.core (laneBytes (activeLanes (s.kreg k)) (addr s) (s.vreg rd)))))
  ∧ (∀ b, Faults i u (fun s => row s = some b) cBAD_OWNER 0 (fun _ => b))
  ∧ ∀ code va, Faults i u (fun s => row s = none ∧ s.checkAccess s.cur.core permW (laneRanges (activeLanes (s.kreg k)) (addr s)) = some (code, va)) code 0 (fun _ => va)

/-- The first byte of the active lanes of a VLD or VST that lies in another module than the byte at the instruction's address, or has no owner (R122 check 1). -/
def State.rowOutside (s : State) (k : KReg) (a : Word) : Option Word :=
  s.firstFailAll s.cur.core (s.ownerOk s.cur.core (s.canonModule (moduleOf a))) (laneRanges (activeLanes (s.kreg k)) (fun i => a + word (4 * i)))

/-- No such check. -/
def noRow : State → Option Word := fun _ => none

/-- An atomic at the address in ra (R235-R238): ATOMIC_ALIGN, then the checks of R122 with both permissions, then one access. -/
def AtomicForm (i : Instr) (u : Use) (ra : GReg) (n : Nat) (o : State → Order) (d : Dest) : Prop :=
  Completes i u (fun s => (s.reg ra).toNat % n = 0 ∧ s.allows permRW [(s.reg ra, n)])
    (fun s => s.issueAccess s.cur (o s) d (contiguous (s.reg ra) 0 n []))
  ∧ Faults i u (fun s => (s.reg ra).toNat % n ≠ 0) cATOMIC_ALIGN 0 (fun s => s.reg ra)
  ∧ ∀ code va, Faults i u (fun s => (s.reg ra).toNat % n = 0 ∧ s.checkAccess s.cur.core permRW [(s.reg ra, n)] = some (code, va)) code 0 (fun _ => va)

/-- A 4- or 8-byte atomic of one operation code of R236. -/
def AtomicWD (i : GReg → GReg → GReg → La → Scope → Instr) (op n : Nat) : Prop :=
  ∀ (rd ra rb : GReg) (la : La) (c : Scope), AtomicForm (i rd ra rb la c)
    { src := if op = 10 then gset [rd, ra, rb] else gset [ra, rb], dst := gset [rd], la := some la.val } ra n
    (fun s => { kind := .atomic op n ((s.reg rb).toNat % 2 ^ (8 * n)) ((s.reg rd).toNat % 2 ^ (8 * n)), replies := true, acq := true, rel := relOf c (s.reg ra) })
    (.g rd.val n false)

/-- The 128-bit value of a register pair. -/
def State.pairOf (s : State) (p : GPair) : Nat := (s.reg (2 * p.val)).toNat + 2 ^ 64 * (s.reg (2 * p.val + 1)).toNat

/-- A 16-byte atomic. -/
def AtomicQ (i : GPair → GReg → GPair → La → Scope → Instr) (op : Nat) : Prop :=
  ∀ (rd : GPair) (ra : GReg) (rb : GPair) (la : La) (c : Scope),
    let dst := gset [2 * rd.val, 2 * rd.val + 1]
    let src := gset [ra, 2 * rb.val, 2 * rb.val + 1]
    AtomicForm (i rd ra rb la c) { src := if op = 10 then src.union dst else src, dst := dst, la := some la.val } ra 16
      (fun s => { kind := .atomic op 16 (s.pairOf rb) (s.pairOf rd), replies := true, acq := true, rel := relOf c (s.reg ra) }) (.pair (2 * rd.val))

/-- A fence in stages (R224, R244): with nothing outstanding it has its effect at once; else it starts its probes and holds the thread; it has its effect once the egress is empty and, above .core, every probe has been answered. -/
def FenceForm (i : Instr) (u : Use) (g : State → Prop) (wide : Bool) (f : State → State) : Prop :=
  Completes i u (fun s => g s ∧ (s.ctx s.cur).busy ≠ .fence ∧ s.egEmpty s.cur = true ∧ (wide = true → (s.ctx s.cur).tb = [])) f
  ∧ Completes i u (fun s => g s ∧ (s.ctx s.cur).busy = .fence ∧ s.egEmpty s.cur = true ∧ (wide = true → s.probing s.cur = false))
      (fun s => f (s.setCtx s.cur { s.ctx s.cur with busy := .none }))
  ∧ Stays i u (fun s => g s ∧ (s.ctx s.cur).busy = .fence ∧ (s.egEmpty s.cur = false ∨ (wide = true ∧ s.probing s.cur = true))) id .memory .none
  ∧ Stays i u (fun s => g s ∧ (s.ctx s.cur).busy ≠ .fence ∧ (s.egEmpty s.cur = false ∨ (wide = true ∧ (s.ctx s.cur).tb ≠ [])))
      (fun s => let s' := s.setCtx s.cur { s.ctx s.cur with busy := .fence }; if wide then s'.probe s.cur else s') .memory .none

/-! ## Vector commands (R153-R169) -/

/-- The slot's vector queue has room. -/
def State.vroom (s : State) : Prop := ((s.core s.cur.core).vqOf (s.slotOf s.cur)).length < 2

/-- The state with a vector command behind the others of its slot: its unit, the cycles to its result, and its results. The flags of a command without a destination that could be pending (k0) are in s.fflags at issue: the model's choice (log 56). -/
def State.vqueued (s : State) (u : Use) (unit delay : Nat) (w : Writes) : State :=
  let later := if u.dst.empty then { w with flags := 0 } else w
  let f : Flight := { thr := s.cur, slot := s.slotOf s.cur, unit := unit, delay := delay, ready := 0, epc := (s.ctx s.cur).pc, dest := u.dst, writes := later }
  let s := if u.dst.empty then s.flagged w.flags else s
  s.setCore s.cur.core { s.core s.cur.core with vq := (s.core s.cur.core).vq ++ [f] }

/-- A vector instruction: with room in its slot's queue it is queued with results that `p` describes in terms of the thread's registers; without room it keeps its position. -/
def VecForm (i : Instr) (u : Use) (unit delay : Nat) (p : Ctx → Writes → Prop) : Prop :=
  (∀ s : State, s.clear u = true → s.vroom → ∃ w, p (s.ctx s.cur) w ∧ exec i s = .next ((s.vqueued u unit delay w).behind s.cur u true))
  ∧ Stays i u (fun s => ¬ s.vroom) id .memory .hazard

/-- What a vector instruction names. -/
def useVec (dst : RegSet) (v g k : List Nat) (la : La) : Use := { src := useV v g k, dst := dst, la := some la.val }

/-- The results are one v register and the flags. -/
def VOnly (rd : VReg) (w : Writes) (p : VWord → Prop) : Prop := w.g = [] ∧ w.k = [] ∧ ∃ x, w.v = [(rd.val, x)] ∧ p x

/-- The flags are the union of the flags of the lanes below `n` that `q` selects (R69, R157). -/
def FlagsOf (w : Writes) (n : Nat) (q : Nat → Prop) (f : Nat → FFlags) : Prop :=
  ∀ j, w.flags.getLsbD j = true ↔ ∃ i, i < n ∧ q i ∧ (f i).getLsbD j = true

/-- Active lanes hold their lane results, the others their old values; the flags are those of the active lanes (R80, R157). -/
def LanesAre (rd : VReg) (m : Word) (old : VWord) (f : Nat → Lane × FFlags) (w : Writes) : Prop :=
  VOnly rd w (fun x => ∀ i, i < 64 → VWord.lane x i = if maskBit m i then (f i).1 else VWord.lane old i)
  ∧ FlagsOf w 64 (fun i => maskBit m i = true) (fun i => (f i).2)

/-- A binary lane form. -/
def VFForm (i : VReg → VReg → VReg → KReg → La → Instr) (unit delay : Nat) (f : Lane → Lane → Lane × FFlags) : Prop :=
  ∀ rd ra rb k la, VecForm (i rd ra rb k la) (useVec (RegSet.ofV rd) (maskSrc rd k [ra, rb]) [] [k] la) unit delay
    (fun c => LanesAre rd (c.kr k) (c.vr rd) (fun j => f (VWord.lane (c.vr ra) j) (VWord.lane (c.vr rb) j)))

/-- A unary lane form. -/
def VUForm (i : VReg → VReg → KReg → La → Instr) (unit delay : Nat) (f : Lane → Lane × FFlags) : Prop :=
  ∀ rd ra k la, VecForm (i rd ra k la) (useVec (RegSet.ofV rd) (maskSrc rd k [ra]) [] [k] la) unit delay
    (fun c => LanesAre rd (c.kr k) (c.vr rd) (fun j => f (VWord.lane (c.vr ra) j)))

/-- Element j of a lane, of w bits. -/
def elemOf (w : Nat) (x : Lane) (j : Nat) : Nat := bits x.toNat (w * j) w

/-- Every element of every active lane is f modulo 2^w; other lanes are kept; no flag is set (R160). -/
def ElemsAre (rd : VReg) (w : Nat) (m : Word) (old : VWord) (f : Nat → Nat → Int) (r : Writes) : Prop :=
  r.flags = 0 ∧ VOnly rd r (fun x => ∀ i, i < 64 → (maskBit m i = false → VWord.lane x i = VWord.lane old i)
    ∧ (maskBit m i = true → ∀ j, j < 32 / w → (elemOf w (VWord.lane x i) j : Int) = f i j % 2 ^ w))

/-- A binary form on integer elements. -/
def VIForm (i : VReg → VReg → VReg → KReg → La → Width → Instr) (f : Nat → Nat → Nat → Int) : Prop :=
  ∀ rd ra rb k la wd, VecForm (i rd ra rb k la wd) (useVec (RegSet.ofV rd) (maskSrc rd k [ra, rb]) [] [k] la) 0 10
    (fun c => ElemsAre rd (widthBits wd) (c.kr k) (c.vr rd)
      (fun l j => f (widthBits wd) (elemOf (widthBits wd) (VWord.lane (c.vr ra) l) j) (elemOf (widthBits wd) (VWord.lane (c.vr rb) l) j)))

/-- A form on mask registers. -/
def KForm (i : KReg → KReg → KReg → La → Instr) (f : Word → Word → Word) : Prop :=
  ∀ rd ra rb la, VecForm (i rd ra rb la) (useVec (RegSet.ofK rd) [] [] [ra, rb] la) 3 4
    (fun c w => w.g = [] ∧ w.v = [] ∧ w.flags = 0 ∧ w.k = [(rd.val, f (c.kr ra) (c.kr rb))])

/-- A form that brings a value to a g register. -/
def ToG (i : Instr) (rd : GReg) (v g k : List Nat) (la : La) (f : Ctx → Word) : Prop :=
  VecForm i (useVec (RegSet.ofG rd) v g k la) 3 4 (fun c w => w.v = [] ∧ w.k = [] ∧ w.flags = 0 ∧ w.g = [(rd.val, f c)])

/-- The lanes of a reduction: the active lanes' values, and the identity elsewhere (R166). -/
def redLanes (m : Word) (x : VWord) (id : Lane) : List Lane := (rangeFrom 0 64).map (fun i => if maskBit m i then VWord.lane x i else id)

/-- A reduction to every lane of vd, without flags: the fold of the active lanes from the identity. -/
def RedForm (i : VReg → VReg → KReg → La → Instr) (id : Lane) (op : Lane → Lane → Lane) : Prop :=
  ∀ rd ra k la, VecForm (i rd ra k la) (useVec (RegSet.ofV rd) [ra] [] [k] la) 0 14
    (fun c w => w.flags = 0 ∧ VOnly rd w (fun x => ∀ j, j < 64 → VWord.lane x j = ((activeLanes (c.kr k)).map (VWord.lane (c.vr ra))).foldl op id))

/-- A reduction to every lane of vd through TREE64, with given flags. -/
def TreeForm (i : VReg → VReg → KReg → La → Instr) (id : Lane) (f : List Lane → Lane × FFlags) : Prop :=
  ∀ rd ra k la, VecForm (i rd ra k la) (useVec (RegSet.ofV rd) [ra] [] [k] la) 0 14
    (fun c w => w.flags = (f (redLanes (c.kr k) (c.vr ra) id)).2
      ∧ VOnly rd w (fun x => ∀ j, j < 64 → VWord.lane x j = (f (redLanes (c.kr k) (c.vr ra) id)).1))

/-- `r` holds the candidates `l` in rank order, the lower lane first among equal keys (R66, R167). -/
def Ranked (max : Bool) (l r : List Cand) : Prop :=
  r.Perm l ∧ r.Pairwise (fun x y => x.before max y = true ∨ (y.before max x = false ∧ x.lane < y.lane))

/-- A register pair holds ranked keys and companions, with the fill of R167. -/
def PairHolds (r : List Cand) (x y : VWord) : Prop :=
  ∀ j, j < 64 →
    (∀ c, r[j]? = some c → VWord.lane x j = (if (toFp c.key).isNan then 0x7FC00000 else c.key) ∧ VWord.lane y j = c.comp)
    ∧ (r.length ≤ j → VWord.lane x j = 0x7FC00000 ∧ VWord.lane y j = 0xFFFFFFFF)

/-- The sum by TREE64 of the keys of some candidates at their lanes, -0 elsewhere (R74). -/
def sumOf (l : List Cand) : Lane × FFlags :=
  treeSum ((rangeFrom 0 64).map (fun i => match l.find? (fun c => c.lane == i) with | some c => c.key | none => 0x80000000))

/-- A selection of the best `n` candidates: the ranked pair, and in vb the sums of the selected and of the rest with the count (R74, R169). -/
def Selects (rd : VPair) (rb : VReg) (max : Bool) (n : Nat) (l : List Cand) (w : Writes) : Prop :=
  ∃ r x y z, Ranked max l r ∧ w.g = [] ∧ w.k = [] ∧ w.v = [(2 * rd.val, x), (2 * rd.val + 1, y), (rb.val, z)] ∧ PairHolds (r.take n) x y
    ∧ VWord.lane z 0 = (sumOf (r.take n)).1 ∧ VWord.lane z 1 = (sumOf (r.drop n)).1 ∧ VWord.lane z 2 = BitVec.ofNat 32 (r.take n).length
    ∧ (∀ j, 3 ≤ j → j < 64 → VWord.lane z j = 0) ∧ w.flags = (sumOf (r.take n)).2 ||| (sumOf (r.drop n)).2

/-- The candidates of the active lanes of a key register (R167). -/
def candsOf (m : Word) (x : VWord) (comp : Nat → Lane) : List Cand := (activeLanes m).map (fun i => ⟨i, VWord.lane x i, comp i⟩)

/-- Elements lo to lo + n - 1 of w bits are given, every other bit is kept. -/
def PartIs (w lo n : Nat) (old : VWord) (f : Nat → Nat) (x : VWord) : Prop :=
  (∀ j, j < n → bits x.toNat (w * (lo + j)) w = f j % 2 ^ w) ∧ ∀ b, (b < w * lo ∨ w * (lo + n) ≤ b) → x.getLsbD b = old.getLsbD b

/-- A narrowing conversion of n lanes into part p of vd. -/
def Narrows (rd : VReg) (w p n : Nat) (old : VWord) (f : Nat → Nat × FFlags) (r : Writes) : Prop :=
  VOnly rd r (PartIs w (n * p) n old (fun j => (f j).1)) ∧ FlagsOf r n (fun _ => True) (fun j => (f j).2)

/-- A widening conversion of part p of va. -/
def Widens (rd : VReg) (a : VWord) (w p : Nat) (f : Nat → Lane) (r : Writes) : Prop :=
  r.flags = 0 ∧ VOnly rd r (fun x => ∀ i, i < 64 → VWord.lane x i = f (bits a.toNat (w * (64 * p + i)) w))

/-- The results of each VCVT code (R164, R67, R68). -/
def CvtIs (rd ra : VReg) (p : Nat) (m : Word) (rm : Rm) (code : Nat) (c : Ctx) (r : Writes) : Prop :=
  let a := c.vr ra
  let old := c.vr rd
  let two (j : Nat) : Lane := if j < 64 then VWord.lane a j else VWord.lane (c.vr (ra.val + 1)) (j - 64)
  match code with
  | 0 => Narrows rd 16 p 64 old (fun j => narrow bf16 rm (VWord.lane a j)) r
  | 1 => Narrows rd 16 p 64 old (fun j => narrow fp16 rm (VWord.lane a j)) r
  | 2 => Narrows rd 8 p 64 old (fun j => narrow e4m3 rm (VWord.lane a j)) r
  | 3 => Narrows rd 8 p 64 old (fun j => narrow e5m2 rm (VWord.lane a j)) r
  | 4 => Narrows rd 4 p 128 old (fun j => narrow e2m1 rm (two j)) r
  | 5 => Narrows rd 8 p 64 old (fun j => narrowSat e4m3 rm (VWord.lane a j)) r
  | 6 => Narrows rd 8 p 64 old (fun j => narrowSat e5m2 rm (VWord.lane a j)) r
  | 7 => Narrows rd 4 p 128 old (fun j => narrowSat e2m1 rm (two j)) r
  | 8 => Widens rd a 16 p (widen bf16) r
  | 9 => Widens rd a 16 p (widen fp16) r
  | 10 => Widens rd a 8 p (widen e4m3) r
  | 11 => Widens rd a 8 p (widen e5m2) r
  | 12 => r.flags = 0 ∧ r.g = [] ∧ r.k = [] ∧ ∃ x y, r.v = [(rd.val, x), (rd.val + 1, y)]
      ∧ ∀ i, i < 64 → VWord.lane x i = widen e2m1 (bits a.toNat (4 * (128 * p + i)) 4) ∧ VWord.lane y i = widen e2m1 (bits a.toNat (4 * (128 * p + 64 + i)) 4)
  | 13 => LanesAre rd m old (fun j => intToF32 rm (VWord.lane a j).toInt) r
  | 14 => LanesAre rd m old (fun j => (BitVec.ofInt 32 (f32ToInt rm (-(2 ^ 31)) (2 ^ 31 - 1) (VWord.lane a j)).1, (f32ToInt rm (-(2 ^ 31)) (2 ^ 31 - 1) (VWord.lane a j)).2)) r
  | 15 => Widens rd a 8 p (fun x => (intToF32 .rne (signedOf 8 x)).1) r
  | 16 => Widens rd a 8 p (fun x => (intToF32 .rne x).1) r
  | 17 => Narrows rd 8 p 64 old (fun j => (wrapInt 8 (f32ToInt rm (-128) 127 (VWord.lane a j)).1, (f32ToInt rm (-128) 127 (VWord.lane a j)).2)) r
  | 18 => Narrows rd 8 p 64 old (fun j => (wrapInt 8 (f32ToInt rm 0 255 (VWord.lane a j)).1, (f32ToInt rm 0 255 (VWord.lane a j)).2)) r
  | _ => False

/-! ## Engine and matrix commands (R173-R190, R249-R252, R395) -/

/-- The generation that the next command of an entry has (R395). -/
def State.nextGen (s : State) (h : Nat) : Nat := (((s.core s.cur.core).handle h).gen + 1) % 256

/-- A command `i` of the acting thread has taken handle-table entry `h`: the command stands under the next number with its address and stage, the entry is PENDING with the next generation, and rd holds the handle, marked pending. -/
def State.commands (s t : State) (i : Instr) (rd : Nat) (a : Word) (st : Stage) (h : Nat) : Prop :=
  (∃ m, SMap.find t.cmds s.next = some m ∧ m.instr = i ∧ m.ra = a ∧ m.stage = st ∧ m.core = s.cur.core ∧ m.ctx = s.cur.id ∧ m.epc = (s.ctx s.cur).pc
    ∧ m.hidx = h ∧ m.env = s.env s.cur.core)
  ∧ (t.core s.cur.core).handle h = { (s.core s.cur.core).handle h with epc := (s.ctx s.cur).pc, gen := s.nextGen h, st := .pending, holder := s.cur.id }
  ∧ (∀ j, j ≠ h → (t.core s.cur.core).handle j = (s.core s.cur.core).handle j)
  ∧ (rd ≠ 0 → t.reg rd = handleWord s.cur.core (s.nextGen h) h ∧ (t.ctx s.cur).hpend.toNat.testBit rd = true)
  ∧ t.next = s.next + 1

/-- The matrix commands that wait in the acting thread's slot. -/
def State.mwaiting (s : State) : Nat := (s.inSlot (s.core s.cur.core).mq s.cur.core (s.slotOf s.cur)).length

/-- A matrix command: with room in its slot and a handle-table entry it is queued behind the core's others; without either the thread keeps its position (R173, R177). `q` says what is taken or given up at issue. -/
def MatrixForm (i : Instr) (u : Use) (g : State → Prop) (rh : GReg) (a : State → Word) (q : State → State → Prop) : Prop :=
  (∀ h, Effects i u (fun s => g s ∧ s.mwaiting < 2 ∧ (s.core s.cur.core).freeHandle = some h) [rh.val]
    (fun s t => s.commands t i rh.val (a s) .queued h ∧ (t.core s.cur.core).mq = (s.core s.cur.core).mq ++ [s.next]
      ∧ (t.core s.cur.core).tiles = (s.core s.cur.core).tiles ∧ q s t))
  ∧ Stays i u (fun s => g s ∧ 2 ≤ s.mwaiting) id .memory .hazard
  ∧ Stays i u (fun s => g s ∧ s.mwaiting < 2 ∧ (s.core s.cur.core).freeHandle = none) id .memory .handle

/-- Nothing is taken or given up at issue. -/
def holdersKept (s t : State) : Prop := (t.core s.cur.core).holders = (s.core s.cur.core).holders

/-- The image at an address passes the checks of R176. -/
def State.image (s : State) (p : Perm) (a : Word) (n : Nat) : Prop := s.allows p [(a, n)] ∧ s.imageFirstOutside s.cur.core a n = none

/-- The image address of a register: bits [3:0] ignored. -/
def State.imageAt (s : State) (ra : GReg) : Word := s.reg ra &&& ~~~ 15

/-- The acting thread holds a z tile that twin mode does not shadow (R172, R180). -/
def State.mine (s : State) (tile : Nat) : Prop :=
  (s.core s.cur.core).holds s.cur.id tile = true ∧ (s.core s.cur.core).shadowed tile = false

/-- The acting thread may use a y tile: it is unshadowed, and free or held by the thread (R172, R186). -/
def State.mayTake (s : State) (tile : Nat) : Prop :=
  (s.core s.cur.core).shadowed tile = false ∧ ∀ x up, SMap.find (s.core s.cur.core).holders tile = some (x, up) → x = s.cur.id

/-- The thread holds the tile after the instruction, every other tile's holder as before. -/
def State.takes (s t : State) (tile : Nat) : Prop :=
  SMap.find (t.core s.cur.core).holders tile = some (s.cur.id, false)
  ∧ ∀ j, j ≠ tile → SMap.find (t.core s.cur.core).holders j = SMap.find (s.core s.cur.core).holders j

/-- A command with a parameter block (R249, R250 steps 1-3): with its block in the core's scratchpad and readable, a read of the block's 64 bytes is issued and the thread is held until the remaining checks; else BAD_OWNER or the failing check's fault. -/
def BlockForm (i : Instr) (u : Use) (rd ra : GReg) : Prop :=
  (let a (s : State) : Word := s.reg ra &&& ~~~ 63
   let free (s : State) : Prop := ∀ n, (s.ctx s.cur).busy ≠ .block n
   Effects i u (fun s => free s ∧ s.inPad s.cur.core (a s) 64 = true ∧ s.allows permR [(a s, 64)]) []
     (fun s t => (∃ m, SMap.find t.cmds s.next = some m ∧ m.instr = i ∧ m.ra = a s ∧ m.rd = rd.val ∧ m.stage = .block ∧ m.core = s.cur.core
         ∧ m.ctx = s.cur.id ∧ m.epc = (s.ctx s.cur).pc)
       ∧ t.ctx s.cur = { s.ctx s.cur with busy := .block s.next, iq := (t.ctx s.cur).iq, tb := (t.ctx s.cur).tb }
       ∧ (∃ x, (t.ctx s.cur).iq = (s.ctx s.cur).iq ++ [x] ∧ x.dest = .block s.next ∧ x.load = true ∧ 0 < x.left)
       ∧ t.mayIssue s.cur = false)
   ∧ Faults i u (fun s => free s ∧ s.inPad s.cur.core (a s) 64 = false) cBAD_OWNER 0 a
   ∧ ∀ code va, Faults i u (fun s => free s ∧ s.inPad s.cur.core (a s) 64 = true ∧ s.checkAccess s.cur.core permR [(a s, 64)] = some (code, va)) code 0 (fun _ => va))

/-- The entry and the probes that an instruction of the message class adds behind every other; TB(t) notes the probes, so that the echo of an older one leaves their bank groups standing (R221). -/
def SendsBehind (s t : State) (kind : EKind) (cls : Cls) (tgt : Nat) (pay : List Word) : Prop :=
  ∃ pr e, t.ents = s.ents ++ (pr ++ [e]) ∧ (∀ p ∈ pr, p.kind = .probe ∧ p.src = .thr s.cur ∧ p.phase = .egress) ∧ pr.map Entry.tgt = (s.ctx s.cur).touched
    ∧ e.kind = kind ∧ e.cls = cls ∧ e.phase = .egress ∧ e.src = .thr s.cur ∧ e.port = s.cur.port ∧ e.tgt = tgt ∧ e.after = pr.map Entry.id
    ∧ e.epc = (s.ctx s.cur).pc ∧ e.pay = pay ∧ ∀ p ∈ pr, ∃ n, (p.tgt, n) ∈ (t.ctx s.cur).tb ∧ p.id ≤ n

/-! ## Moves of the ordering machine (R209-R221) -/

/-- The entry left its place and stands behind all others, as given. -/
def State.entryMoved (s t : State) (e : Entry) : Prop := t.ents = s.ents.filter (fun x => x.id != e.id) ++ [e]

/-- The entry is gone and no other changed. -/
def State.entryGone (s t : State) (id : Nat) : Prop := t.ents = s.ents.filter (fun x => x.id != id)

/-- The entry stands where it stood, as given. -/
def State.entryStays (s t : State) (e : Entry) : Prop := t.ents = s.ents.map (fun x => if x.id = e.id then e else x)

/-- An entry with one more refusal: it waits for max(1, RNRBASE × 2^min(refusals before, SHIFT)) cycles (R282). -/
def State.refused (s : State) (e : Entry) : Entry :=
  { e with refused := false, tries := e.tries + 1, due := s.time.toNat + Nat.max 1 (e.env.rnrbase * 2 ^ Nat.min e.tries e.env.shift) }

/-- Data bytes, full bits and flag words outside those named are as before. -/
def State.dataKept (s t : State) (mem full flags : Nat → Prop) : Prop :=
  (∀ l, ¬ mem l → SMap.get Memory.unlisted t.mem l = SMap.get Memory.unlisted s.mem l)
  ∧ (∀ l, ¬ full (l / 16) → t.isFull l = s.isFull l) ∧ (∀ l, ¬ flags (l / 8) → t.flag l = s.flag l)

/-- The engine of command `c` has sent the pieces of one step behind all other entries, of the kind that `kind` gives their bytes, and counts them (R227). -/
def SendsPieces (s t : State) (c : Cmd) (kind : EByte → EKind) (l : List EByte) : Prop :=
  ∃ es, t.ents = s.ents ++ es ∧ (∀ e ∈ es, e.cls = .engine ∧ e.phase = .egress ∧ e.src = .cmd c.id ∧ e.env = c.env ∧ ∀ b ∈ e.bytes, e.kind = kind b)
    ∧ (es.flatMap Entry.bytes).Perm (s.located c.core l)
    ∧ ∃ m, SMap.find t.cmds c.id = some m ∧ m.out = es.length ∧ m.line = c.line + 1 ∧ m.stage = c.stage

/-- SET of a flag word became 1 by entry `e`, `w` the word before (R246, R247): its waiting FWAITs wake in the order they began to wait, up to the first that clears SET, which leaves SET at 0; those behind it wait on. -/
def State.wakes (s t : State) (e : Entry) (l : Nat) (w : Word) : Prop :=
  let waits (x : Entry) : Prop := x ∈ s.ents ∧ x.waitsAt l = true
  ((∀ x, waits x → x.kind ≠ .fwait true) → t.flag l = w ||| 1) ∧ ((∃ x, waits x ∧ x.kind = .fwait true) → t.flag l = w &&& ~~~ 1)
  ∧ (∀ x, waits x → x.id ≠ e.id → (∀ y, waits y → y ≠ x → y.due ≤ x.due → y.kind ≠ .fwait true) → ∃ z ∈ t.ents, z.id = x.id ∧ z.phase = .reply)
  ∧ (∀ x, waits x → x.id ≠ e.id → (∀ y ∈ s.ents, y.id = x.id → y = x) → (∃ y, waits y ∧ y.kind = .fwait true ∧ y.due < x.due) → x ∈ t.ents)
  ∧ s.dataKept t (fun _ => False) (fun _ => False) (· = l / 8)

/-- The engine of command `c` has sent one doubleword to its core's memory: entries of its class behind all others, and nothing in memory yet (R227). -/
def WordSent (s t : State) (c : Cmd) (l : List Entry) (a : Word) (x : Nat) : Prop :=
  t.ents = s.ents ++ l ∧ s.memoryKept t ∧ (∀ e ∈ l, e.kind = .engWrite ∧ e.cls = .engine ∧ e.phase = .egress ∧ e.src = .cmd c.id ∧ e.env = c.env)
  ∧ (l.flatMap Entry.bytes).Perm (s.located c.core (contiguous a 0 8 (leBytes 8 x)))

/-- None. -/
def noneOf : Nat → Prop := fun _ => False

end Sys2Proof.Machine
end

