-- ==== Sys2Proof/Certificates/Slice0/Obligations.lean ====
section
/-! DEFINITION. The statements about the model that the provers prove. Each is a claim about the machine, for every state and every operand that its hypotheses admit. -/

open Sys2Proof

open Sys2Proof.Machine

/-! ## Scalar instructions -/

/-- R97-R99, R101: the result of every additive, logical, shift, comparison, extremum and multiply form, for every register, g0 among them. -/
def Obligations.IntegerResults : Prop :=
  FormRRR .add (fun a b => a + b) ∧ FormRRR .sub (fun a b => a - b)
  ∧ FormRRR .addw (fun a b => sextOf 32 (a + b)) ∧ FormRRR .subw (fun a b => sextOf 32 (a - b))
  ∧ FormRRR .and (fun a b => a &&& b) ∧ FormRRR .or (fun a b => a ||| b) ∧ FormRRR .xor (fun a b => a ^^^ b)
  ∧ FormRRR .andn (fun a b => a &&& ~~~ b) ∧ FormRRR .orn (fun a b => a ||| ~~~ b) ∧ FormRRR .xnor (fun a b => ~~~ (a ^^^ b))
  ∧ FormRRR .shadd1 (fun a b => a * 2 + b) ∧ FormRRR .shadd2 (fun a b => a * 4 + b)
  ∧ FormRRR .shadd3 (fun a b => a * 8 + b) ∧ FormRRR .shadd4 (fun a b => a * 16 + b)
  ∧ FormRRR .shl (fun a b => a <<< countOf b) ∧ FormRRR .shr (fun a b => a >>> countOf b) ∧ FormRRR .sra (fun a b => asr a (countOf b))
  ∧ FormRRR .rol (fun a b => rotl a (countOf b)) ∧ FormRRR .ror (fun a b => rotr a (countOf b))
  ∧ FormRRR .slt (fun a b => if a.toInt < b.toInt then 1 else 0) ∧ FormRRR .sltu (fun a b => if a.toNat < b.toNat then 1 else 0)
  ∧ FormRRR .seq (fun a b => if a = b then 1 else 0) ∧ FormRRR .sne (fun a b => if a = b then 0 else 1)
  ∧ FormRRR .min (fun a b => if a.toInt ≤ b.toInt then a else b) ∧ FormRRR .max (fun a b => if b.toInt ≤ a.toInt then a else b)
  ∧ FormRRR .minu (fun a b => if a.toNat ≤ b.toNat then a else b) ∧ FormRRR .maxu (fun a b => if b.toNat ≤ a.toNat then a else b)
  ∧ FormRRRd .selnz (fun d a b => if d = 0 then b else a) ∧ FormRRRd .selz (fun d a b => if d = 0 then a else b)
  ∧ FormRRR .mul (fun a b => BitVec.ofInt 64 (a.toInt * b.toInt))
  ∧ FormRRR .mulh (fun a b => BitVec.ofInt 64 (a.toInt * b.toInt / 2 ^ 64))
  ∧ FormRRR .mulhu (fun a b => BitVec.ofNat 64 (a.toNat * b.toNat / 2 ^ 64))
  ∧ FormRRR .mulw (fun a b => sextOf 32 (a * b))

/-- R103, R105-R107: the result of every unary bit form and every immediate form. R103: what CLZ, CTZ, POPC, BREV and BSWAP write, bit by bit: the run of zero bits at the top, the run at the bottom, the number of set bits, and the mirrored bits and bytes; a word of such a form with a bit of rb or of its la field set is no instruction. -/
def Obligations.UnaryImmediateAndBitForms : Prop :=
  (FormRR .clz clz64 ∧ FormRR .ctz (fun a => word (ctzFrom 64 a.toNat)) ∧ FormRR .popc (fun a => word (popCount 64 a.toNat))
  ∧ FormRR .brev brev64 ∧ FormRR .bswap bswap64
  ∧ FormRR .sextb (sextOf 8) ∧ FormRR .sexth (sextOf 16) ∧ FormRR .sextw (sextOf 32) ∧ FormRR .zextw (fun a => BitVec.ofNat 64 (a.toNat % 2 ^ 32))
  ∧ FormImm .addi (fun a i => a + i.signExtend 64) ∧ FormImm .andi (fun a i => a &&& i.setWidth 64)
  ∧ FormImm .ori (fun a i => a ||| i.setWidth 64) ∧ FormImm .xori (fun a i => a ^^^ i.setWidth 64)
  ∧ FormImm .slti (fun a i => if a.toInt < (i.signExtend 64).toInt then 1 else 0)
  ∧ FormImm .sltiu (fun a i => if a.toNat < (i.signExtend 64).toNat then 1 else 0)
  ∧ FormImm .muli (fun a i => BitVec.ofInt 64 (a.toInt * (i.signExtend 64).toInt))
  ∧ FormCount .shli (fun a c => a <<< c) ∧ FormCount .shri (fun a c => a >>> c) ∧ FormCount .srai asr ∧ FormCount .rori rotr
  ∧ ∀ rd q imm, Completes (.insh rd q imm) (useRR rd rd) always
      (fun s => s.putG rd ((s.reg rd &&& ~~~ (0xFFFF#64 <<< (16 * q.val))) ||| (imm.setWidth 64 <<< (16 * q.val)))))
  ∧ (∀ a : Word,
    ((clz64 a).toNat ≤ 64 ∧ (∀ i, 64 - (clz64 a).toNat ≤ i → a.getLsbD i = false)
      ∧ ((clz64 a).toNat < 64 → a.getLsbD (63 - (clz64 a).toNat) = true))
    ∧ (ctzFrom 64 a.toNat ≤ 64 ∧ (∀ i, i < ctzFrom 64 a.toNat → a.getLsbD i = false)
      ∧ (ctzFrom 64 a.toNat < 64 → a.getLsbD (ctzFrom 64 a.toNat) = true))
    ∧ popCount 64 a.toNat = ((rangeFrom 0 64).filter (fun i => a.getLsbD i)).length
    ∧ (∀ i, i < 64 → (brev64 a).getLsbD i = a.getLsbD (63 - i))
    ∧ (∀ i j, i < 8 → j < 8 → (bswap64 a).getLsbD (8 * i + j) = a.getLsbD (8 * (7 - i) + j)))
  ∧ ∀ w : Lane, bits w.toNat 26 6 = 4 → 0x30 ≤ bits w.toNat 0 7 → bits w.toNat 0 7 ≤ 0x38 → bits w.toNat 7 9 ≠ 0 → ∃ r, decode w = .error r

/-- R102, R116, R436: the divides and the square root complete at issue with rd pending, and their results are on their way: a zero divisor gives all ones or the dividend, the most negative number by minus one wraps, and the result is due 40 or 30 cycles after issue. That the flags of an FDIV or FSQRT into g0 accrue at issue is the model's reading (DEDUCED, log 56). -/
def Obligations.LongScalarForms : Prop :=
  FormLong .div 40 (fun a b => (if b = 0 then 0xFFFFFFFFFFFFFFFF else
      if a = 0x8000000000000000 ∧ b = 0xFFFFFFFFFFFFFFFF then 0x8000000000000000 else BitVec.ofInt 64 (a.toInt.tdiv b.toInt), 0))
  ∧ FormLong .rem 40 (fun a b => (if b = 0 then a else
      if a = 0x8000000000000000 ∧ b = 0xFFFFFFFFFFFFFFFF then 0 else BitVec.ofInt 64 (a.toInt - a.toInt.tdiv b.toInt * b.toInt), 0))
  ∧ FormLong .divu 40 (fun a b => (if b = 0 then 0xFFFFFFFFFFFFFFFF else BitVec.ofNat 64 (a.toNat / b.toNat), 0))
  ∧ FormLong .remu 40 (fun a b => (if b = 0 then a else BitVec.ofNat 64 (a.toNat % b.toNat), 0))
  ∧ (∀ rm, FormLong (fun rd ra rb la => .fdiv rd ra rb la rm) 30 (fun a b => ((fdiv32 rm (f32 a) (f32 b)).1.setWidth 64, (fdiv32 rm (f32 a) (f32 b)).2)))
  ∧ ∀ rd ra la rm, Completes (.fsqrt rd ra la rm) ((useRRR rd ra 0).long la) always
      (fun s => s.started 30 rd ((fsqrt32 rm (f32 (s.reg ra))).1.setWidth 64) (fsqrt32 rm (f32 (s.reg ra))).2)

/-- R116-R120: the result and the flags of every scalar floating-point form that is not long-latency. -/
def Obligations.FloatResults : Prop :=
  (∀ rm, FormF2 (fun rd ra rb => .fadd rd ra rb rm) (fadd32 rm)) ∧ (∀ rm, FormF2 (fun rd ra rb => .fsub rd ra rb rm) (fsub32 rm))
  ∧ (∀ rm, FormF2 (fun rd ra rb => .fmul rd ra rb rm) (fmul32 rm))
  ∧ (∀ rd ra rb rm, Completes (.fmac rd ra rb rm) (useRRRd rd ra rb) always (fun s =>
      s.putF rd ((fma32 rm (f32 (s.reg ra)) (f32 (s.reg rb)) (f32 (s.reg rd))).1.setWidth 64) (fma32 rm (f32 (s.reg ra)) (f32 (s.reg rb)) (f32 (s.reg rd))).2))
  ∧ FormF2 .fmin (fun a b => (fmin32 a b, 0)) ∧ FormF2 .fmax (fun a b => (fmax32 a b, 0))
  ∧ FormF1 .fabs (fun a => ((if (toFp (f32 a)).isNan then 0x7FC00000 else f32 a &&& 0x7FFFFFFF).setWidth 64, 0))
  ∧ FormF1 .fneg (fun a => ((if (toFp (f32 a)).isNan then 0x7FC00000 else f32 a ^^^ 0x80000000).setWidth 64, 0))
  ∧ FormFc .feq (fun a b => (feq32 a b, 0)) ∧ FormFc .flt flt32 ∧ FormFc .fle fle32
  ∧ FormF1 .fclass (fun a => (word (fclass32 (f32 a)), 0))
  ∧ (∀ rm, FormF1 (fun rd ra => .fcvtSL rd ra rm) (fun a => ((intToF32 rm a.toInt).1.setWidth 64, (intToF32 rm a.toInt).2)))
  ∧ (∀ rm, FormF1 (fun rd ra => .fcvtSLU rd ra rm) (fun a => ((intToF32 rm a.toNat).1.setWidth 64, (intToF32 rm a.toNat).2)))
  ∧ (∀ rm, FormF1 (fun rd ra => .fcvtLS rd ra rm) (fun a =>
      (BitVec.ofInt 64 (f32ToInt rm (-(2 ^ 63)) (2 ^ 63 - 1) (f32 a)).1, (f32ToInt rm (-(2 ^ 63)) (2 ^ 63 - 1) (f32 a)).2)))
  ∧ (∀ rm, FormF1 (fun rd ra => .fcvtLUS rd ra rm) (fun a => (BitVec.ofInt 64 (f32ToInt rm 0 (2 ^ 64 - 1) (f32 a)).1, (f32ToInt rm 0 (2 ^ 64 - 1) (f32 a)).2)))
  ∧ FormF1 .fcvtSH (fun a => ((widen fp16 (a.toNat % 2 ^ 16)).setWidth 64, 0)) ∧ FormF1 .fcvtSBF (fun a => ((widen bf16 (a.toNat % 2 ^ 16)).setWidth 64, 0))
  ∧ (∀ rm, FormF1 (fun rd ra => .fcvtHS rd ra rm) (fun a => (word (narrow fp16 rm (f32 a)).1, (narrow fp16 rm (f32 a)).2)))
  ∧ (∀ rm, FormF1 (fun rd ra => .fcvtBFS rd ra rm) (fun a => (word (narrow bf16 rm (f32 a)).1, (narrow bf16 rm (f32 a)).2)))

/-- R109, R30: a branch that is not taken completes with no effect; a taken one enters the block at H + 8 × off where the target check admits it, and has no effect where it does not. R111-R113: JAL and JALR write the link and enter their target where its check passes, and write nothing where it fails. R31, R114: a failed check is taken at the thread's next position, with the transfer's address as the saved one. JALR reads its target before the link is written; NOP changes nothing but the thread's place. -/
def Obligations.ControlTransfers : Prop :=
  (BranchForm .beq (fun a b => a = b) ∧ BranchForm .bne (fun a b => a ≠ b)
  ∧ BranchForm .blt (fun a b => a.toInt < b.toInt) ∧ BranchForm .bge (fun a b => b.toInt ≤ a.toInt)
  ∧ BranchForm .bltu (fun a b => a.toNat < b.toNat) ∧ BranchForm .bgeu (fun a b => b.toNat ≤ a.toNat))
  ∧ ((∀ rd off, Holds (.jal rd off) (useD rd) (fun s => s.admitted (s.blockTarget off.toInt)) (fun s => s.linked rd (s.blockTarget off.toInt)))
  ∧ (∀ rd off code va, Holds (.jal rd off) (useD rd) (fun s => s.target (s.blockTarget off.toInt) = .fault code va) (fun s => s.targetRefused code va))
  ∧ (∀ rd ra, Holds (.jalr rd ra) (useRR rd ra) (fun s => s.admitted (s.reg ra)) (fun s => s.linked rd (s.reg ra)))
  ∧ (∀ rd ra code va, Holds (.jalr rd ra) (useRR rd ra) (fun s => s.target (s.reg ra) = .fault code va) (fun s => s.targetRefused code va))
  ∧ (∀ (s : State) (t : Thr) (code : Nat) (va : Word), s.mayIssue t = true → (s.ctx t).enter = .refused code va → s.dueAt t (s.ctx t).pend true = none →
      (s.ctx t).pend = {} → s.attempt t = .done ((({ s with cur := t }).position t .vacant .trap).raise t ⟨code, 0, (s.ctx t).pc, va, false⟩))
  ∧ Completes .nop {} always id)

/-- The frame of every scalar instruction that writes rd at issue: no register but rd changes, no flag but those of the floating-point forms, no other thread, no system register, table, tile or queue, and no byte of memory. The frame of the long-latency scalar forms at issue: no register changes value, rd included, no flag but those of an FDIV or FSQRT to g0 (log 56), and nothing outside the thread but the results in flight. -/
def Obligations.ScalarFrames : Prop :=
  ((∀ rd ra rb, ∀ i ∈ [Instr.add rd ra rb, .sub rd ra rb, .addw rd ra rb, .subw rd ra rb, .and rd ra rb, .or rd ra rb, .xor rd ra rb, .andn rd ra rb,
      .orn rd ra rb, .xnor rd ra rb, .shl rd ra rb, .shr rd ra rb, .sra rd ra rb, .rol rd ra rb, .ror rd ra rb, .slt rd ra rb, .sltu rd ra rb,
      .seq rd ra rb, .sne rd ra rb, .min rd ra rb, .max rd ra rb, .minu rd ra rb, .maxu rd ra rb, .shadd1 rd ra rb, .shadd2 rd ra rb,
      .shadd3 rd ra rb, .shadd4 rd ra rb, .mul rd ra rb, .mulh rd ra rb, .mulhu rd ra rb, .mulw rd ra rb], FrameG i (useRRR rd ra rb) rd true)
  ∧ (∀ rd ra rb, ∀ i ∈ [Instr.selnz rd ra rb, .selz rd ra rb], FrameG i (useRRRd rd ra rb) rd true)
  ∧ (∀ rd ra, ∀ i ∈ [Instr.clz rd ra, .ctz rd ra, .popc rd ra, .brev rd ra, .bswap rd ra, .sextb rd ra, .sexth rd ra, .sextw rd ra, .zextw rd ra],
      FrameG i (useRR rd ra) rd true)
  ∧ (∀ rd ra imm, ∀ i ∈ [Instr.addi rd ra imm, .andi rd ra imm, .ori rd ra imm, .xori rd ra imm, .slti rd ra imm, .sltiu rd ra imm, .muli rd ra imm],
      FrameG i (useRR rd ra) rd true)
  ∧ (∀ rd ra c, ∀ i ∈ [Instr.shli rd ra c, .shri rd ra c, .srai rd ra c, .rori rd ra c], FrameG i (useRR rd ra) rd true)
  ∧ (∀ rd q imm, FrameG (.insh rd q imm) (useRR rd rd) rd true)
  ∧ (∀ rd ra rb rm, ∀ i ∈ [Instr.fadd rd ra rb rm, .fsub rd ra rb rm, .fmul rd ra rb rm], FrameG i (useRRR rd ra rb) rd false)
  ∧ (∀ rd ra rb rm, FrameG (.fmac rd ra rb rm) (useRRRd rd ra rb) rd false)
  ∧ (∀ rd ra rb, ∀ i ∈ [Instr.fmin rd ra rb, .fmax rd ra rb, .feq rd ra rb], FrameG i (useRRR rd ra rb) rd true)
  ∧ (∀ rd ra rb, ∀ i ∈ [Instr.flt rd ra rb, .fle rd ra rb], FrameG i (useRRR rd ra rb) rd false)
  ∧ (∀ rd ra, ∀ i ∈ [Instr.fabs rd ra, .fneg rd ra, .fclass rd ra, .fcvtSH rd ra, .fcvtSBF rd ra], FrameG i (useRR rd ra) rd true)
  ∧ (∀ rd ra rm, ∀ i ∈ [Instr.fcvtSL rd ra rm, .fcvtSLU rd ra rm, .fcvtLS rd ra rm, .fcvtLUS rd ra rm, .fcvtHS rd ra rm, .fcvtBFS rd ra rm],
      FrameG i (useRR rd ra) rd false))
  ∧ (∀ rd ra rb la, ∀ i ∈ [Instr.div rd ra rb la, .divu rd ra rb la, .rem rd ra rb la, .remu rd ra rb la], FrameLong i ((useRRR rd ra rb).long la) rd true)
  ∧ (∀ rd ra rb la rm, FrameLong (.fdiv rd ra rb la rm) ((useRRR rd ra rb).long la) rd (decide (rd.val ≠ 0)))
  ∧ ∀ rd ra la rm, FrameLong (.fsqrt rd ra la rm) ((useRRR rd ra 0).long la) rd (decide (rd.val ≠ 0))

/-- R77, R79: g0 reads 0 and k0 all ones whatever was written; a write of g0 or k0 changes nothing, a write of another g, k or v register is what it reads as next, and leaves every other register as it was. -/
def Obligations.ConstantRegisters : Prop :=
  ∀ (c : Ctx) (x : Word) (y : VWord) (r q : Nat),
    c.gr 0 = 0 ∧ c.kr 0 = 0xFFFFFFFFFFFFFFFF ∧ c.setG 0 x = c ∧ c.setK 0 x = c
    ∧ (r ≠ 0 → (c.setG r x).gr r = x) ∧ (q ≠ r → (c.setG r x).gr q = c.gr q)
    ∧ (r ≠ 0 → (c.setK r x).kr r = x) ∧ (q ≠ r → (c.setK r x).kr q = c.kr q)
    ∧ (c.setV r y).vr r = y ∧ (q ≠ r → (c.setV r y).vr q = c.vr q)

/-! ## Traps and system registers -/

/-- R143-R144: a thread that enters a trap at a handler whose header is admitted holds the cause with its old mode in PMODE, the saved program counter and the datum; it is in supervisor mode at s.tvec, its open windows are suspended when it came from user mode and dropped when it did not, and no general register, flag, other thread or byte of memory changes. R143, R150, R151: a trap that waited for its thread's pending bits is entered once none is awaited: with its own cause, or, where a bit marked failed ended the wait, with that of the deferred fault in its place; the fault of a store replaces none. That a failed bit holds the entry back no longer is the model's reading (DEDUCED, log 24). -/
def Obligations.TrapEntry : Prop :=
  (∀ (s s' : State) (n i : Nat) (tr : Trap) (b : Block),
    s.checkTarget n (s.core n).tvec (fun k => k == 1) = .ok s' b → b.kind = 1 → b.len ≠ 0 → tr.code < 256 → tr.sub < 16 →
    let c := s.ctx (.ctx n i)
    let d := (s.enterTrap n i tr).ctx (.ctx n i)
    d.cause.toNat = tr.code + 2 ^ 8 * tr.sub + (if c.sup then 2 ^ 16 else 0) ∧ d.epc = tr.epc ∧ d.vaddr = tr.vaddr ∧ d.sup = true
      ∧ d.pc = (s.core n).tvec ∧ d.windows = [] ∧ d.susp = (if c.sup then c.susp else c.windows) ∧ d.suspBlk = (if c.sup then c.suspBlk else c.blk.hdr)
      ∧ (∀ r, d.gr r = c.gr r) ∧ (∀ r, d.vr r = c.vr r) ∧ (∀ r, d.kr r = c.kr r) ∧ d.fflags = c.fflags ∧ d.prio = c.prio
      ∧ (∀ t, t ≠ .ctx n i → (s.enterTrap n i tr).ctx t = s.ctx t) ∧ s.memoryKept (s.enterTrap n i tr))
  ∧ (∀ (s : State) (tr : Trap), let t := Thr.ctx s.sel.a s.sel.b
    (s.ctx t).trap = some tr → (s.ctx t).st = .bound →
    ((s.ctx t).awaited.empty = true → (∀ f ∈ (s.ctx t).fails, f.dest = none) ∨ tr.late = true → exec .trapEntry s = .next (s.enterTrap s.sel.a s.sel.b tr))
    ∧ (∀ f, (s.ctx t).awaited.empty = true → tr.late = false → (s.ctx t).fails = [f] → f.dest ≠ none →
        exec .trapEntry s = .next ((s.setCtx t { s.ctx t with pend := (s.ctx t).pend.minus (f.dest.getD {}), fails := [] }).enterTrap s.sel.a s.sel.b
          ⟨if f.ecc then cECC_UNCORR else cRNR_LIMIT, 0, f.epc, f.vaddr, true⟩))
    ∧ ((s.ctx t).awaited.empty = false → exec .trapEntry s = .next s))

/-- R146, R148, R144, R38: ERET in supervisor mode, with s.epc at a header or a word of a block that PMODE's mode may return to, goes there in that mode; at the word behind a block's last it falls through to the next header. A return to user mode resumes the suspended windows at a word of the block in which they stand, and closes them elsewhere; one to supervisor mode leaves none open and keeps the suspended set; the handler's own windows close with its block. Where s.epc is no such place ERET raises BAD_TARGET, and where the lines it looks at are still on their way it keeps its position: that such a position counts as a wait for memory, with no retry counted, is the model's choice (DESIGN CHOICE, log 53). -/
def Obligations.EretReturns : Prop :=
  (∀ s s' : State, ∀ b, s.clear { priv := true, all := true } = true → s.returnTo = .header s' b →
      exec .eret s = .next ((s'.setCtx s.cur ((s.ctx s.cur).returned (s.ctx s.cur).epc b .admitted)).position s.cur .issued .none))
  ∧ (∀ s s' : State, ∀ b j, s.clear { priv := true, all := true } = true → s.returnTo = .inside s' b j → j < b.len →
      exec .eret s = .next ((s'.setCtx s.cur ((s.ctx s.cur).returned (s.ctx s.cur).epc b .none)).position s.cur .issued .none))
  ∧ (∀ s s' : State, ∀ b j, s.clear { priv := true, all := true } = true → s.returnTo = .inside s' b j → ¬ j < b.len →
      exec .eret s = .next ((s'.setCtx s.cur ((s.ctx s.cur).returned b.next b .fall)).position s.cur .issued .none))
  ∧ (∀ s s' : State, s.clear { priv := true, all := true } = true → s.returnTo = .wait s' → exec .eret s = .next (s'.position s.cur .memory .none))
  ∧ Faults .eret { priv := true, all := true } (fun s => s.returnTo = .bad) cBAD_TARGET 0 (fun s => (s.ctx s.cur).epc)
  ∧ ∀ (c : Ctx) (pc : Word) (b : Block) (e : Enter),
      (c.returned pc b e).sup = (c.cause.toNat.testBit 16) ∧ (c.returned pc b e).pc = pc
      ∧ (c.cause.toNat.testBit 16 = false → (c.returned pc b e).windows = (if e = .none ∧ b.hdr = c.suspBlk then c.susp else []) ∧ (c.returned pc b e).susp = [])
      ∧ (c.cause.toNat.testBit 16 = true → (c.returned pc b e).windows = [] ∧ (c.returned pc b e).susp = c.susp)
      ∧ (∀ r, (c.returned pc b e).gr r = c.gr r) ∧ (∀ r, (c.returned pc b e).vr r = c.vr r) ∧ (∀ r, (c.returned pc b e).kr r = c.kr r)
      ∧ (c.returned pc b e).fflags = c.fflags

/-- R53, R149: BRK n raises BRK with n as datum, from any mode; R52: a word that is no instruction raises ILLEGAL with the word as datum. -/
def Obligations.BreakAndIllegal : Prop :=
  (∀ n, Faults (.brk n) {} always cBRK 0 (fun _ => n.setWidth 64))
  ∧ ∀ (s : State) (w : Lane), (s.withWord w).clear {} = true → exec .illegalWord (s.withWord w) =
      .next (((s.withWord w).position s.cur .vacant .trap).raiseAt s.cur cILLEGAL 0 (w.setWidth 64))

/-- R136, R147: a privileged instruction attempted in user mode raises PRIV with datum 0 and has no other effect: ERET, ICINV.G, SRD of a register marked S, and SWR of any register but s.fflags. R39: an instruction that names a register in the destination set of an open window raises HAZARD: scalar, load, store, vector, atomic, message and handle forms alike, sources and destinations. The class of such a position is the model's reading (DEDUCED, log 55). -/
def Obligations.PrivAndHazard : Prop :=
  (PrivIn .eret { priv := true, all := true } ∧ (∀ rd ra, PrivIn (.icinvG rd ra) { useRR rd ra with priv := true })
  ∧ (∀ rd n, 0x010 ≤ n.val → n.val ≤ 0x01B → PrivIn (.srd rd n) { useD rd with priv := true, all := false })
  ∧ ∀ ra n, n.val ≠ 0 → PrivIn (.swr ra n) { useS [ra] with priv := true })
  ∧ ((∀ rd ra rb, HazardIn (.add rd ra rb) (useRRR rd ra rb)) ∧ (∀ rd ra rb, HazardIn (.selnz rd ra rb) (useRRRd rd ra rb))
  ∧ (∀ rd ra rb la, HazardIn (.div rd ra rb la) ((useRRR rd ra rb).long la))
  ∧ (∀ ra rb off, HazardIn (.beq ra rb off) (useS [ra, rb]))
  ∧ (∀ rd ra la sz x d, HazardIn (.ld rd ra la sz x d) ((useRR rd ra).long la)) ∧ (∀ rd ra sz d, HazardIn (.st rd ra sz d) (useS [rd, ra]))
  ∧ (∀ rd ra rb k la rm, HazardIn (.vfadd rd ra rb k la rm) { src := useV [ra, rb] [] [k], dst := RegSet.ofV rd, la := some la.val })
  ∧ (∀ rd ra rb la c, HazardIn (.aaddD rd ra rb la c) { src := gset [ra, rb], dst := gset [rd], la := some la.val })
  ∧ (∀ rd ra, HazardIn (.htest rd ra) { src := gset [ra], dst := gset [rd], bare := true })
  ∧ (∀ rd ra k, HazardIn (.send rd ra k) (useS (rd.val :: groupOf ra))) ∧ (∀ rd ra o, HazardIn (.recv rd ra o) { dst := gset (rd.val :: groupOf ra) })
  ∧ (∀ rd ra p rg, HazardIn (.tstart rd ra p rg) (useS [rd, ra, rg])) ∧ (∀ rd ra, HazardIn (.migr rd ra) (useS [rd, ra]).waits)
  ∧ ∀ rd n, HazardIn (.srd rd n) { useD rd with priv := sysReadS n.val, all := n.val == 0 })

/-- R141, R142, R147, R400, R407: SRD writes the register's value to rd, and CRD a core's counter as it stood at the end of the previous cycle; a launch engine's counter comes with a reply, until which the thread issues nothing: that its value is the one at issue is the model's choice (DESIGN CHOICE, log 9). SWR changes the named register only, as its fields allow; a non-secure core's SWR of s.world raises WORLD. R141, R142, R147: what SRD gives after SWR: the defined bits of the value written, for every register that SWR may write; every other system register reads as before. -/
def Obligations.SystemRegisterAccess : Prop :=
  ((∀ rd n, Completes (.srd rd n) { useD rd with priv := sysReadS n.val, all := n.val == 0 } always (fun s => s.putG rd (s.sysReg s.cur n.val)))
  ∧ (∀ ra n, n.val ≠ 0x010 → Completes (.swr ra n) { useS [ra] with priv := n.val != 0 } always (fun s => s.setSysReg s.cur n.val (s.reg ra)))
  ∧ (∀ ra n, n.val = 0x010 → Completes (.swr ra n) { useS [ra] with priv := true } (fun s => (s.core s.cur.core).secure = true)
      (fun s => s.setSysReg s.cur 0x010 (s.reg ra)))
  ∧ (∀ ra n, n.val = 0x010 → Faults (.swr ra n) { useS [ra] with priv := true } (fun s => (s.core s.cur.core).secure = false) cWORLD 0 (fun _ => 0))
  ∧ ∀ (rd : GReg) (n : Fin 4096), Completes (.crd rd n) (useD rd) (fun _ => n.val < 0x040) (fun s => s.putG rd (SMap.get 0 s.here.ctrSeen n.val))
    ∧ Holds (.crd rd n) (useD rd) (fun _ => 0x040 ≤ n.val) (fun s => (s.answerIn s.cur rd (s.counter s.cur.core n.val)).goHeld (useD rd) .reply 0)
    ∧ ∀ (s : State) (f : Flight) (x : Word), (s.core s.sel.a).flight[s.sel.b]? = some f → s.reached f.ready = true → f.unit = 17 → (s.ctx f.thr).live = true → rd.val ≠ 0 →
        f.writes = { g := [(rd.val, x)] } → ∃ t : State, exec .resultWrite s = .next t ∧ (t.ctx f.thr).gr rd.val = x ∧ (t.ctx f.thr).busy = .none)
  ∧ (∀ (s : State) (x : Word),
    let t := s.cur
    ((s.setSysReg t 0x000 x).sysReg t 0x000 = x &&& 0x1F) ∧ ((s.setSysReg t 0x001 x).sysReg t 0x001 = x &&& 0x10FFF)
    ∧ ((s.setSysReg t 0x002 x).sysReg t 0x002 = x) ∧ ((s.setSysReg t 0x003 x).sysReg t 0x003 = x)
    ∧ ((s.setSysReg t 0x004 x).sysReg t 0x004 = x &&& 0x7F) ∧ ((s.setSysReg t 0x010 x).sysReg t 0x010 = x &&& 1)
    ∧ ((s.setSysReg t 0x011 x).sysReg t 0x011 = x &&& 0xFFFF) ∧ ((s.setSysReg t 0x012 x).sysReg t 0x012 = x &&& ~~~ 7)
    ∧ ((s.setSysReg t 0x013 x).sysReg t 0x013 = x &&& 0xFFFF) ∧ ((s.setSysReg t 0x014 x).sysReg t 0x014 = x &&& 0xFFFFF)
    ∧ ((s.setSysReg t 0x015 x).sysReg t 0x015 = x &&& 0x1FFF)
    ∧ (∀ n, 0x018 ≤ n → n ≤ 0x01B → (s.setSysReg t n x).sysReg t n = x &&& 0x83FFFFFFFFE00000)
    ∧ ∀ n m, n ∈ writableSysRegs → m ∈ sysRegs → m ≠ n → (s.setSysReg t n x).sysReg t m = s.sysReg t m)

/-! ## Loads and stores -/

/-- R121, R122, R127, R232, R241: every scalar load issues one access of its size at ga plus the scaled displacement when the checks admit it, with rd pending; a failing check raises its fault with the failing byte. R121, R122, R128, R233, R240: every scalar store issues one access that carries the low bytes of gd; ST.rel releases at its scope, and STF at .sys to a granule whose full bit it sets. -/
def Obligations.ScalarAccesses : Prop :=
  ((∀ sx, LoadForm (fun rd ra la sz d => .ld rd ra la sz sx d) { kind := .load, replies := true } sx)
  ∧ (∀ c, LoadForm (fun rd ra la sz d => .ldAcq rd ra la sz c d) { kind := .load, replies := true, acq := true } false)
  ∧ (∀ rd ra la sz clr d, GranuleForm (.lds rd ra la sz clr d) ((useRR rd ra).long la) permR (fun s => s.addr ra d (2 ^ sz.val)) (2 ^ sz.val)
      (fun s => s.issueAccess s.cur { kind := .lds clr, replies := true, acq := true } (.g rd.val (2 ^ sz.val) false)
        (contiguous (s.addr ra d (2 ^ sz.val)) 0 (2 ^ sz.val) [])))
  ∧ ∀ (rd ra : GReg) (sz : Size) (d : BitVec 7),
      Holds (.ldf rd ra sz d) (useRR rd ra).waits (fun s => s.allows permR [(s.addr ra d (2 ^ sz.val), 2 ^ sz.val)])
        (fun s => (s.issueAccess s.cur { kind := .load, replies := true } (.far rd.val (2 ^ sz.val))
          (contiguous (s.addr ra d (2 ^ sz.val)) 0 (2 ^ sz.val) [])).goHeld (useRR rd ra).waits .reply (waitWord 6 rd.val 0 sz.val 0 0))
      ∧ ∀ code va, Faults (.ldf rd ra sz d) (useRR rd ra).waits
          (fun s => s.checkAccess s.cur.core permR [(s.addr ra d (2 ^ sz.val), 2 ^ sz.val)] = some (code, va)) code 0 (fun _ => va))
  ∧ (StoreForm .st (fun _ => { kind := .store, replies := false })
  ∧ (∀ c, StoreForm (fun rd ra sz d => .stRel rd ra sz c d) (fun a => { kind := .store, replies := false, rel := relOf c a }))
  ∧ ∀ (rd ra : GReg) (sz : Size) (d : BitVec 7),
      GranuleForm (.stf rd ra sz d) (useS [rd, ra]) permW (fun s => s.addr ra d (2 ^ sz.val)) (2 ^ sz.val)
        (fun s => s.issueAccess s.cur { kind := .stf, replies := false, rel := 2 } .none
          (contiguous (s.addr ra d (2 ^ sz.val)) 0 (2 ^ sz.val) (leBytes (2 ^ sz.val) (s.reg rd).toNat))))

/-- R121, R122, R129, R131: every vector load and store issues one access of its active lanes, lane i at the address of its form; with no lane active a load leaves nothing outstanding; a VLD or VST of which an active lane's byte lies in another module than the byte at its address raises BAD_OWNER with that byte. R132, R195: of the bytes that several active lanes store at one place in memory, under whatever address, only the highest lane's is stored; each place of an active lane is stored once, and no other. -/
def Obligations.VectorAccesses : Prop :=
  ((∀ rd ra la k d, VectorLoadForm (.vld rd ra la k d) (useVLoad rd [] [ra] k la) rd k (fun s i => s.addr ra d 256 + word (4 * i)) (fun s => s.rowOutside k (s.addr ra d 256)))
  ∧ (∀ rd ra rb la k, VectorLoadForm (.vlds rd ra rb la k) (useVLoad rd [] [ra, rb] k la) rd k (fun s i => s.reg ra + word i * s.reg rb) noRow)
  ∧ (∀ rd ra rb la k, VectorLoadForm (.vldi rd ra rb la k) (useVLoad rd [rb] [ra] k la) rd k
      (fun s i => s.reg ra + 4 * (VWord.lane (s.vreg rb) i).signExtend 64) noRow)
  ∧ (∀ rd ra k d, VectorStoreForm (.vst rd ra k d) { src := useV [rd] [ra] [k] } rd k (fun s i => s.addr ra d 256 + word (4 * i))
      (fun s => s.rowOutside k (s.addr ra d 256)))
  ∧ (∀ rd ra rb k, VectorStoreForm (.vsts rd ra rb k) { src := useV [rd] [ra, rb] [k] } rd k (fun s i => s.reg ra + word i * s.reg rb) noRow)
  ∧ ∀ rd ra rb k, VectorStoreForm (.vsti rd ra rb k) { src := useV [rd, rb] [ra] [k] } rd k
      (fun s i => s.reg ra + 4 * (VWord.lane (s.vreg rb) i).signExtend 64) noRow)
  ∧ (∀ (s : State) (n : Nat) (m : Word) (addr : Nat → Word) (x : VWord),
    let l := topBytes (s.located n (laneBytes (activeLanes m) addr x))
    (∀ b ∈ l, ∃ i j, i < 64 ∧ j < 4 ∧ maskBit m i = true ∧ b.va = addr i + word j ∧ b.loc = s.vloc n b.va
      ∧ b.val = BitVec.ofNat 8 ((VWord.lane x i).toNat / 256 ^ j)
      ∧ ∀ i' j', i' < 64 → j' < 4 → maskBit m i' = true → s.vloc n (addr i' + word j') = b.loc → i' ≤ i)
    ∧ (∀ i j, i < 64 → j < 4 → maskBit m i = true → ∃ b ∈ l, b.loc = s.vloc n (addr i + word j))
    ∧ (l.map EByte.loc).Nodup)

/-- R123, R214: what an issued access adds: behind every entry there, a probe for each touched bank group before a wide release, and then one entry for each owner that its bytes touch; one access in IQ(t) that awaits as many; the touched bank groups; and no byte of memory, flag or full bit changes. The frame of the instructions that issue accesses to memory, where the checks admit the access: at issue no register changes value, nothing changes outside the thread but the entries of the ordering machine, and no byte of memory, flag or full bit changes; the bytes of a store change at PERFORM only. That a piece whose bytes lie in several bank groups of its owner is one entry, numbered by the group of its lowest byte, is the model's reading (DEDUCED, log 10). -/
def Obligations.AccessesEnterAndFrame : Prop :=
  (∀ (s : State) (t : Thr) (o : Order) (d : Dest) (l : List EByte), l ≠ [] →
    ∃ pr es a, (s.issueAccess t o d l).ents = s.ents ++ (pr ++ es)
      ∧ (∀ e ∈ pr, e.kind = .probe ∧ e.src = .thr t ∧ e.phase = .egress) ∧ pr.map Entry.tgt = (if o.rel = 2 then (s.ctx t).touched else [])
      ∧ ((s.issueAccess t o d l).ctx t).iq = (s.ctx t).iq ++ [a]
      ∧ a.dest = d ∧ a.load = o.replies ∧ a.acq = o.acq ∧ a.left = es.length ∧ a.epc = (s.ctx t).pc
      ∧ (∀ e ∈ es, e.acc = a.id ∧ e.kind = o.kind ∧ e.src = .thr t ∧ e.port = t.port ∧ e.phase = .egress ∧ e.rel = o.rel ∧ e.after = pr.map Entry.id
          ∧ e.env = s.env t.core ∧ (∃ b ∈ e.bytes, bankOf b.loc = e.tgt) ∧ ∀ b ∈ e.bytes, ∀ b' ∈ e.bytes, b.loc / 2 ^ 45 = b'.loc / 2 ^ 45)
      ∧ es.Pairwise (fun e f => ∀ b ∈ e.bytes, ∀ b' ∈ f.bytes, b.loc / 2 ^ 45 ≠ b'.loc / 2 ^ 45)
      ∧ (es.flatMap Entry.bytes).Perm (s.located t.core l)
      ∧ (∀ b, b ∈ ((s.issueAccess t o d l).ctx t).touched ↔ b ∈ (s.ctx t).touched ∨ ∃ e ∈ es, b ∈ e.banks)
      ∧ s.memoryKept (s.issueAccess t o d l))
  ∧ ((∀ (rd ra : GReg) (la : La) (sz : Size) (sx : Bool) (c : Scope) (d : BitVec 7), ∀ i ∈ [Instr.ld rd ra la sz sx d, .ldAcq rd ra la sz c d],
    Frames i ((useRR rd ra).long la) (fun s => s.allows permR [(s.addr ra d (2 ^ sz.val), 2 ^ sz.val)]) [] [] [] true Core.bare State.accessKept)
  ∧ (∀ (rd ra : GReg) (sz : Size) (c : Scope) (d : BitVec 7), ∀ i ∈ [Instr.st rd ra sz d, .stRel rd ra sz c d],
    Frames i (useS [rd, ra]) (fun s => s.allows permW [(s.addr ra d (2 ^ sz.val), 2 ^ sz.val)]) [] [] [] true Core.bare State.accessKept)
  ∧ (∀ (rd ra : GReg) (la : La) (sz : Size) (clr : Bool) (d : BitVec 7),
    let granule (s : State) (p : Perm) : Prop := (s.addr ra d (2 ^ sz.val)).toNat % 2 ^ sz.val = 0
      ∧ s.checkFull s.cur.core [(s.addr ra d (2 ^ sz.val), 2 ^ sz.val)] = none ∧ s.allows p [(s.addr ra d (2 ^ sz.val), 2 ^ sz.val)]
    Frames (.lds rd ra la sz clr d) ((useRR rd ra).long la) (fun s => granule s permR) [] [] [] true Core.bare State.accessKept
    ∧ Frames (.stf rd ra sz d) (useS [rd, ra]) (fun s => granule s permW) [] [] [] true Core.bare State.accessKept
    ∧ Frames (.ldf rd ra sz d) (useRR rd ra).waits (fun s => s.allows permR [(s.addr ra d (2 ^ sz.val), 2 ^ sz.val)]) [] [] [] true Core.bare State.accessKept)
  ∧ (∀ (rd : VReg) (ra : GReg) (k : KReg) (la : La) (d : BitVec 7), Frames (.vld rd ra la k d) (useVLoad rd [] [ra] k la)
    (fun s => s.rowOutside k (s.addr ra d 256) = none ∧ s.allows permR (laneRanges (activeLanes (s.kreg k)) (fun i => s.addr ra d 256 + word (4 * i)))) [] [] [] true Core.bare State.accessKept)
  ∧ (∀ (rd : VReg) (ra rb : GReg) (k : KReg) (la : La), let lanes (s : State) := laneRanges (activeLanes (s.kreg k)) (fun i => s.reg ra + word i * s.reg rb)
    Frames (.vlds rd ra rb la k) (useVLoad rd [] [ra, rb] k la) (fun s => s.allows permR (lanes s)) [] [] [] true Core.bare State.accessKept
    ∧ Frames (.vsts rd ra rb k) { src := useV [rd] [ra, rb] [k] } (fun s => s.allows permW (lanes s)) [] [] [] true Core.bare State.accessKept)
  ∧ (∀ (rd : VReg) (ra : GReg) (rb : VReg) (k : KReg) (la : La),
    let lanes (s : State) := laneRanges (activeLanes (s.kreg k)) (fun i => s.reg ra + 4 * (VWord.lane (s.vreg rb) i).signExtend 64)
    Frames (.vldi rd ra rb la k) (useVLoad rd [rb] [ra] k la) (fun s => s.allows permR (lanes s)) [] [] [] true Core.bare State.accessKept
    ∧ Frames (.vsti rd ra rb k) { src := useV [rd, rb] [ra] [k] } (fun s => s.allows permW (lanes s)) [] [] [] true Core.bare State.accessKept)
  ∧ (∀ (rd : VReg) (ra : GReg) (k : KReg) (d : BitVec 7), Frames (.vst rd ra k d) { src := useV [rd] [ra] [k] }
    (fun s => s.rowOutside k (s.addr ra d 256) = none ∧ s.allows permW (laneRanges (activeLanes (s.kreg k)) (fun i => s.addr ra d 256 + word (4 * i)))) [] [] [] true Core.bare State.accessKept)
  ∧ (∀ (rd ra rb : GReg) (la : La) (c : Scope), ∀ i ∈ [Instr.aswapW rd ra rb la c, .aaddW rd ra rb la c, .aandW rd ra rb la c, .aorW rd ra rb la c,
      .axorW rd ra rb la c, .aminW rd ra rb la c, .amaxW rd ra rb la c, .aminuW rd ra rb la c, .amaxuW rd ra rb la c, .afadd rd ra rb la c],
    Frames i { src := gset [ra, rb], dst := gset [rd], la := some la.val }
      (fun s => (s.reg ra).toNat % 4 = 0 ∧ s.allows permRW [(s.reg ra, 4)]) [] [] [] true Core.bare State.accessKept)
  ∧ (∀ (rd ra rb : GReg) (la : La) (c : Scope), ∀ x ∈ [(Instr.acasW rd ra rb la c, 4), (.acasD rd ra rb la c, 8)],
    Frames x.1 { src := gset [rd, ra, rb], dst := gset [rd], la := some la.val }
      (fun s => (s.reg ra).toNat % x.2 = 0 ∧ s.allows permRW [(s.reg ra, x.2)]) [] [] [] true Core.bare State.accessKept)
  ∧ (∀ (rd : GPair) (ra : GReg) (rb : GPair) (la : La) (c : Scope), let dst := gset [2 * rd.val, 2 * rd.val + 1]
    let src := gset [ra, 2 * rb.val, 2 * rb.val + 1]
    ∀ x ∈ [(Instr.aswapQ rd ra rb la c, src), (.acasQ rd ra rb la c, src.union dst)],
    Frames x.1 { src := x.2, dst := dst, la := some la.val }
      (fun s => (s.reg ra).toNat % 16 = 0 ∧ s.allows permRW [(s.reg ra, 16)]) [] [] [] true Core.bare State.accessKept)
  ∧ ∀ (rd ra rb : GReg) (la : La) (c : Scope), ∀ i ∈ [Instr.aswapD rd ra rb la c, .aaddD rd ra rb la c, .aandD rd ra rb la c, .aorD rd ra rb la c,
      .axorD rd ra rb la c, .aminD rd ra rb la c, .amaxD rd ra rb la c, .aminuD rd ra rb la c, .amaxuD rd ra rb la c],
    Frames i { src := gset [ra, rb], dst := gset [rd], la := some la.val }
      (fun s => (s.reg ra).toNat % 8 = 0 ∧ s.allows permRW [(s.reg ra, 8)]) [] [] [] true Core.bare State.accessKept)

/-! ## Atomics, fences and flags -/

/-- R234-R238: every atomic issues one aligned access with the operation, its operand and its compare value, a release and an acquire at its scope, with its destinations pending; a misaligned address raises ATOMIC_ALIGN, and a failing check its fault. R236: the value each operation code leaves in memory: swap, sum modulo 2^(8n), and, or, exclusive or, the signed and unsigned extrema, the FP32 sum, and the operand where the old value equals the compare value. -/
def Obligations.Atomics : Prop :=
  (AtomicWD .aswapW 0 4 ∧ AtomicWD .aswapD 0 8 ∧ AtomicWD .aaddW 1 4 ∧ AtomicWD .aaddD 1 8 ∧ AtomicWD .aandW 2 4 ∧ AtomicWD .aandD 2 8
  ∧ AtomicWD .aorW 3 4 ∧ AtomicWD .aorD 3 8 ∧ AtomicWD .axorW 4 4 ∧ AtomicWD .axorD 4 8 ∧ AtomicWD .aminW 5 4 ∧ AtomicWD .aminD 5 8
  ∧ AtomicWD .amaxW 6 4 ∧ AtomicWD .amaxD 6 8 ∧ AtomicWD .aminuW 7 4 ∧ AtomicWD .aminuD 7 8 ∧ AtomicWD .amaxuW 8 4 ∧ AtomicWD .amaxuD 8 8
  ∧ AtomicWD .afadd 9 4 ∧ AtomicWD .acasW 10 4 ∧ AtomicWD .acasD 10 8 ∧ AtomicQ .aswapQ 0 ∧ AtomicQ .acasQ 10)
  ∧ (∀ n m b c : Nat, m < 2 ^ (8 * n) → b < 2 ^ (8 * n) →
    atomicNew 0 n m b c = some b ∧ atomicNew 1 n m b c = some ((m + b) % 2 ^ (8 * n))
    ∧ (∃ x, atomicNew 2 n m b c = some x ∧ ∀ i, x.testBit i = (m.testBit i && b.testBit i))
    ∧ (∃ x, atomicNew 3 n m b c = some x ∧ ∀ i, x.testBit i = (m.testBit i || b.testBit i))
    ∧ (∃ x, atomicNew 4 n m b c = some x ∧ ∀ i, x.testBit i = (m.testBit i ^^ b.testBit i))
    ∧ (∀ op, 5 ≤ op → op ≤ 8 → atomicNew op n m b c = some m ∨ atomicNew op n m b c = some b)
    ∧ (∀ x, atomicNew 5 n m b c = some x → signedOf (8 * n) x ≤ signedOf (8 * n) m ∧ signedOf (8 * n) x ≤ signedOf (8 * n) b)
    ∧ (∀ x, atomicNew 6 n m b c = some x → signedOf (8 * n) m ≤ signedOf (8 * n) x ∧ signedOf (8 * n) b ≤ signedOf (8 * n) x)
    ∧ (∀ x, atomicNew 7 n m b c = some x → x ≤ m ∧ x ≤ b) ∧ (∀ x, atomicNew 8 n m b c = some x → m ≤ x ∧ b ≤ x)
    ∧ atomicNew 9 n m b c = some (fadd32 .rne (BitVec.ofNat 32 m) (BitVec.ofNat 32 b)).1.toNat
    ∧ atomicNew 10 n m b c = if m = c then some b else none)

/-- R224, R244, R245, R398: FENCE, XFENCE and ICINV hold their thread until its egress is empty and, above .core, every touched bank group has answered its probe; then they complete, ICINV with its line gone from the cluster's cache. R398: ICINV.G, with its fence over and a handle-table entry to take, becomes a command that every cluster of the gang still has to acknowledge, its handle in rd; without an entry it keeps its position. -/
def Obligations.FencesAndInvalidation : Prop :=
  ((∀ c : Scope, FenceForm (.fence c) {} always (decide (c ≠ .core)) id)
  ∧ FenceForm .xfence {} always true id
  ∧ (∀ ra : GReg, FenceForm (.icinv ra) (useS [ra]) (fun s => s.allows permR [(s.reg ra, 1)]) true (fun s => s.invalLine (clusterOf s.cur.core) (s.reg ra)))
  ∧ (∀ (ra : GReg) code va, Faults (.icinv ra) (useS [ra]) (fun s => s.checkAccess s.cur.core permR [(s.reg ra, 1)] = some (code, va)) code 0 (fun _ => va))
  ∧ ∀ (s : State) (n : Nat) (a : Word), ∀ l ∈ (s.invalLine n a).icache, ¬ (l.cluster = n ∧ s.leaseKey l.addr = s.leaseKey (word (a.toNat / 64 * 64))))
  ∧ (∀ rd ra : GReg,
    let u : Use := { useRR rd ra with priv := true }
    let done (s : State) : Prop := s.allows permR [(s.reg ra, 1)] ∧ (s.ctx s.cur).busy ≠ .fence ∧ s.egEmpty s.cur = true ∧ (s.ctx s.cur).tb = []
    (∀ h, Effects (.icinvG rd ra) u (fun s => done s ∧ (s.core s.cur.core).freeHandle = some h) [rd.val]
      (fun s t => s.commands t (.icinvG rd ra) rd.val (s.reg ra) .begun h ∧ ∃ m, SMap.find t.cmds s.next = some m ∧ m.aux = s.gangClusters s.cur.core))
    ∧ Stays (.icinvG rd ra) u (fun s => done s ∧ (s.core s.cur.core).freeHandle = none) id .memory .handle)
  ∧ (∀ (s : State) (m : Cmd) (rd ra : GReg), SMap.find s.cmds s.sel.a = some m → m.instr = .icinvG rd ra → s.sel.b ∈ m.aux →
    ∃ t m', exec .icinvAck s = .next t ∧ SMap.find t.cmds m.id = some m' ∧ m'.aux = m.aux.filter (fun x => x != s.sel.b)
      ∧ m'.stage = (if m'.aux = [] then .resolving else m.stage) ∧ t.icache = (s.invalLine s.sel.b m.ra).icache ∧ s.memoryKept t)

/-- R246, R247: FSET, FCLR, FTST and FWAIT issue one access to flag word (ga + n) mod 1,024 of their core; FTST holds its thread until the reply, and FWAIT keeps it at its word until it wakes. R89, R247: an FWAIT that woke while its thread was parked issues again once the thread is bound, and is done without a second access: that it does not look at its flag word again is the model's reading (DEDUCED, log 16). R243: FECLR of a non-zero count issues one access to its granules, from the one that holds ga on, where each has a full/empty bit and may be written; a zero count has no effect. -/
def Obligations.FlagsAndFullBits : Prop :=
  (∀ (rd ra : GReg) (n : Fin 1024) (clr : Bool),
    let a (s : State) : Word := word (flagLoc s.cur.core (((s.reg ra).toNat + n.val) % 1024))
    let wordOf (s : State) : List EByte := contiguous (a s) 0 8 []
    Completes (.fset ra n) (useS [ra]) always (fun s => s.issueAccess s.cur { kind := .fset, replies := false, rel := 2 } .none (wordOf s))
    ∧ Completes (.fclr ra n) (useS [ra]) always (fun s => s.issueAccess s.cur { kind := .fclr, replies := false } .none (wordOf s))
    ∧ Holds (.ftst rd ra n) (useRR rd ra) always
        (fun s => (s.issueAccess s.cur { kind := .ftst, replies := true, acq := true } (.test rd.val) (wordOf s)).goHeld (useRR rd ra) .reply 0)
    ∧ Completes (.fwait ra clr n) (useS [ra]).waits (fun s => (s.ctx s.cur).busy ≠ .flag ∧ (s.ctx s.cur).woken = some (s.ctx s.cur).pc)
        (fun s => s.setCtx s.cur { s.ctx s.cur with woken := none })
    ∧ Stays (.fwait ra clr n) (useS [ra]).waits (fun s => (s.ctx s.cur).busy = .flag)
        (fun s => s.setCtx s.cur { s.ctx s.cur with wait := waitWord 7 0 (if clr then 1 else 0) 0 (((s.reg ra).toNat + n.val) % 1024) 0 }) .memory .barrier
    ∧ Holds (.fwait ra clr n) (useS [ra]).waits (fun s => (s.ctx s.cur).busy ≠ .flag ∧ (s.ctx s.cur).woken ≠ some (s.ctx s.cur).pc)
        (fun s => (s.issueAccess s.cur { kind := .fwait clr, replies := true, acq := true } .wake (wordOf s)).setCtx s.cur
          { (s.issueAccess s.cur { kind := .fwait clr, replies := true, acq := true } .wake (wordOf s)).ctx s.cur with
            busy := .flag, wait := waitWord 7 0 (if clr then 1 else 0) 0 (((s.reg ra).toNat + n.val) % 1024) 0, since := s.time }))
  ∧ (∀ rd ra : GReg,
    let a (s : State) : Word := s.reg ra &&& ~~~ 15
    let n (s : State) : Nat := (s.reg rd).toNat
    Completes (.feclr rd ra) (useS [rd, ra]) (fun s => n s = 0) id
    ∧ Completes (.feclr rd ra) (useS [rd, ra]) (fun s => n s ≠ 0 ∧ s.checkFull s.cur.core [(a s, 16 * n s)] = none ∧ s.allows permW [(a s, 16 * n s)])
        (fun s => s.issueAccess s.cur { kind := .feclr, replies := false } .none (granules (n s) (a s)))
    ∧ (∀ va, Faults (.feclr rd ra) (useS [rd, ra]) (fun s => n s ≠ 0 ∧ s.checkFull s.cur.core [(a s, 16 * n s)] = some va) cBAD_OWNER 0 (fun _ => va))
    ∧ ∀ code va, Faults (.feclr rd ra) (useS [rd, ra]) (fun s => n s ≠ 0 ∧ s.checkFull s.cur.core [(a s, 16 * n s)] = none
        ∧ s.checkAccess s.cur.core permW [(a s, 16 * n s)] = some (code, va)) code 0 (fun _ => va))

/-- R254, R259, R405: XWAIT completes once s.xdone has passed the id, modulo 2^32, and is blocked till then; EXPECT issues one access that reserves landings at an admitted flag address and holds its thread; address 0 and one that is no flag of the gang raise the fault of the check. -/
def Obligations.PushWaits : Prop :=
  (∀ (ra : GReg) (n : Fin 4),
    let past (s : State) : Prop := xwaitDone (SMap.get 0 (s.core s.cur.core).xdone n.val) ((s.reg ra).toNat % 2 ^ 32) = true
    Completes (.xwait ra n) (useS [ra]) past id
    ∧ Stays (.xwait ra n) (useS [ra]) (fun s => ¬ past s)
        (fun s => s.setCtx s.cur { s.ctx s.cur with wait := waitWord 8 0 0 n.val 0 ((s.reg ra).toNat % 2 ^ 32) }) .memory .handle)
  ∧ (∀ d t : Nat, d < 2 ^ 32 → t < 2 ^ 32 → (xwaitDone d t = true ↔ ∃ k, 1 ≤ k ∧ k ≤ 2 ^ 31 ∧ d = (t + k) % 2 ^ 32))
  ∧ ∀ (rd ra : GReg),
    let a (s : State) : Word := s.reg ra &&& ~~~ 7
    Holds (.expect rd ra) (useS [rd, ra]) (fun s => a s ≠ 0 ∧ s.checkFlagAddr s.cur.core (a s) false = none)
      (fun s => (s.issueAccess s.cur { kind := .expect (s.reg rd).toNat, replies := true, acq := true, rel := 2 } (.expect (a s)) (contiguous (a s) 0 8 [])).goHeld
        (useS [rd, ra]) .reply 0)
    ∧ Faults (.expect rd ra) (useS [rd, ra]) (fun s => a s = 0) cBAD_OWNER 0 (fun s => s.reg ra)
    ∧ ∀ code va, Faults (.expect rd ra) (useS [rd, ra]) (fun s => a s ≠ 0 ∧ s.checkFlagAddr s.cur.core (a s) false = some (code, va)) code 0
        (fun s => if code = cBAD_OWNER then s.reg ra else va)

/-! ## Vector instructions -/

/-- R158, R159, R76, R154: the lanes and flags of every floating-point vector form, the unit that runs it and the cycles to its result. R160: the elements of every integer vector form, computed exactly and kept modulo 2^w, or saturated. -/
def Obligations.VectorLaneResults : Prop :=
  ((∀ rm, VFForm (fun rd ra rb k la => .vfadd rd ra rb k la rm) 0 10 (fadd32 rm)) ∧ (∀ rm, VFForm (fun rd ra rb k la => .vfsub rd ra rb k la rm) 0 10 (fsub32 rm))
  ∧ (∀ rm, VFForm (fun rd ra rb k la => .vfmul rd ra rb k la rm) 0 10 (fmul32 rm)) ∧ (∀ rm, VFForm (fun rd ra rb k la => .vfdiv rd ra rb k la rm) 1 30 (fdiv32 rm))
  ∧ (∀ rd ra rb k la rm, VecForm (.vfma rd ra rb k la rm) (useVec (RegSet.ofV rd) [rd, ra, rb] [] [k] la) 0 10
      (fun c => LanesAre rd (c.kr k) (c.vr rd) (fun j => fma32 rm (VWord.lane (c.vr ra) j) (VWord.lane (c.vr rb) j) (VWord.lane (c.vr rd) j))))
  ∧ VFForm .vfmin 0 10 (fun a b => (fmin32 a b, 0)) ∧ VFForm .vfmax 0 10 (fun a b => (fmax32 a b, 0))
  ∧ VUForm .vfabs 0 10 (fun a => (if (toFp a).isNan then 0x7FC00000 else a &&& 0x7FFFFFFF, 0))
  ∧ VUForm .vfneg 0 10 (fun a => (if (toFp a).isNan then 0x7FC00000 else a ^^^ 0x80000000, 0))
  ∧ (∀ rm, VUForm (fun rd ra k la => .vfsqrt rd ra k la rm) 1 30 (fsqrt32 rm))
  ∧ VUForm .vrcp 1 30 frcp32 ∧ VUForm .vrsq 1 30 frsq32 ∧ VUForm .vexp2 0 14 exp2_32)
  ∧ (VIForm .vadd (fun _ a b => (a + b : Int)) ∧ VIForm .vsub (fun _ a b => (a - b : Int)) ∧ VIForm .vmul (fun _ a b => (a * b : Int))
  ∧ VIForm .vmin (fun w a b => min (signedOf w a) (signedOf w b)) ∧ VIForm .vmax (fun w a b => max (signedOf w a) (signedOf w b))
  ∧ VIForm .vminu (fun _ a b => min (a : Int) b) ∧ VIForm .vmaxu (fun _ a b => max (a : Int) b)
  ∧ VIForm .vand (fun _ a b => ((a &&& b : Nat) : Int)) ∧ VIForm .vor (fun _ a b => ((a ||| b : Nat) : Int)) ∧ VIForm .vxor (fun _ a b => ((a ^^^ b : Nat) : Int))
  ∧ VIForm .vshl (fun w a b => (a * 2 ^ (b % w) : Int)) ∧ VIForm .vshr (fun w a b => (a / 2 ^ (b % w) : Int))
  ∧ VIForm .vsra (fun w a b => signedOf w a / 2 ^ (b % w))
  ∧ VIForm .vadds (fun w a b => satInt (signedOf w a + signedOf w b) (-(2 ^ (w - 1))) (2 ^ (w - 1) - 1))
  ∧ VIForm .vsubs (fun w a b => satInt (signedOf w a - signedOf w b) (-(2 ^ (w - 1))) (2 ^ (w - 1) - 1))
  ∧ VIForm .vaddus (fun w a b => satInt (a + b) 0 (2 ^ w - 1)) ∧ VIForm .vsubus (fun w a b => satInt (a - b) 0 (2 ^ w - 1))
  ∧ ∀ (rd ra : VReg) (k : KReg) (la : La) (wd : Width), VecForm (.vabs rd ra k la wd) (useVec (RegSet.ofV rd) (maskSrc rd k [ra]) [] [k] la) 0 10
      (fun c => ElemsAre rd (widthBits wd) (c.kr k) (c.vr rd)
        (fun l j => ((signedOf (widthBits wd) (elemOf (widthBits wd) (VWord.lane (c.vr ra) l) j)).natAbs : Int))))

/-- R161-R163: VCMP writes the comparison's bits under its mask, with the flags of the active lanes; the mask forms and the moves between register files write the values their entries give. R165: the permutations: for every lane, which lane of which source it takes; lanes outside a write mask are kept, VSEL writes every lane, from va where its mask bit is 1 and from vb where it is 0, and VCOMPRESS fills with zeros. A form with a write mask other than k0 reads vd as well (R157). -/
def Obligations.MaskMoveAndPermutationResults : Prop :=
  ((∀ rd ra rb k la t q, VecForm (.vcmp rd ra rb k la t q) (useVec (RegSet.ofK rd) [ra, rb] [] [k] la) 0 10
    (fun c w => w.g = [] ∧ w.v = [] ∧ (∃ x : Word, w.k = [(rd.val, x)]
        ∧ ∀ i, i < 64 → maskBit x i = (maskBit (c.kr k) i && (cmpLane t q (VWord.lane (c.vr ra) i) (VWord.lane (c.vr rb) i)).1))
      ∧ FlagsOf w 64 (fun i => maskBit (c.kr k) i = true) (fun i => (cmpLane t q (VWord.lane (c.vr ra) i) (VWord.lane (c.vr rb) i)).2)))
  ∧ KForm .kand (fun a b => a &&& b) ∧ KForm .kor (fun a b => a ||| b) ∧ KForm .kxor (fun a b => a ^^^ b) ∧ KForm .kandn (fun a b => a &&& ~~~ b)
  ∧ (∀ (rd ra : KReg) (la : La), VecForm (.knot rd ra la) (useVec (RegSet.ofK rd) [] [] [ra, (0 : KReg)] la) 3 4
      (fun c w => w.g = [] ∧ w.v = [] ∧ w.flags = 0 ∧ w.k = [(rd.val, ~~~ c.kr ra)]))
  ∧ (∀ (rd : VReg) (ra : GReg) (la : La), VecForm (.vbcast rd ra la) (useVec (RegSet.ofV rd) [] [ra] [] la) 3 4
      (fun c w => w.flags = 0 ∧ VOnly rd w (fun x => ∀ i, i < 64 → VWord.lane x i = f32 (c.gr ra))))
  ∧ (∀ (rd : VReg) (ra rb : GReg) (la : La), VecForm (.vins rd ra rb la) (useVec (RegSet.ofV rd) [rd] [ra, rb] [] la) 3 4
      (fun c w => w.flags = 0 ∧ VOnly rd w (fun x => ∀ i, i < 64 →
        VWord.lane x i = if i = (c.gr rb).toNat % 64 then f32 (c.gr ra) else VWord.lane (c.vr rd) i)))
  ∧ (∀ (rd : GReg) (ra : VReg) (rb : GReg) (la : La), ToG (.vext rd ra rb la) rd [ra] [rb] [] la
      (fun c => (VWord.lane (c.vr ra) ((c.gr rb).toNat % 64)).setWidth 64))
  ∧ (∀ (rd : KReg) (ra : GReg) (la : La), VecForm (.kmovgk rd ra la) (useVec (RegSet.ofK rd) [] [ra] [] la) 3 4
      (fun c w => w.g = [] ∧ w.v = [] ∧ w.flags = 0 ∧ w.k = [(rd.val, c.gr ra)]))
  ∧ (∀ (rd : GReg) (ra : KReg) (la : La), ToG (.kmovkg rd ra la) rd [] [] [ra] la (fun c => c.kr ra))
  ∧ ∀ (rd : GReg) (ra : KReg) (la : La), ToG (.kpopc rd ra la) rd [] [] [ra] la (fun c => word (popCount 64 (c.kr ra).toNat)))
  ∧ ((∀ (rd ra rb : VReg) (k : KReg) (la : La),
    let u := useVec (RegSet.ofV rd) (maskSrc rd k [ra, rb]) [] [k] la
    VecForm (.vperm rd ra rb k la) u 0 10 (fun c => LanesAre rd (c.kr k) (c.vr rd) (fun i => (VWord.lane (c.vr ra) ((VWord.lane (c.vr rb) i).toNat % 64), 0)))
    ∧ VecForm (.vsel rd ra rb k la) (useVec (RegSet.ofV rd) [ra, rb] [] [k] la) 0 10 (fun c w => w.flags = 0 ∧ VOnly rd w (fun x => ∀ i, i < 64 →
        (maskBit (c.kr k) i = true → VWord.lane x i = VWord.lane (c.vr ra) i) ∧ (maskBit (c.kr k) i = false → VWord.lane x i = VWord.lane (c.vr rb) i)))
    ∧ VecForm (.vzip rd ra rb k la) u 0 10 (fun c => LanesAre rd (c.kr k) (c.vr rd)
        (fun i => (if i % 2 = 0 then VWord.lane (c.vr ra) (i / 2) else VWord.lane (c.vr rb) (i / 2), 0)))
    ∧ VecForm (.vunzip rd ra rb k la) u 0 10 (fun c => LanesAre rd (c.kr k) (c.vr rd)
        (fun i => (if i < 32 then VWord.lane (c.vr ra) (2 * i) else VWord.lane (c.vr rb) (2 * (i - 32)), 0))))
  ∧ ∀ (rd ra : VReg) (k : KReg) (la : La),
    VecForm (.vcompress rd ra k la) (useVec (RegSet.ofV rd) [ra] [] [k] la) 0 10 (fun c w => w.flags = 0 ∧ VOnly rd w (fun x =>
      (∀ i, i < 64 → maskBit (c.kr k) i = true → VWord.lane x (popCount i (c.kr k).toNat) = VWord.lane (c.vr ra) i)
      ∧ ∀ j, popCount 64 (c.kr k).toNat ≤ j → j < 64 → VWord.lane x j = 0))
    ∧ VecForm (.vexpand rd ra k la) (useVec (RegSet.ofV rd) [rd, ra] [] [k] la) 0 10
        (fun c => LanesAre rd (c.kr k) (c.vr rd) (fun i => (VWord.lane (c.vr ra) (popCount i (c.kr k).toNat), 0))))

/-- R164, R67, R68: every conversion code that the entry admits: the elements it writes, the bits it keeps and its flags. -/
def Obligations.ConversionResults : Prop :=
  ∀ (rd ra : VReg) (p : Fin 4) (k : KReg) (la : La) (rm : Rm) (q : Fin 32), wf (.vcvt rd ra p k la rm q) = true →
    VecForm (.vcvt rd ra p k la rm q)
      (useVec (useV (if q.val = 12 then [rd.val, rd.val + 1] else [rd.val]) [] [])
        ((if q.val < 8 ∨ q.val = 17 ∨ q.val = 18 ∨ ((q.val = 13 ∨ q.val = 14) ∧ k.val ≠ 0) then [rd.val] else [])
          ++ if q.val = 4 ∨ q.val = 7 then [ra.val, ra.val + 1] else [ra.val]) [] [k] la) 0 10
      (fun c => CvtIs rd ra p.val (c.kr k) rm q.val c)

/-- R166, R73: the reductions: the integer ones are the fold of the active lanes, the floating-point ones go by TREE64 with the operator's identity at the other lanes; every lane of vd gets the result. R167-R169, R74: VSORT, VSELK and VMERGEK write the ranked candidates of the active lanes, the lower lane first among equal keys, with the fill of R167; the selections write the sums and the count to vb. -/
def Obligations.ReductionsAndSorts : Prop :=
  (RedForm .vredaddi 0 (fun a b => a + b) ∧ RedForm .vredmaxi 0x80000000 (fun a b => if b.toInt ≤ a.toInt then a else b)
  ∧ RedForm .vredmini 0x7FFFFFFF (fun a b => if a.toInt ≤ b.toInt then a else b) ∧ RedForm .vredand 0xFFFFFFFF (fun a b => a &&& b)
  ∧ RedForm .vredor 0 (fun a b => a ||| b) ∧ RedForm .vredxor 0 (fun a b => a ^^^ b)
  ∧ TreeForm .vredadd 0x80000000 treeSum
  ∧ TreeForm .vredmax 0xFF800000 (fun l => ((tree64 redMax32 l).headD 0, if l.any (fun x => (toFp x).isNan) then 16 else 0))
  ∧ TreeForm .vredmin 0x7F800000 (fun l => ((tree64 redMin32 l).headD 0, if l.any (fun x => (toFp x).isNan) then 16 else 0)))
  ∧ ((∀ (rd : VPair) (ra : VReg) (k : KReg) (la : La) (x : Bool),
    VecForm (.vsort rd ra k la x) (useVec (useV [2 * rd.val, 2 * rd.val + 1] [] []) [ra] [] [k] la) 2 40
      (fun c w => ∃ r y z, Ranked (!x) (candsOf (c.kr k) (c.vr ra) (fun i => BitVec.ofNat 32 i)) r ∧ w.g = [] ∧ w.k = [] ∧ w.flags = 0
        ∧ w.v = [(2 * rd.val, y), (2 * rd.val + 1, z)] ∧ PairHolds r y z))
  ∧ (∀ (rd : VPair) (ra rb : VReg) (k : KReg) (la : La) (x : Bool),
    VecForm (.vselk rd ra rb k la x) (useVec (useV [2 * rd.val, 2 * rd.val + 1, rb.val] [] []) [ra, rb] [] [k] la) 2 40
      (fun c => Selects rd rb (!x) (min (VWord.lane (c.vr rb) 0).toNat 64) (candsOf (c.kr k) (c.vr ra) (fun i => BitVec.ofNat 32 i))))
  ∧ ∀ (rd ra : VPair) (rb : VReg) (k : KReg) (la : La) (x : Bool),
    VecForm (.vmergek rd ra rb k la x) (useVec (useV [2 * rd.val, 2 * rd.val + 1, rb.val] [] []) [2 * ra.val, 2 * ra.val + 1, rb.val] [] [k] la) 2 40
      (fun c => Selects rd rb (!x) (min (VWord.lane (c.vr rb) 0).toNat 64) (candsOf (c.kr k) (c.vr (2 * ra.val)) (VWord.lane (c.vr (2 * ra.val + 1))))))

/-- R37, R153, R154: a unit that accepts again takes the head of the queue of the first slot after the one it served last whose head wants it, and is busy for 1, 8 or 16 cycles; it does so once its core's position of the cycle has been served, so that a command issued in the cycle takes part; a result that is due writes its registers and flags and clears its pending bits, and no position of its core is served before; one with uncorrectable data is logged, and its registers stay pending; a result of a context that is gone is lost, and changes no register. That the entry behind a head may enter its own unit in the same cycle is the model's choice (DESIGN CHOICE, log 85), and that the failed result gives s.vaddr 0 (DESIGN CHOICE, log 57). -/
def Obligations.VectorUnits : Prop :=
  (∀ s : State, ∀ f : Flight,
    let n := s.sel.a
    let k := s.core n
    let unit := s.sel.b
    ((rangeFrom 1 15).map (fun i => (SMap.get 14 k.vlast unit + i) % 15)).findSome? (fun sl => ((k.vqOf sl).head?).bind (fun f => if f.unit = unit then some f else none)) = some f →
    s.reached (SMap.get 0 k.vnext unit) = true →
    (s.turn.contains n = true → exec .vectorUnitAccept s = .next s)
    ∧ (s.turn.contains n = false → exec .vectorUnitAccept s = .next (s.setCore n { k with
      vq := k.vq.erase f, flight := k.flight ++ [{ f with ready := s.time + word f.delay }], vlast := SMap.put 14 k.vlast unit f.slot,
      vnext := SMap.put 0 k.vnext unit (s.time + (if unit = 1 then 8 else if unit = 2 then 16 else 1)) })))
  ∧ (∀ s : State, ∀ f : Flight, (s.core s.sel.a).flight[s.sel.b]? = some f → s.reached f.ready = true → f.thr.core = s.sel.a →
    (∀ x, x / 2 ^ 16 ≠ 1 → x % 2 ^ 16 = s.sel.a → s.serveEarly x = .next s)
    ∧ ((s.ctx f.thr).live = false → ∃ t : State, exec .resultWrite s = .next t ∧ (∀ y, t.ctx y = s.ctx y)
        ∧ (t.core s.sel.a).flight = (s.core s.sel.a).flight.eraseIdx s.sel.b ∧ s.memoryKept t)
    ∧ (s.sel.flag = true → f.unit ≠ 17 → (s.ctx f.thr).live = true → ∃ t : State, exec .resultWrite s = .next t
        ∧ t.ctx f.thr = (s.ctx f.thr).fail (some f.dest) true f.epc 0 ∧ (t.ctx f.thr).pend = (s.ctx f.thr).pend
        ∧ (∀ r, (t.ctx f.thr).gr r = (s.ctx f.thr).gr r ∧ (t.ctx f.thr).vr r = (s.ctx f.thr).vr r ∧ (t.ctx f.thr).kr r = (s.ctx f.thr).kr r)
        ∧ t.mgmt.uncorr = s.mgmt.uncorr + 1 ∧ t.mgmt.errlog = word (2 ^ 48 * s.sel.a + 2 ^ 40 * cECC_UNCORR) ∧ s.othersKept t f.thr ∧ s.memoryKept t))
  ∧ ∀ s : State, ∀ f : Flight, (s.core s.sel.a).flight[s.sel.b]? = some f → s.reached f.ready = true → s.sel.flag = false → f.thr.core = s.sel.a →
    (s.ctx f.thr).live = true →
    ∃ t : State, exec .resultWrite s = .next t
      ∧ (t.ctx f.thr).pend = (s.ctx f.thr).pend.minus f.dest ∧ (t.ctx f.thr).fflags = (s.ctx f.thr).fflags ||| f.writes.flags
      ∧ (∀ r, r ∉ f.writes.g.map Prod.fst → (t.ctx f.thr).gr r = (s.ctx f.thr).gr r) ∧ (∀ r, r ∉ f.writes.v.map Prod.fst → (t.ctx f.thr).vr r = (s.ctx f.thr).vr r)
      ∧ (∀ r, r ∉ f.writes.k.map Prod.fst → (t.ctx f.thr).kr r = (s.ctx f.thr).kr r)
      ∧ (∀ r x, f.writes.g = [(r, x)] → r ≠ 0 → (t.ctx f.thr).gr r = x) ∧ (∀ r x, f.writes.v = [(r, x)] → (t.ctx f.thr).vr r = x)
      ∧ (∀ r x, f.writes.k = [(r, x)] → r ≠ 0 → (t.ctx f.thr).kr r = x)
      ∧ (t.core s.sel.a).flight = (s.core s.sel.a).flight.eraseIdx s.sel.b ∧ s.othersKept t f.thr ∧ s.memoryKept t

/-! ## Matrix instructions -/

/-- R83, R172, R180, R182: MCLAIM takes a z tile that is free and unshadowed and zeroes it, with its shadow in twin mode; MFREE gives a held, unshadowed tile up, and it is free at once where no command of the core names it; elsewhere each raises MATRIX_OWNER with the tile. -/
def Obligations.TileClaims : Prop :=
  ∀ z : Fin 8,
    let k (s : State) : Core := s.core s.cur.core
    Effects (.mclaim z) {} (fun s => (k s).held z.val = false ∧ (k s).shadowed z.val = false) []
      (fun s t => s.takes t z.val ∧ (∀ e, e < 1024 → SMap.get 0 (k t).tiles (1024 * z.val + e) = 0)
        ∧ ((k s).twin = true → ∀ e, e < 1024 → SMap.get 0 (k t).tiles (1024 * (z.val + 4) + e) = 0)
        ∧ (∀ e, e / 1024 ≠ z.val → ((k s).twin = true → e / 1024 ≠ z.val + 4) → SMap.get 0 (k t).tiles e = SMap.get 0 (k s).tiles e))
    ∧ Faults (.mclaim z) {} (fun s => (k s).held z.val = true ∨ (k s).shadowed z.val = true) cMATRIX_OWNER 0 (fun _ => word z.val)
    ∧ Effects (.mfree z) {} (fun s => (k s).holds s.cur.id z.val = true ∧ (k s).shadowed z.val = false) []
      (fun s t => (k t).holds s.cur.id z.val = false ∧ (k t).tiles = (k s).tiles
        ∧ ((∀ m ∈ s.matrixCmds s.cur.core, z.val ∉ tilesOf m) → (k t).held z.val = false)
        ∧ ∀ j x, j ≠ z.val → SMap.find (k s).holders j = some (x, false) → SMap.find (k t).holders j = some (x, false))
    ∧ Faults (.mfree z) {} (fun s => (k s).holds s.cur.id z.val = false ∨ (k s).shadowed z.val = true) cMATRIX_OWNER 0 (fun _ => word z.val)

/-- R173, R176, R177, R183-R189: every matrix command that its checks admit is queued with its image address and handle; RPASS asks for a next core of the same gang and world; MMA, MZERO, MDRAIN and MSCA ask for a held z tile; MMAB and MMAI take a free y tile, fresh where they take it, and MSCA gives its y tile up. R172, R176, R180, R185-R187: where a matrix instruction faults: a tile that is not held, or shadowed, or held by another raises MATRIX_OWNER with the tile, as MTWIN does with the lowest held tile of those it would shadow; an image outside the cluster's memories raises BAD_OWNER with its first byte outside. R198, R199: so does an MDRAIN whose image names a byte without a full bit, before its lease is looked at. Which byte is named for an image that starts inside a scratchpad and runs past its end is the model's choice (DESIGN CHOICE, log 69). That a full slot queue and a full handle table together give the sub-reason hazard is the model's choice (DESIGN CHOICE, log 60). -/
def Obligations.MatrixCommands : Prop :=
  ((∀ (f : Fin 16) (ra rh : GReg),
    MatrixForm (.mlda f ra rh) (useMat ra rh) (fun s => s.image permR (s.imageAt ra) (imageBytes f.val)) rh (fun s => s.imageAt ra) holdersKept
    ∧ MatrixForm (.mldb f ra rh) (useMat ra rh) (fun s => s.image permR (s.imageAt ra) (imageBytes f.val)) rh (fun s => s.imageAt ra) holdersKept)
  ∧ (∀ rh : GReg, MatrixForm (.rpass rh) (useMat 0 rh) (fun s => (s.core (ringNext s.cur.core)).gang = (s.core s.cur.core).gang
      ∧ (s.core (ringNext s.cur.core)).secure = (s.core s.cur.core).secure) rh (fun _ => 0) holdersKept)
  ∧ (∀ (z : Fin 8) (f : Fin 16) (ra rh : GReg),
    MatrixForm (.mma z f rh) (useMat 0 rh) (fun s => s.mine z.val) rh (fun _ => 0) holdersKept
    ∧ MatrixForm (.mzero z rh) (useMat 0 rh) (fun s => s.mine z.val) rh (fun _ => 0) holdersKept
    ∧ MatrixForm (.mdrain z f ra rh) (useMat ra rh) (fun s => s.mine z.val ∧ s.checkFull s.cur.core [(s.imageAt ra, 1024 * drainSize f.val)] = none ∧ s.image permW (s.imageAt ra) (1024 * drainSize f.val)) rh (fun s => s.imageAt ra) holdersKept)
  ∧ (∀ (y : Fin 2) (f : Fin 16) (ra rh : GReg),
    let fresh (s t : State) : Prop := ∃ m, SMap.find t.cmds s.next = some m ∧ m.fresh = !(s.core s.cur.core).holds s.cur.id (8 + y.val)
    MatrixForm (.mmab y f rh) (useMat 0 rh) (fun s => s.mayTake (8 + y.val)) rh (fun _ => 0) (fun s t => s.takes t (8 + y.val) ∧ fresh s t)
    ∧ MatrixForm (.mmai y f ra rh) (useMat ra rh) (fun s => s.mayTake (8 + y.val) ∧ s.image permR (s.imageAt ra) 256) rh (fun s => s.imageAt ra)
        (fun s t => s.takes t (8 + y.val) ∧ fresh s t))
  ∧ (∀ (z k : Fin 8) (y : Fin 2) (ra rh : GReg),
    MatrixForm (.msca z k y ra rh) (useMat ra rh)
      (fun s => s.mine z.val ∧ s.mine (8 + y.val) ∧ s.image permR (s.imageAt ra) (if k.val = 0 then 64 else 256)) rh (fun s => s.imageAt ra)
      (fun s t => SMap.find (t.core s.cur.core).holders (8 + y.val) = some (s.cur.id, true)
        ∧ ∀ j, j ≠ 8 + y.val → SMap.find (t.core s.cur.core).holders j = SMap.find (s.core s.cur.core).holders j))
  ∧ ∀ on : Bool,
    let clash (s : State) : Prop := on = true ∧ ∃ n ∈ [4, 5, 6, 7, 9], (s.core s.cur.core).held n = true
    Effects (.mtwin on) {} (fun s => ¬ clash s ∧ s.mwaiting < 2) []
      (fun s t => (t.core s.cur.core).mq = (s.core s.cur.core).mq ++ [s.next] ∧ (∃ m, SMap.find t.cmds s.next = some m ∧ m.instr = .mtwin on ∧ m.stage = .queued)
        ∧ (t.core s.cur.core).tiles = (s.core s.cur.core).tiles ∧ (t.core s.cur.core).holders = (s.core s.cur.core).holders)
    ∧ Stays (.mtwin on) {} (fun s => ¬ clash s ∧ 2 ≤ s.mwaiting) id .memory .hazard)
  ∧ ((∀ (z : Fin 8) (f : Fin 16) (ra rh : GReg),
    Faults (.mma z f rh) (useMat 0 rh) (fun s => ¬ s.mine z.val) cMATRIX_OWNER 0 (fun _ => word z.val)
    ∧ Faults (.mzero z rh) (useMat 0 rh) (fun s => ¬ s.mine z.val) cMATRIX_OWNER 0 (fun _ => word z.val)
    ∧ Faults (.mdrain z f ra rh) (useMat ra rh) (fun s => ¬ s.mine z.val) cMATRIX_OWNER 0 (fun _ => word z.val)
    ∧ ∀ va, Faults (.mdrain z f ra rh) (useMat ra rh) (fun s => s.mine z.val ∧ s.checkFull s.cur.core [(s.imageAt ra, 1024 * drainSize f.val)] = some va) cBAD_OWNER 0 (fun _ => va))
  ∧ (∀ (y : Fin 2) (f : Fin 16) (rh : GReg), Faults (.mmab y f rh) (useMat 0 rh) (fun s => ¬ s.mayTake (8 + y.val)) cMATRIX_OWNER 0 (fun _ => word (8 + y.val)))
  ∧ (∀ n : Nat, Faults (.mtwin true) {} (fun s => [4, 5, 6, 7, 9].find? (s.core s.cur.core).held = some n) cMATRIX_OWNER 0 (fun _ => word n))
  ∧ ∀ (f : Fin 16) (ra rh : GReg) (va : Word), Faults (.mlda f ra rh) (useMat ra rh)
      (fun s => s.allows permR [(s.imageAt ra, imageBytes f.val)] ∧ s.imageFirstOutside s.cur.core (s.imageAt ra) (imageBytes f.val) = some va) cBAD_OWNER 0 (fun _ => va)
    ∧ Faults (.mldb f ra rh) (useMat ra rh)
      (fun s => s.allows permR [(s.imageAt ra, imageBytes f.val)] ∧ s.imageFirstOutside s.cur.core (s.imageAt ra) (imageBytes f.val) = some va) cBAD_OWNER 0 (fun _ => va)
    ∧ ∀ (z q : Fin 8) (y : Fin 2),
      Faults (.mdrain z f ra rh) (useMat ra rh) (fun s => s.mine z.val ∧ s.checkFull s.cur.core [(s.imageAt ra, 1024 * drainSize f.val)] = none
        ∧ s.allows permW [(s.imageAt ra, 1024 * drainSize f.val)] ∧ s.imageFirstOutside s.cur.core (s.imageAt ra) (1024 * drainSize f.val) = some va) cBAD_OWNER 0 (fun _ => va)
      ∧ Faults (.mmai y f ra rh) (useMat ra rh) (fun s => s.mayTake (8 + y.val) ∧ s.allows permR [(s.imageAt ra, 256)]
        ∧ s.imageFirstOutside s.cur.core (s.imageAt ra) 256 = some va) cBAD_OWNER 0 (fun _ => va)
      ∧ Faults (.msca z q y ra rh) (useMat ra rh) (fun s => s.mine z.val ∧ s.mine (8 + y.val) ∧ s.allows permR [(s.imageAt ra, if q.val = 0 then 64 else 256)]
        ∧ s.imageFirstOutside s.cur.core (s.imageAt ra) (if q.val = 0 then 64 else 256) = some va) cBAD_OWNER 0 (fun _ => va))

/-- R173: the stream has room for 8 commands and takes the head of the queue of the first slot after the one it took last; the command arrives and the core's trace record of it is sent, where it is enabled. R178, R179: an RPASS whose tile is in bl0 and whose next core's bl1 is empty moves the tile there, and on into an empty bl0, and leaves the stream with its handle to resolve; a full bl1 moves on into an empty bl0. R174, R175, R180: a finished command of the stream leaves it and its handle is to resolve, MTWIN's aside, but for one that shares its resource with an earlier command, or a latch or tile that one of them writes, which waits; which those are, by instruction. R183, R185-R189: what a command does to the core: MLDA and MLDB load the A latch and bl0; MMA adds the dot products to its tile, MZERO zeroes its tile; MMAB and MMAI of a fresh tile write the dot products themselves, and add them to a tile that is not; MSCA adds the scaled y tile; MDRAIN sends the writes of its tile's elements, and a tile that differs from its shadow gives TWIN_MISMATCH instead. R180, R190: in twin mode MMA and MZERO act on the tile's shadow as well, MTWIN turned on copies the tiles into their shadows, and turned off it leaves the shadows free. That image reads are pieces of their own is the model's reading (DEDUCED, log 50); that bl1 holds zeros once its bytes have moved on is its choice (DESIGN CHOICE, log 67). -/
def Obligations.MatrixMoves : Prop :=
  (∀ (s : State) (sl i : Nat) (m : Cmd),
    let n := s.sel.a
    let k := s.core n
    k.stream.length < 8 → SMap.find s.cmds i = some m → m.id = i →
    ((rangeFrom 1 15).map (fun j => (k.mlast + j) % 15)).findSome? (fun x => ((s.inSlot k.mq n x).head?).map (fun c => (x, c))) = some (sl, i) →
    ∃ t : State, exec .matrixStreamAccept s = .next t ∧ (t.core n).stream = k.stream ++ [i] ∧ (t.core n).mlast = sl ∧ i ∉ (t.core n).mq
      ∧ (∀ j, j ≠ i → (j ∈ (t.core n).mq ↔ j ∈ k.mq)) ∧ (t.core n).tiles = k.tiles ∧ SMap.find t.cmds i = some { m with stage := .arrived } ∧ s.memoryKept t
      ∧ ∀ p, (t.part p).traces = ((s.trace n 9 0x03 (matFn m.instr).1 m.inc m.slot (matFn m.instr).2 m.epc 0).part p).traces)
  ∧ ((∀ (s : State) (m : Cmd),
    let n := s.sel.a
    let r := ringNext n
    s.rpassAt n = some m → (s.core n).bl0Full = true → (s.core r).bl1Full = false →
    ∃ t : State, exec .ringMove s = .next t ∧ (t.core n).tiles = (s.core n).tiles ∧ s.memoryKept t
      ∧ ((s.core r).bl0Full = true → (t.core r).bl1 = (s.core n).bl0 ∧ (t.core r).bl1Full = true ∧ (t.core r).bl0 = (s.core r).bl0)
      ∧ ((s.core r).bl0Full = false → (t.core r).bl0 = (s.core n).bl0 ∧ (t.core r).bl0Full = true ∧ (t.core r).bl1Full = false)
      ∧ ((s.core n).bl1Full = false → (t.core n).bl0Full = false)
      ∧ ((s.core n).bl1Full = true → (t.core n).bl0 = (s.core n).bl1 ∧ (t.core n).bl0Full = true ∧ (t.core n).bl1Full = false)
      ∧ (t.core n).stream = (s.core n).stream.filter (fun i => i != m.id) ∧ SMap.find t.cmds m.id = some { m with stage := .resolving })
  ∧ ∀ c : Core, (c.bl0Full = false → c.bl1Full = true → c.swapped = { c with bl0 := c.bl1, bl0Full := true, bl1 := [], bl1Full := false })
      ∧ (c.bl0Full = true ∨ c.bl1Full = false → c.swapped = c))
  ∧ ((∀ (s : State) (m : Cmd),
    let n := s.sel.a
    s.streamAt n s.sel.b = some m → (∀ rh, m.instr ≠ .rpass rh) → (∀ z f ra rh, m.instr ≠ .mdrain z f ra rh) → m.stage = .finished → m.out = 0 → (s.core n).needsB m = false → m.failed = false →
    exec .matrixCommandFinish s = .next ((s.setCore n ((s.core n).matrixEffect m).swapped).matrixDone n m))
  ∧ (∀ (s : State) (m : Cmd),
    let n := s.sel.a
    s.streamAt n s.sel.b = some m → (∀ rh, m.instr ≠ .rpass rh) → m.stage = .finished → m.out = 0 → (s.core n).needsB m = false → m.failed = true →
    exec .matrixCommandFinish s = .next (s.matrixDone n m))
  ∧ (∀ (s : State) (m : Cmd) (z : Fin 8) (f : Fin 16) (ra rh : GReg),
    let n := s.sel.a
    s.streamAt n s.sel.b = some m → m.instr = .mdrain z f ra rh → m.stage = .finished → m.out = 0 → m.failed = false →
    exec .matrixCommandFinish s = .next (if (s.core n).twinMismatch z.val then s.matrixDone n { m with code := cTWIN_MISMATCH, vaddr := word z.val }
      else (s.setCore n (s.core n).swapped).matrixDone n m))
  ∧ (∀ (c : Core) (z : Nat), c.twinMismatch z = true ↔ c.twin = true ∧ z < 4 ∧ ∃ e, e < 1024 ∧ SMap.get 0 c.tiles (1024 * z + e) ≠ SMap.get 0 c.tiles (1024 * (z + 4) + e))
  ∧ (∀ (s : State) (c : Cmd) (z : Fin 8) (f : Fin 16) (ra rh : GReg), SMap.find s.cmds s.sel.a = some c → c.instr = .mdrain z f ra rh → c.stage = .arrived → c.out = 0 → c.line = 0 →
    c.id ∈ (s.core c.core).stream → s.matFree c.core c = true → (s.core c.core).twinMismatch z.val = false →
    ∃ t : State, exec .engine s = .next t ∧ s.memoryKept t ∧ SendsPieces s t c (fun _ => .engWrite) (contiguous c.ra 0 (1024 * drainSize f.val)
      ((rangeFrom 0 1024).flatMap (fun e => drainElem f.val (SMap.get 0 (s.core c.core).tiles (1024 * z.val + e))))))
  ∧ (∀ x : Lane, drainElem 8 x = leBytes 4 x.toNat ∧ drainElem 9 x = leBytes 4 x.toNat ∧ drainElem 0 x = leBytes 2 (narrow bf16 .rne x).1
    ∧ drainElem 1 x = leBytes 2 (narrow fp16 .rne x).1 ∧ drainElem 2 x = leBytes 1 (narrowSat e4m3 .rne x).1 ∧ drainElem 3 x = leBytes 1 (narrowSat e5m2 .rne x).1)
  ∧ (∀ (s : State) (e m : Cmd),
    let k := s.core s.sel.a
    let l := k.stream
    l[s.sel.b]? = some m.id → e.id ∈ l.takeWhile (fun i => i != m.id) → SMap.find s.cmds m.id = some m → SMap.find s.cmds e.id = some e →
    (matResource m.instr ≠ 0 ∧ matResource e.instr = matResource m.instr) ∨ (∃ x ∈ k.matWrites e, x ∈ k.matReads m ∨ x ∈ k.matWrites m) ∨ (∃ x ∈ k.matReads e, x ∈ k.matWrites m) →
    exec .matrixCommandFinish s = .next s)
  ∧ (∀ (c : Core) (m : Cmd) (z k : Fin 8) (y : Fin 2) (f : Fin 16) (ra rh : GReg), c.twin = false →
    let uses (i : Instr) (unit : Nat) (reads writes : List Nat) : Prop := m.instr = i → matResource i = unit
      ∧ (∀ x, x ∈ c.matReads m ↔ x ∈ reads) ∧ ∀ x, x ∈ c.matWrites m ↔ x ∈ writes
    uses (.mlda f ra rh) 1 [] [10] ∧ uses (.mldb f ra rh) 1 [] [11] ∧ uses (.rpass rh) 2 [11] [11] ∧ uses (.mma z f rh) 3 [z.val, 10, 11] [z.val]
    ∧ uses (.mmab y f rh) 3 [8 + y.val, 10, 11] [8 + y.val] ∧ uses (.mmai y f ra rh) 3 [8 + y.val, 10, 11] [8 + y.val] ∧ uses (.mzero z rh) 3 [] [z.val]
    ∧ uses (.msca z k y ra rh) 4 [z.val, 8 + y.val] [z.val] ∧ uses (.mdrain z f ra rh) 5 [z.val] [])
  ∧ (∀ (c : Core) (m : Cmd) (f : Fin 16) (ra rh : GReg),
    (m.instr = .mlda f ra rh → (∀ i, i < m.buf.length → SMap.get 0 (c.matrixEffect m).alatch i = (m.buf.getD i none).getD 0)
      ∧ (c.matrixEffect m).tiles = c.tiles ∧ (c.matrixEffect m).bl0 = c.bl0)
    ∧ (m.instr = .mldb f ra rh → (∀ i, i < m.buf.length → SMap.get 0 (c.matrixEffect m).bl0 i = (m.buf.getD i none).getD 0)
      ∧ (c.matrixEffect m).bl0Full = true ∧ (c.matrixEffect m).bl1 = c.bl1 ∧ (c.matrixEffect m).tiles = c.tiles ∧ (c.matrixEffect m).alatch = c.alatch))
  ∧ (∀ (c : Core) (m : Cmd) (y : Fin 2) (f : Fin 16) (ra rh : GReg), c.twin = false → ∀ i j, i < 32 → j < 32 →
    let at_ := 1024 * (8 + y.val) + 32 * i + j
    let old := SMap.get 0 c.tiles at_
    let new := SMap.get 0 (c.matrixEffect m).tiles at_
    let dot := doteo (List.zipWith (fun p q => (p.mul q).1) (operandRow c.alatch f.val i) (operandRow c.bl0 f.val j))
    let zp (r : Nat) : Int := signedOf 8 ((m.buf.getD (4 * r + 2) none).getD 0).toNat
    let p := ((List.zipWith (fun a b => (a - zp i) * (b - zp (32 + j))) (operandInts c.alatch f.val i) (operandInts c.bl0 f.val j))).foldl (fun x y => x + y) 0
    (m.instr = .mmab y f rh → new = if m.fresh then dot else (fadd32 .rne old dot).1)
    ∧ (m.instr = .mmai y f ra rh → new = if m.fresh then BitVec.ofInt 32 p else old + BitVec.ofInt 32 p))
  ∧ (∀ (c : Core) (m : Cmd) (z k : Fin 8) (y : Fin 2) (ra rh : GReg), c.twin = false → m.instr = .msca z k y ra rh →
    let byte (n : Nat) : Nat := ((m.buf.getD n none).getD 0).toNat
    (∀ i j, i < 32 → j < 32 →
      let zo := SMap.get 0 c.tiles (1024 * z.val + 32 * i + j)
      let yo := SMap.get 0 c.tiles (1024 * (8 + y.val) + 32 * i + j)
      let new := SMap.get 0 (c.matrixEffect m).tiles (1024 * z.val + 32 * i + j)
      let scale (r : Nat) : Lane := widen fp16 (byte (4 * r) + 256 * byte (4 * r + 1))
      (k.val = 0 → (byte i = 255 ∨ byte (32 + j) = 255 → new = 0x7FC00000)
        ∧ (byte i ≠ 255 → byte (32 + j) ≠ 255 → byte i + byte (32 + j) = 254 → new = (fadd32 .rne zo yo).1))
      ∧ (k.val = 1 → new = (fadd32 .rne zo (fmul32 .rne (fmul32 .rne (intToF32 .rne yo.toInt).1 (scale i)).1 (scale (32 + j))).1).1))
    ∧ ∀ e, e / 1024 ≠ z.val → SMap.get 0 (c.matrixEffect m).tiles e = SMap.get 0 c.tiles e)
  ∧ ∀ (c : Core) (m : Cmd) (z : Fin 8) (f : Fin 16) (rh : GReg), c.twin = false →
    (m.instr = .mzero z rh → ∀ e, e < 1024 → SMap.get 0 (c.matrixEffect m).tiles (1024 * z.val + e) = 0)
    ∧ (m.instr = .mma z f rh → ∀ i j, i < 32 → j < 32 → SMap.get 0 (c.matrixEffect m).tiles (1024 * z.val + 32 * i + j) =
        (fadd32 .rne (SMap.get 0 c.tiles (1024 * z.val + 32 * i + j))
          (doteo (List.zipWith (fun p q => (p.mul q).1) (operandRow c.alatch f.val i) (operandRow c.bl0 f.val j)))).1)
    ∧ (∀ e, e / 1024 ≠ z.val → (m.instr = .mzero z rh ∨ m.instr = .mma z f rh) → SMap.get 0 (c.matrixEffect m).tiles e = SMap.get 0 c.tiles e))
  ∧ ∀ (c : Core) (m : Cmd) (z : Fin 8) (f : Fin 16) (rh : GReg),
    (c.twin = true → z.val < 4 → m.instr = .mzero z rh → ∀ e, e < 1024 →
      SMap.get 0 (c.matrixEffect m).tiles (1024 * z.val + e) = 0 ∧ SMap.get 0 (c.matrixEffect m).tiles (1024 * (z.val + 4) + e) = 0)
    ∧ (c.twin = true → z.val < 4 → m.instr = .mma z f rh → ∀ i j, i < 32 → j < 32 → ∀ t, t = z.val ∨ t = z.val + 4 →
      SMap.get 0 (c.matrixEffect m).tiles (1024 * t + 32 * i + j) =
        (fadd32 .rne (SMap.get 0 c.tiles (1024 * t + 32 * i + j))
          (doteo (List.zipWith (fun p q => (p.mul q).1) (operandRow c.alatch f.val i) (operandRow c.bl0 f.val j)))).1)
    ∧ (c.twin = false → m.instr = .mtwin true → (c.matrixEffect m).twin = true
      ∧ ∀ e, e < 1024 → (∀ t, t < 4 → SMap.get 0 (c.matrixEffect m).tiles (1024 * (t + 4) + e) = SMap.get 0 c.tiles (1024 * t + e)
          ∧ SMap.get 0 (c.matrixEffect m).tiles (1024 * t + e) = SMap.get 0 c.tiles (1024 * t + e))
        ∧ SMap.get 0 (c.matrixEffect m).tiles (1024 * 9 + e) = SMap.get 0 c.tiles (1024 * 8 + e))
    ∧ (c.twin = true → m.instr = .mtwin false → (c.matrixEffect m).twin = false ∧ (c.matrixEffect m).tiles = c.tiles
      ∧ (∀ t ∈ [4, 5, 6, 7, 9], SMap.find (c.matrixEffect m).holders t = none)
      ∧ ∀ t, t < 4 ∨ t = 8 → SMap.find (c.matrixEffect m).holders t = SMap.find c.holders t)

/-! ## Engine commands -/

/-- R249, R250 steps 1 to 3: every command with a parameter block in the core's scratchpad, where it may be read, has its block read issued, and its thread issues nothing further until the rest of the checks; a block elsewhere raises BAD_OWNER. R249-R254, R395: the block read of a command is back and its checks pass: with room in its slot's queue, an entry for its handle and no older command of its core for the same channel, or the trays, still at its block, it is queued, a push with its channel's next id, its thread goes on and rd holds the handle; else it waits; a check that fails raises its fault, and a failed read is a deferred fault. -/
def Obligations.BlockCommands : Prop :=
  (∀ (rd ra : GReg) (n : Fin 4) (own : Bool) (p : Fin 32) (off : Fin 4) (v : VPair) (x : VReg) (c : Fin 64),
    BlockForm (.xpush rd ra n) (useRR rd ra) rd ra ∧ BlockForm (.xpushr rd ra n) (useRR rd ra) rd ra
    ∧ BlockForm (.trayGather rd ra own p) (useRR rd ra) rd ra ∧ BlockForm (.trayScatter rd ra own p) (useRR rd ra) rd ra
    ∧ BlockForm (.trayReduce rd ra own p) (useRR rd ra) rd ra ∧ BlockForm (.traySub rd ra own p) (useRR rd ra) rd ra
    ∧ BlockForm (.trayUnsub rd ra own p) (useRR rd ra) rd ra ∧ BlockForm (.allred rd ra off) (useRR rd ra) rd ra ∧ BlockForm (.allgath rd ra) (useRR rd ra) rd ra
    ∧ BlockForm (.stvec rd ra c) (useRR rd ra) rd ra ∧ BlockForm (.ixdel rd ra c) (useRR rd ra) rd ra
    ∧ BlockForm (.ldnear rd ra v c) { useRR rd ra with dst := (gset [rd]).union (useV [2 * v.val, 2 * v.val + 1] [] []) } rd ra
    ∧ BlockForm (.ixsnap rd ra x c) { useRR rd ra with dst := (gset [rd]).union (RegSet.ofV x) } rd ra)
  ∧ (∀ (s : State) (c : Cmd),
    let t := Thr.ctx c.core c.ctx
    SMap.find s.cmds s.sel.a = some c → c.stage = .block → (s.ctx t).busy = .block c.id →
    (c.failed = true → ∃ u : State, exec .blockReadReturn s = .next u ∧ SMap.find u.cmds c.id = none ∧ (u.ctx t).busy = .none ∧ (u.ctx t).pc = (s.ctx t).pc
      ∧ (u.ctx t).fails = (s.ctx t).fails ++ [{ dest := none, ecc := c.faultCode.1 == cECC_UNCORR, epc := c.epc, vaddr := c.faultCode.2 }] ∧ s.memoryKept u) ∧
    (∀ code va, c.failed = false → c.block.length = 64 → s.blockChecks c = .error (code, va) →
      exec .blockReadReturn s = .next ((s.dropCmd c).raise t ⟨code, 0, c.epc, va, false⟩))
    ∧ (∀ d, c.failed = false → c.block.length = 64 → s.blockChecks c = .ok d →
        s.queueFull c = true ∨ s.behindOlder c = true ∨ (s.core c.core).freeHandle = none → exec .blockReadReturn s = .next s)
    ∧ (∀ d h, c.rd < 32 → c.failed = false → c.block.length = 64 → s.blockChecks c = .ok d → s.queueFull c = false → s.behindOlder c = false →
        (s.core c.core).freeHandle = some h →
      ∃ u : State, exec .blockReadReturn s = .next u ∧ (u.ctx t).busy = .none
        ∧ ((u.core c.core).handle h).st = .pending ∧ ((u.core c.core).handle h).gen = (((s.core c.core).handle h).gen + 1) % 256
        ∧ (c.rd ≠ 0 → (u.ctx t).gr c.rd = handleWord c.core ((((s.core c.core).handle h).gen + 1) % 256) h ∧ (u.ctx t).hpend.toNat.testBit c.rd = true)
        ∧ (u.ctx t).pend = (s.ctx t).pend.union c.searchDst
        ∧ (∃ m, SMap.find u.cmds c.id = some m ∧ m.stage = .queued ∧ m.data = d ∧ m.hidx = h)
        ∧ (∀ ch, c.channel = some ch → (u.core c.core).xq = (s.core c.core).xq ++ [c.id]
            ∧ SMap.get 0 (u.core c.core).nextid ch = (SMap.get 0 (s.core c.core).nextid ch + 1) % 2 ^ 32)
        ∧ (c.channel = none → (u.core c.core).tq = (s.core c.core).tq ++ [c.id]) ∧ s.memoryKept u))

/-- R260, R267, R372: the oldest tray-queue command that is no collective leaves for its tray: a gather or scatter and a reduction for their engines' queues, a caddy command for the home tray, a subscription for its SID or, where that is held, for the wait behind it, an unsubscription to end the subscription of its gang that holds its SID. R251, R252: the head of an engine's queue begins once it has arrived; a finished tray, collective or caddy command sends its flag write behind every entry, unless a piece failed or its flag address is 0, and once that has performed it leaves its tray's queues and its handle is to resolve, and with a subscription the unsubscriptions that waited for it are finished. R252, R254, R256, R257: a free channel takes the push whose turn it is from the head of its slot's queue; a finished push sends its landing and flag write, and once they have performed makes s.xdone of its channel one more than its id, frees its channel, and its handle is to resolve; an engine sends the next pieces only when none is out. That the id changes in the move in which the last of those writes is known to have performed is the model's reading (DEDUCED, log 19). R227, R256, R257, R264, R265, R75: the pieces of an engine's step, and the data they move: the rows of XPUSH and XPUSHR with their padding, the elements of GATHER, zeros for an index out of range among them, those of SCATTER, the last of equal targets or added one by one, and the combined elements of REDUCE; a byte or element that did not come is not written: how much of a piece is lost is the model's reading (DEDUCED, log 47). -/
def Obligations.EngineMoves : Prop :=
  ((∀ (s : State) (i : Nat) (rest : List Nat) (c : Cmd),
    (s.core s.sel.a).tq = i :: rest → SMap.find s.cmds i = some c → c.id = i → (∃ rd ra own p, c.instr = .trayGather rd ra own p ∨ c.instr = .trayScatter rd ra own p) →
    ∃ t : State, exec .trayDepart s = .next t ∧ (t.core s.sel.a).tq = rest ∧ (t.tray c.pot).gsq = (s.tray c.pot).gsq ++ [i]
      ∧ SMap.find t.cmds i = some { c with stage := .arrived })
  ∧ (∀ (s : State) (i : Nat) (rest : List Nat) (c : Cmd) (rd ra : GReg) (own : Bool) (p : Fin 32), (s.core s.sel.a).tq = i :: rest → SMap.find s.cmds i = some c → c.id = i →
    let held := (SMap.find (s.tray c.pot).subs c.sid).bind (SMap.find s.cmds)
    (c.instr = .trayReduce rd ra own p → ∃ t : State, exec .trayDepart s = .next t ∧ (t.core s.sel.a).tq = rest ∧ (t.tray c.pot).rdq = (s.tray c.pot).rdq ++ [i]
      ∧ SMap.find t.cmds i = some { c with stage := .arrived })
    ∧ (c.caddy ≠ none → ∃ t : State, exec .trayDepart s = .next t ∧ (t.core s.sel.a).tq = rest ∧ (t.tray c.pot).home = (s.tray c.pot).home ++ [i]
      ∧ SMap.find t.cmds i = some { c with stage := .arrived })
    ∧ (c.isColl = true → exec .trayDepart s = .next s)
    ∧ (c.instr = .traySub rd ra own p → ∃ t : State, exec .trayDepart s = .next t ∧ (t.core s.sel.a).tq = rest
      ∧ (held = none → SMap.find (t.tray c.pot).subs c.sid = some i ∧ SMap.find t.cmds i = some { c with stage := .begun })
      ∧ (held ≠ none → (t.tray c.pot).subs = (s.tray c.pot).subs ∧ (t.tray c.pot).subq = (s.tray c.pot).subq ++ [i] ∧ SMap.find t.cmds i = some { c with stage := .arrived }))
    ∧ (c.instr = .trayUnsub rd ra own p → ∃ t : State, exec .trayDepart s = .next t ∧ (t.core s.sel.a).tq = rest
      ∧ (∀ m, held = some m → m.gang = c.gang → m.id ≠ i → SMap.find t.cmds m.id = some { m with ended := true, fresh := false }
          ∧ SMap.find t.cmds i = some { c with stage := .arrived, aux := [m.id] })
      ∧ ((∀ m, held = some m → m.gang ≠ c.gang) → SMap.find t.cmds i = some { c with stage := .finished })))
  ∧ (∀ (s : State) (c : Cmd), ((if s.sel.flag then (s.tray s.sel.a).rdq else (s.tray s.sel.a).gsq).head?).bind (SMap.find s.cmds) = some c → c.stage = .arrived →
      exec .trayCommandStart s = .next (s.setCmd { c with stage := .begun }))
  ∧ (∀ (s : State) (c : Cmd), SMap.find s.cmds s.sel.a = some c → c.stage = .finished → c.out = 0 → isTrayInstr c.instr = true →
      ∃ (t : State) (l : List Entry), exec .engineCommandComplete s = .next t ∧ t.ents = s.ents ++ l ∧ s.memoryKept t
        ∧ SMap.find t.cmds c.id = some { c with stage := .flagging, out := l.length }
        ∧ (c.failed = true ∨ (c.dw 0x38).toNat / 8 = 0 → l = [])
        ∧ (∀ e ∈ l, e.kind = .flagSet ∧ e.cls = .engine ∧ e.phase = .egress ∧ e.src = .cmd c.id ∧ e.env = c.env)
        ∧ (c.failed = false → (c.dw 0x38).toNat / 8 ≠ 0 →
            (l.flatMap Entry.bytes).Perm (s.located c.core (contiguous (c.dw 0x38 &&& ~~~ 7) 0 8 []))))
  ∧ (∀ (s : State) (c : Cmd), SMap.find s.cmds s.sel.a = some c → c.id = s.sel.a → c.stage = .flagging → c.out = 0 →
      isTrayInstr c.instr = true →
      ∃ t : State, exec .engineCommandComplete s = .next t ∧ c.id ∉ (t.tray c.pot).gsq ∧ c.id ∉ (t.tray c.pot).rdq
        ∧ SMap.find t.cmds c.id = some { c with stage := .resolving } ∧ t.ents = s.ents ∧ s.memoryKept t
        ∧ ∀ m rd ra own p, SMap.find s.cmds m.id = some m → m.id ≠ c.id → m.instr = .trayUnsub rd ra own p → m.aux = [c.id] → m.stage = .arrived →
            SMap.find t.cmds m.id = some { m with stage := .finished }))
  ∧ ((∀ (s : State) (m : Cmd),
    let n := s.sel.a
    let k := s.core n
    SMap.find k.channels s.sel.b = none → m.ended = false → (s.inSlot k.xq n m.slot).head? = some m.id →
    (k.xq.filterMap (SMap.find s.cmds)).find? (fun m => m.channel == some s.sel.b && m.num == SMap.get 0 k.xdone s.sel.b) = some m →
    ∃ t : State, exec .copyChannelTake s = .next t ∧ SMap.find (t.core n).channels s.sel.b = some m.id ∧ m.id ∉ (t.core n).xq
      ∧ SMap.find t.cmds m.id = some { m with stage := .begun })
  ∧ (∀ (s : State) (c : Cmd) (rd ra : GReg) (n : Fin 4), SMap.find s.cmds s.sel.a = some c → c.instr = .xpush rd ra n ∨ c.instr = .xpushr rd ra n → c.stage = .finished → c.out = 0 →
      ∃ (t : State) (l : List Entry), exec .engineCommandComplete s = .next t ∧ t.ents = s.ents ++ l ∧ s.memoryKept t
        ∧ (t.core c.core).xdone = (s.core c.core).xdone ∧ SMap.find t.cmds c.id = some { c with stage := .flagging, out := l.length }
        ∧ (∀ e ∈ l, (e.kind = .landing ∨ e.kind = .flagSet) ∧ e.cls = .engine ∧ e.phase = .egress ∧ e.src = .cmd c.id)
        ∧ (c.failed = true → l = [])
        ∧ (c.failed = false → (c.dw 0x20).toNat / 8 ≠ 0 → ∃ e ∈ l, e.kind = .landing)
        ∧ (c.failed = false → (c.dw 0x28).toNat.testBit 10 = true → ∃ e ∈ l, e.kind = .flagSet))
  ∧ (∀ (s : State) (c : Cmd) (rd ra : GReg) (n : Fin 4), SMap.find s.cmds s.sel.a = some c → c.instr = .xpush rd ra n ∨ c.instr = .xpushr rd ra n → c.stage = .flagging → c.out = 0 →
      ∃ t : State, exec .engineCommandComplete s = .next t ∧ SMap.get 0 (t.core c.core).xdone n.val = (c.num + 1) % 2 ^ 32
        ∧ SMap.find (t.core c.core).channels n.val = none ∧ SMap.find t.cmds c.id = some { c with stage := .resolving })
  ∧ ∀ (s : State) (c : Cmd), SMap.find s.cmds s.sel.a = some c → (0 < c.out → exec .engine s = .next s)
      ∧ (c.out = 0 → c.stage = .begun → ∀ (rd ra : GReg) (n : Fin 4) (own : Bool) (p : Fin 32),
        (c.instr = .xpush rd ra n ∨ c.instr = .xpushr rd ra n → exec .engine s = .next (s.engineStep c c.enginePot (pushPlan c)))
        ∧ (c.instr = .trayGather rd ra own p → exec .engine s = .next (s.engineStep c c.enginePot (gatherPlan c)))
        ∧ (c.instr = .trayScatter rd ra own p → exec .engine s = .next (s.engineStep c c.enginePot (scatterPlan c)))
        ∧ (c.instr = .trayReduce rd ra own p → exec .engine s = .next (s.engineStep c c.enginePot (reducePlan c)))))
  ∧ (∀ (s : State) (c : Cmd) (pot : Nat) (l : List EByte) (aux : List Nat) (missing : List Word),
      (SendsPieces s (s.engineStep c pot (.read l aux)) c (fun _ => .engRead) l
        ∧ ∃ m, SMap.find (s.engineStep c pot (.read l aux)).cmds c.id = some m ∧ m.aux = aux ∧ (∀ i, m.at i = none) ∧ ∀ b ∈ l, b.idx < m.buf.length)
      ∧ SendsPieces s (s.engineStep c pot (.write l missing)) c (fun b => if missing.any (fun a => a.toNat / 16 == b.va.toNat / 16) then .store else .engWrite) l
      ∧ SendsPieces s (s.engineStep c pot (.add l)) c (fun _ => .engAdd) l ∧ SendsPieces s (s.engineStep c pot (.clear l)) c (fun _ => .engClear) l
      ∧ s.engineStep c pot .done = s.setCmd { c with stage := .finished })
  ∧ (∀ (s : State) (e : Entry) (c : Cmd), s.entry s.sel.a = some e → e.phase = .reply → e.src = .cmd c.id → e.kind = .engRead → SMap.find s.cmds c.id = some c → e.ecc = none →
      ∃ (t : State) (m : Cmd), exec .reply s = .next t ∧ s.entryGone t e.id ∧ s.memoryKept t ∧ SMap.find t.cmds c.id = some m ∧ m.out = c.out - 1 ∧ m.failed = c.failed
        ∧ ∀ b ∈ e.bytes, (∀ x ∈ e.bytes, x.idx = b.idx → x.val = b.val) → b.idx < c.buf.length → m.at b.idx = some b.val)
  ∧ (∀ (a : Word) (l : List (Option Byte)), ∃ w missing, planWrite a l = .write w missing ∧ (∀ b ∈ w, ∃ i, l[i]? = some (some b.val) ∧ b.va = a + word i)
      ∧ (∀ i v, l[i]? = some (some v) → ∃ b ∈ w, b.va = a + word i ∧ b.val = v) ∧ ∀ x, x ∈ missing ↔ ∃ i, l[i]? = some none ∧ x = a + word i)
  ∧ (∀ (c : Cmd) (rd ra : GReg) (n : Fin 4) (r : Nat),
      let w := (c.dw 0x18).toNat % 2 ^ 24 / 16 * 16
      let rows := (c.dw 0x18).toNat / 2 ^ 44
      let dst := (c.dw 8 &&& ~~~ 15) + word (r * ((c.dw 0x10).toNat % 2 ^ 32 / 16 * 16))
      (c.instr = .xpush rd ra n →
        (w = 0 ∨ rows ≤ c.line / 2 → pushPlan c = .done)
        ∧ (w ≠ 0 → r < rows → c.line = 2 * r → pushPlan c = .read (contiguous ((c.dw 0 &&& ~~~ 15) + word (r * ((c.dw 0x10).toNat / 2 ^ 32 / 16 * 16))) 0 w []) [])
        ∧ (w ≠ 0 → r < rows → c.line = 2 * r + 1 → pushPlan c = planWrite dst c.buf))
      ∧ (c.instr = .xpushr rd ra n →
        let slen := (c.dw 0x10).toNat / 2 ^ 32
        (w = 0 ∨ rows ≤ c.line / 3 → pushPlan c = .done)
        ∧ (w ≠ 0 → r < rows → c.line = 3 * r → pushPlan c = .read (contiguous ((c.dw 0x30 &&& ~~~ 3) + word (4 * r)) 0 8 []) [])
        ∧ (∀ x y, w ≠ 0 → r < rows → c.line = 3 * r + 1 → c.num' 0 4 = some x → c.num' 4 4 = some y →
            pushPlan c = .read (contiguous ((c.dw 0 &&& ~~~ 15) + word x) 0 (min w (min (y - x) (slen - x))) []) [min w (min (y - x) (slen - x))])
        ∧ (w ≠ 0 → r < rows → c.line = 3 * r + 1 → c.num' 0 4 = none ∨ c.num' 4 4 = none → pushPlan c = .read [] [])
        ∧ (w ≠ 0 → r < rows → c.line = 3 * r + 2 → c.aux = [] → pushPlan c = .skip)
        ∧ (∀ len, w ≠ 0 → r < rows → c.line = 3 * r + 2 → c.aux = [len] → len ≤ w → c.buf.length = len →
            ∃ l, pushPlan c = planWrite dst l ∧ l.length = w
              ∧ ∀ j, j < w → l[j]? = some (if j < len then c.at j else some (BitVec.ofNat 8 ((c.dw 0x38).toNat % 2 ^ 32 / 256 ^ (j % 4)))))))
  ∧ (∀ (c : Cmd) (k : Nat),
      let count := (c.dw 0x20).toNat % 2 ^ 32
      let size := 4 * 2 ^ ((c.dw 0x20).toNat / 2 ^ 32 % 8)
      let limit := (c.dw 8).toNat % 2 ^ 45
      let base := c.dw 0 &&& ~~~ 15
      let n := min 64 (count - 64 * k)
      let indices := contiguous ((c.dw 0x10 &&& ~~~ 3) + word (256 * k)) 0 (4 * n) []
      (count ≤ 64 * (c.line / 3) → gatherPlan c = .done)
      ∧ (64 * k < count → c.line = 3 * k → gatherPlan c = .read indices [])
      ∧ (64 * k < count → c.line = 3 * k + 1 → ∃ l aux, gatherPlan c = .read l aux ∧ aux.length = n
          ∧ (∀ j, j < n → (c.num' (4 * j) 4 = none → aux[j]? = some 0)
            ∧ ∀ x, c.num' (4 * j) 4 = some x → (limit < (x + 1) * size → aux[j]? = some 1)
              ∧ ((x + 1) * size ≤ limit → aux[j]? = some 2 ∧ ∀ i, i < size → ∃ b ∈ l, b.va = base + word (x * size) + word i ∧ b.idx = size * j + i))
          ∧ ∀ b ∈ l, ∃ j x i, j < n ∧ i < size ∧ c.num' (4 * j) 4 = some x ∧ (x + 1) * size ≤ limit ∧ b.va = base + word (x * size) + word i ∧ b.idx = size * j + i)
      ∧ (64 * k < count → c.line = 3 * k + 2 → c.aux.length = n → ∃ l, gatherPlan c = planWrite ((c.dw 0x18 &&& ~~~ 15) + word (64 * k * size)) l ∧ l.length = n * size
          ∧ ∀ j i, j < n → i < size → l[size * j + i]? = some (if c.aux[j]? = some 1 then some 0 else c.at (size * j + i)))
      ∧ (let adds := (c.dw 0x20).toNat.testBit 40
        let per := if adds then 65 else 2
        let target (j x : Nat) : Prop := c.num' (4 * j) 4 = some x ∧ (x + 1) * size ≤ limit
        let came (j i : Nat) (v : Byte) : Prop := c.at (4 * n + j * size + i) = some v
        (count ≤ 64 * (c.line / per) → scatterPlan c = .done)
        ∧ (64 * k < count → c.line = per * k →
            scatterPlan c = .read (indices ++ contiguous ((c.dw 0x18 &&& ~~~ 15) + word (64 * k * size)) (4 * n) (n * size) []) [])
        ∧ (64 * k < count → adds = false → c.line = 2 * k + 1 → ∃ l, scatterPlan c = .write l []
            ∧ (∀ b ∈ l, ∃ j i x, j < n ∧ i < size ∧ target j x ∧ came j i b.val ∧ b.va = base + word (x * size) + word i
                ∧ ∀ j' i' x' v, j < j' → j' < n → i' < size → target j' x' → came j' i' v → base + word (x' * size) + word i' ≠ b.va)
            ∧ ∀ j i x v, j < n → i < size → target j x → came j i v → ∃ b ∈ l, b.va = base + word (x * size) + word i)
        ∧ (∀ j, 64 * k < count → adds = true → j < 64 → c.line = 65 * k + 1 + j →
            (n ≤ j → scatterPlan c = .skip)
            ∧ (j < n → ∃ l, scatterPlan c = .add l
              ∧ (∀ b ∈ l, ∃ x i, target j x ∧ i < size ∧ came j i b.val ∧ b.va = base + word (x * size) + word i)
              ∧ ∀ x q, target j x → q < size / 4 → (∀ i, i < 4 → ∃ v, came j (4 * q + i) v) → ∀ i, i < 4 → ∃ b ∈ l, b.va = base + word (x * size) + word (4 * q + i) ∧ came j (4 * q + i) b.val))))
  ∧ ∀ (c : Cmd) (k : Nat),
      let count := (c.dw 0x18).toNat % 2 ^ 32
      let nb := (c.dw 0x18).toNat / 2 ^ 32 % 8 + 1
      let mx := (c.dw 0x18).toNat.testBit 36
      let n := min 64 (count - 64 * k)
      let op (a b : Lane) : Lane := if mx then redMax32 a b else (fadd32 .rne a b).1
      (count ≤ 64 * (c.line / 2) → reducePlan c = .done)
      ∧ (64 * k < count → c.line = 2 * k → reducePlan c = .read ((rangeFrom 0 nb).flatMap (fun b =>
          contiguous ((c.dw 0 &&& ~~~ 15) + word (b * ((c.dw 8).toNat % 2 ^ 32 / 16 * 16) + 256 * k)) (256 * b) (4 * n) [])) [])
      ∧ (64 * k < count → c.line = 2 * k + 1 → ∃ l, reducePlan c = planWrite ((c.dw 0x10 &&& ~~~ 15) + word (256 * k)) l ∧ l.length = 4 * n
          ∧ ∀ e, e < n →
            ((∃ b, b < nb ∧ c.num' (256 * b + 4 * e) 4 = none) → ∀ i, i < 4 → l[4 * e + i]? = some none)
            ∧ ∀ x : Nat → Nat, (∀ b, b < nb → c.num' (256 * b + 4 * e) 4 = some (x b)) →
              let y (b : Nat) : Lane := if b < nb then BitVec.ofNat 32 (x b) else if mx then 0xFF800000 else 0x80000000
              let r := op (op (op (y 0) (y 1)) (op (y 2) (y 3))) (op (op (y 4) (y 5)) (op (y 6) (y 7)))
              ∀ i, i < 4 → l[4 * e + i]? = some (some (BitVec.ofNat 8 (r.toNat / 256 ^ i))))

/-- R252 step 4, R381, R395: the handle of a command resolves: RESOLVED without a fault, FAULTED with its cause and datum where the handle has a register, and then the command is gone. R381, R383: with it LDNEAR's two v registers take the merged distances and identifiers, with the fill behind them, and IXSNAP's the stamps of the shards, unless the command's CODE is not 0; their pending bits clear. R395, R396: a HANDLE instruction on a handle that is not valid raises HANDLE with it; HTEST gives 0 for a pending one and 1 for a resolved one, and reports a faulted one; HPASS copies the handle with its pending bit. -/
def Obligations.Handles : Prop :=
  (∀ (s : State) (m : Cmd), SMap.find s.cmds s.sel.a = some m → m.id = s.sel.a → m.stage = .resolving → ((s.core m.core).handle m.hidx).st = .pending →
    m.searchDst.empty = true →
    ∃ t : State, exec .handleResolution s = .next t ∧ SMap.find t.cmds s.sel.a = none
      ∧ (m.failed = false ∨ m.toG0 = true → ((t.core m.core).handle m.hidx).st = .resolved)
      ∧ (m.failed = true → m.toG0 = false → ((t.core m.core).handle m.hidx).st = .faulted ∧ ((t.core m.core).handle m.hidx).code = m.faultCode.1
          ∧ ((t.core m.core).handle m.hidx).vaddr = m.faultCode.2)
      ∧ (∀ j, j ≠ m.hidx → (t.core m.core).handle j = (s.core m.core).handle j) ∧ (∀ l, t.flag l = s.flag l))
  ∧ (∀ (s : State) (m : Cmd) (rd ra : GReg) (n : Fin 64), SMap.find s.cmds s.sel.a = some m → m.id = s.sel.a → m.stage = .resolving →
    ((s.core m.core).handle m.hidx).st = .pending → SMap.find (s.core m.core).ctxs m.ctx ≠ none → (s.core m.core).gang = some m.gang →
    let th := Thr.ctx m.core m.ctx
    (∀ v : VPair, m.instr = .ldnear rd ra v n → ∃ t : State, exec .handleResolution s = .next t ∧ SMap.find t.cmds s.sel.a = none
      ∧ (t.ctx th).pend = (s.ctx th).pend.minus m.searchDst
      ∧ (m.caddyCode ≠ 0 → ∀ r, (t.ctx th).vr r = (s.ctx th).vr r)
      ∧ (m.caddyCode = 0 → ∀ r, r < 64 →
          (∀ d x, m.merged[r]? = some (d, x) → VWord.lane ((t.ctx th).vr (2 * v.val)) r = d ∧ VWord.lane ((t.ctx th).vr (2 * v.val + 1)) r = BitVec.ofNat 32 x)
          ∧ (m.merged.length ≤ r → VWord.lane ((t.ctx th).vr (2 * v.val)) r = 0x7FC00000 ∧ VWord.lane ((t.ctx th).vr (2 * v.val + 1)) r = 0xFFFFFFFF)))
    ∧ ∀ v : VReg, m.instr = .ixsnap rd ra v n → ∃ t : State, exec .handleResolution s = .next t ∧ SMap.find t.cmds s.sel.a = none
      ∧ (t.ctx th).pend = (s.ctx th).pend.minus m.searchDst
      ∧ (m.caddyCode ≠ 0 → ∀ r, (t.ctx th).vr r = (s.ctx th).vr r)
      ∧ (m.caddyCode = 0 → (∀ q a, q < descShards m.data → q < 32 → m.answers.find? (fun a => a.shard == q) = some a →
            VWord.lane ((t.ctx th).vr v.val) (2 * q) = BitVec.ofNat 32 a.stamp.toNat ∧ VWord.lane ((t.ctx th).vr v.val) (2 * q + 1) = BitVec.ofNat 32 (a.stamp.toNat / 2 ^ 32))
          ∧ ∀ j, 2 * descShards m.data ≤ j → j < 64 → VWord.lane ((t.ctx th).vr v.val) j = 0))
  ∧ (∀ c : Cmd, c.merged.length ≤ c.kq ∧ (c.caddyCode ≠ 0 → c.merged = []) ∧ ∀ x ∈ c.merged, ∃ a ∈ c.answers, x ∈ a.found)
  ∧ (∀ (rd ra : GReg),
    let u : Use := { src := gset [ra], dst := gset [rd], bare := true }
    let valid (s : State) : Prop := (s.core s.cur.core).handleValid s.cur.core (s.reg ra) = true
    let e (s : State) : Handle := (s.core s.cur.core).handle ((s.reg ra).toNat % 64)
    Completes (.htest rd ra) u (fun s => valid s ∧ (e s).st = .pending) (fun s => s.putG rd 0)
    ∧ Completes (.htest rd ra) u (fun s => valid s ∧ (e s).st = .resolved) (fun s => s.putG rd 1)
    ∧ Holds (.htest rd ra) u (fun s => valid s ∧ (e s).st = .faulted) (fun s => s.report s.cur (s.reg ra))
    ∧ Faults (.htest rd ra) u (fun s => ¬ valid s) cHANDLE 0 (fun s => s.reg ra)
    ∧ Effects (.hpass rd ra) u valid [rd.val] (fun s t => (rd.val ≠ 0 → t.reg rd = s.reg ra ∧ (t.ctx s.cur).hpend.toNat.testBit rd.val = (s.ctx s.cur).hpend.toNat.testBit ra.val)
        ∧ (t.core s.cur.core).handles = (s.core s.cur.core).handles)
    ∧ Faults (.hpass rd ra) u (fun s => ¬ valid s) cHANDLE 0 (fun s => s.reg ra)
    ∧ Completes (.hcancel ra) { src := gset [ra], bare := true } (fun s => valid s ∧ (e s).st ≠ .pending) id
    ∧ (∀ m, Moves (.hcancel ra)
        (fun s => s.clear { src := gset [ra], bare := true } = true ∧ valid s ∧ (e s).st = .pending ∧ m.cancellable = true
          ∧ (s.cmds.map Prod.snd).find? (fun m => m.core == s.cur.core && m.hidx == (s.reg ra).toNat % 64 && m.stage != .block && !m.ended) = some m)
        (fun s t => ((t.core s.cur.core).handle ((s.reg ra).toNat % 64)).st = .resolved
          ∧ (m.channel = none → SMap.find t.cmds m.id = none) ∧ m.id ∉ (t.core s.cur.core).mq ∧ m.id ∉ (t.core s.cur.core).tq ∧ (∀ l, t.flag l = s.flag l)
          ∧ (∀ y, (s.ctx y).kept { t.ctx y with st := (s.ctx y).st, stamp := (s.ctx y).stamp } [] [] [] true) ∧ ∀ n, { (t.core n).special with stream := [], tq := [] } = { (s.core n).special with stream := [], tq := [] }))
    ∧ Faults (.hcancel ra) { src := gset [ra], bare := true } (fun s => ¬ valid s) cHANDLE 0 (fun s => s.reg ra))

/-! ## Kettles, mailboxes and the smaller thread instructions -/

/-- R84, R270: MBW waits for an empty sending half and MBR for a full receiving half; at position 15 a full sending half moves to its empty receiving half, or starts an idle kettle thread at the word's address; where both mailboxes of a direction qualify, the one that did not move last. R271, R272: DLD reserves the tail of the draw queue and issues a load for it; its reply fills the entry; DPOP takes the filled head; PPUSH appends to the pour queue and PST stores its head; QCNT counts. A full or empty queue keeps the thread at its position. That a word moved on a core that no gang holds starts its thread too is the model's choice (DESIGN CHOICE, log 74). -/
def Obligations.MailboxesAndKettleQueues : Prop :=
  ((∀ (ra : GReg) (n : Fin 4),
    Completes (.mbw ra n) (useS [ra]) (fun s => (s.here.box n.val).send = none)
      (fun s => s.setHere (s.here.setBox n.val { s.here.box n.val with send := some (s.reg ra) }))
    ∧ Stays (.mbw ra n) (useS [ra]) (fun s => (s.here.box n.val).send ≠ none) id .message .none)
  ∧ (∀ (rd : GReg) (n : Fin 4) (x : Word),
    Completes (.mbr rd n) (useD rd) (fun s => (s.here.box n.val).recv = some x)
      (fun s => (s.setHere (s.here.setBox n.val { s.here.box n.val with recv := none })).putG rd x)
    ∧ Stays (.mbr rd n) (useD rd) (fun s => (s.here.box n.val).recv = none) id .message .none)
  ∧ (∀ s : State, s.pos ≠ 15 → exec .mailboxMove s = .next s)
  ∧ ∀ s : State, s.pos = 15 → ∃ t : State, exec .mailboxMove s = .next t ∧
      let c := s.core s.sel.a
      let d := t.core s.sel.a
      (∀ i x, i = 2 ∨ i = 3 → (c.box i).send = some x → (c.box i).recv = none → ((c.box (5 - i)).ready = false ∨ c.mbNextUp = i - 2) →
        d.box i = { send := none, recv := some x } ∧ d.mbNextUp = 3 - i)
      ∧ (∀ i x, i = 0 ∨ i = 1 → (c.box i).send = some x → (c.box i).recv = none → ((c.box (1 - i)).ready = false ∨ c.mbNextDown = i) →
          d.mbNextDown = 1 - i ∧ (d.box i).send = none
          ∧ ((if i = 0 then c.draw else c.brew).st ≠ .free → (d.box i).recv = some x)
          ∧ ((if i = 0 then c.draw else c.brew).st = .free → (if i = 0 then d.draw else d.brew) = { st := .bound, pc := x &&& ~~~ 7, enter := .start }))
      ∧ (∀ i, (c.box i).ready = false → d.box i = c.box i) ∧ s.memoryKept t)
  ∧ ((∀ (ra : GReg) (sz : Size),
    Effects (.dld ra sz) (useS [ra]) (fun s => s.here.drawq.length < 32 ∧ s.allows permR [(s.reg ra, 2 ^ sz.val)]) []
      (fun s t => t.here.drawq = s.here.drawq ++ [⟨s.next, false, none, 0⟩]
        ∧ (∃ a, (t.ctx s.cur).iq = (s.ctx s.cur).iq ++ [a] ∧ a.dest = .draw s.next (2 ^ sz.val) ∧ a.load = true))
    ∧ Stays (.dld ra sz) (useS [ra]) (fun s => 32 ≤ s.here.drawq.length) id .memory .none
    ∧ (∀ x l, Completes (.pst ra sz) (useS [ra]) (fun s => s.here.pourq = x :: l ∧ s.allows permW [(s.reg ra, 2 ^ sz.val)])
        (fun s => (s.setHere { s.here with pourq := l }).issueAccess s.cur { kind := .store, replies := false } .none
          (contiguous (s.reg ra) 0 (2 ^ sz.val) (leBytes (2 ^ sz.val) x.toNat))))
    ∧ Stays (.pst ra sz) (useS [ra]) (fun s => s.here.pourq = []) id .memory .none)
  ∧ (∀ rd : GReg, (∀ x l, Completes (.dpop rd) (useD rd) (fun s => s.here.drawq = x :: l ∧ x.filled = true ∧ x.failed = none)
      (fun s => (s.setHere { s.here with drawq := l }).putG rd x.val))
    ∧ (∀ x l ecc va, Faults (.dpop rd) (useD rd) (fun s => s.here.drawq = x :: l ∧ x.filled = true ∧ x.failed = some (ecc, va))
        (if ecc then cECC_UNCORR else cRNR_LIMIT) 0 (fun _ => va))
    ∧ Stays (.dpop rd) (useD rd) (fun s => ∀ x l, s.here.drawq = x :: l → x.filled = false) id .memory .none)
  ∧ (∀ ra : GReg, Completes (.ppush ra) (useS [ra]) (fun s => s.here.pourq.length < 32) (fun s => s.setHere { s.here with pourq := s.here.pourq ++ [s.reg ra] })
    ∧ Stays (.ppush ra) (useS [ra]) (fun s => 32 ≤ s.here.pourq.length) id .memory .none)
  ∧ (∀ rd : GReg, Completes (.qcnt rd true) (useD rd) always (fun s => s.putG rd (word (s.here.pourq.length + 2 ^ 8 * s.here.pourq.length)))
    ∧ Completes (.qcnt rd false) (useD rd) always
        (fun s => s.putG rd (word (s.here.drawq.length + 2 ^ 8 * (s.here.drawq.takeWhile (fun x => x.filled)).length))))
  ∧ ∀ (s : State) (e : Entry) (t : Thr) (a : Access) (tag n : Nat),
      s.entry s.sel.a = some e → e.phase = .reply → e.src = .thr t → e.kind = .load → e.ecc = none →
      (s.ctx t).iq.find? (fun x => x.id == e.acc) = some a → a.dest = .draw tag n → a.left = 1 → a.ecc = none → a.rnr = none → a.data = [] →
      e.bytes.map (fun b => b.idx) = rangeFrom 0 n →
      ∃ u : State, exec .dldReply s = .next u ∧ s.memoryKept u
        ∧ (u.core t.core).drawq = (s.core t.core).drawq.map (fun d =>
            if d.tag = tag then { d with filled := true, failed := none, val := word (ofLeBytes (e.bytes.map (fun b => b.val))) } else d))

/-- R287, R288, R335, R348, R413, R414: WADDR, WRES, RQN, PRIO and TMARK: their values, the ceiling of a user thread's priority, and the mark that TMARK leaves for the end of its cycle. -/
def Obligations.ThreadRegisters : Prop :=
  (∀ rd ra k : GReg, let u : Use := { src := gset [ra, k], dst := gset [rd] }
    let ok (s : State) : Prop := ownerOf (s.reg ra) ≤ 31 ∧ (s.reg ra).bits 29 16 = 0
    Completes (.waddr rd ra k) u ok (fun s => s.putG rd (word (2 ^ 52 * 0xFFE + 2 ^ 45 * ownerOf (s.reg ra) + 2 ^ 30 * ((s.reg k).toNat % 2 ^ 12) + (s.reg ra).toNat % 2 ^ 29)))
    ∧ Faults (.waddr rd ra k) u (fun s => ¬ ok s) cBAD_OWNER 0 (fun s => s.reg ra))
  ∧ (∀ rd ra : GReg,
    Completes (.wres rd ra true) (useD rd) always (fun s => s.putG rd (word (2 ^ 32 * s.here.blendSize + s.here.blendRank)))
    ∧ Completes (.wres rd ra false) (useRR rd ra) (fun s => (s.reg ra).toNat < s.here.blendSize)
        (fun s => s.putG rd (let b := s.here.blendEntry (s.reg ra).toNat; word ((if b.res then 2 ^ 63 else 0) + 2 ^ 12 * b.potbase + b.module)))
    ∧ Completes (.wres rd ra false) (useRR rd ra) (fun s => s.here.blendSize ≤ (s.reg ra).toNat) (fun s => s.putG rd 0))
  ∧ (∀ (rd : GReg) (q : Fin 4), Completes (.rqn rd q) (useD rd) always (fun s => s.putG rd (word (
      if q.val = 0 then (s.here.rq.filter (fun m => m.ctx == s.cur.id)).length else if q.val = 1 then s.here.rq.length else s.here.orphans.length))))
  ∧ (∀ rd ra : GReg, Moves (.prio rd ra) (fun s => s.clear (useRR rd ra) = true) (fun s t =>
      (rd.val ≠ 0 → t.reg rd = word (s.ctx s.cur).prio)
      ∧ (s.ctx s.cur).kept { t.ctx s.cur with prio := (s.ctx s.cur).prio } [rd.val] [] [] true
      ∧ s.othersKept t s.cur ∧ (∀ n, (t.core n).special = (s.core n).special)
      ∧ (t.ctx s.cur).prio = (if (s.ctx s.cur).sup then (s.reg ra).toNat % 128 else min ((s.reg ra).toNat % 128) s.here.ceil) ∧ s.memoryKept t))
  ∧ ∀ (ra : GReg) (k : Fin 4) (gid : Nat) (g : Gang), k.val ≠ 3 →
    Effects (.tmark ra k) (useS [ra]) (fun s => s.here.gang = some gid ∧ SMap.find s.gangs gid = some g) [] (fun s t =>
      SMap.find t.gangs gid = some { g with marks := g.marks ++
        [⟨s.cur.core, (s.ctx s.cur).traceName.1, (s.ctx s.cur).traceName.2, k.val, (s.ctx s.cur).pc, s.reg ra⟩] }
      ∧ ∀ j, j ≠ gid → SMap.find t.gangs j = SMap.find s.gangs j)

/-! ## Messages, migration and barriers -/

/-- R332, R337-R340, R346, R350-R352: SEND, TSTART and MIGR check their target core and put a message, a start message or a sachet behind a release; SEND and TSTART wait for room; a target outside the gang raises QUEUE, one of the other world WORLD. R342, R347: RECV takes the oldest message queued for its thread, RECV.o the oldest orphan: the header to rd, the payload to the group, the message gone from its queue; with none RECV is blocked and RECV.o writes zeros. That a release is a set of probes ahead of the entry is the model's reading (DEDUCED, log 52). -/
def Obligations.MessagesSentAndReceived : Prop :=
  ((∀ (rd ra : GReg) (k : Bool), ra.val < 29 →
    let u := useS (rd.val :: groupOf ra)
    let n (s : State) : Nat := (s.reg rd).toNat % 2 ^ 14
    let named (s : State) : Prop := (s.reg rd).bits 16 4 ≠ 15 ∧ s.peerCore s.cur.core (n s) = none
    Effects (.send rd ra k) u (fun s => named s ∧ s.here.sendq < 16 ∧ (k = true → s.here.acks < 16)) [] (fun s t =>
      SendsBehind s t .msg .message (n s)
        (word (nameWord s.cur.core (s.ctx s.cur).name + 2 ^ 32 * (s.reg rd).bits 32 8 + (if k then 2 ^ 44 else 0) + 2 ^ 47)
          :: word (n s + 2 ^ 16 * (s.reg rd).bits 16 4 + 2 ^ 24 * (s.reg rd).bits 24 8)
          :: (if ra.val = 0 then [0, 0, 0, 0] else [s.reg ra, s.reg (ra.val + 1), s.reg (ra.val + 2), s.reg (ra.val + 3)]))
      ∧ t.here.sendq = s.here.sendq + 1 ∧ t.here.acks = s.here.acks + (if k then 1 else 0))
    ∧ Stays (.send rd ra k) u (fun s => named s ∧ (16 ≤ s.here.sendq ∨ (k = true ∧ 16 ≤ s.here.acks))) id .message .sendq
    ∧ Faults (.send rd ra k) u (fun s => (s.reg rd).bits 16 4 = 15) cQUEUE 0 (fun s => word (n s))
    ∧ Faults (.send rd ra k) u (fun s => (s.reg rd).bits 16 4 ≠ 15 ∧ (s.core (n s)).gang ≠ s.here.gang) cQUEUE 0 (fun s => word (n s))
    ∧ Faults (.send rd ra k) u (fun s => (s.reg rd).bits 16 4 ≠ 15 ∧ (s.core (n s)).gang = s.here.gang ∧ (s.core (n s)).secure ≠ s.here.secure) cWORLD 0 (fun _ => 0))
  ∧ (∀ (rd ra rg : GReg) (p : Fin 128),
    let n (s : State) : Nat := (s.reg rd).toNat % 2 ^ 14
    Effects (.tstart rd ra p rg) (useS [rd, ra, rg]) (fun s => s.peerCore s.cur.core (n s) = none ∧ s.here.sendq < 16) [] (fun s t =>
      SendsBehind s t (.start (s.reg ra) (s.reg rg) (if (s.ctx s.cur).sup then p.val else min p.val s.here.ceil) 0) .message (n s) []
      ∧ t.here.sendq = s.here.sendq + 1 ∧ t.here.acks = s.here.acks)
    ∧ Stays (.tstart rd ra p rg) (useS [rd, ra, rg]) (fun s => s.peerCore s.cur.core (n s) = none ∧ 16 ≤ s.here.sendq) id .message .sendq)
  ∧ ∀ (rd ra : GReg) (o : Nat) (h : Header),
    let u := (useS [rd, ra]).waits
    let ready (s : State) : Prop := s.ownerCore (s.reg ra) = some o ∧ s.allows permR [(s.reg ra, 1)] ∧ s.peerCore s.cur.core o = none
      ∧ (∃ s', s.lookHeader s.cur.core (s.reg rd) = .ok s' h)
    Effects (.migr rd ra) u (fun s => ready s ∧ h.kind = 2 ∧ landable h = true ∧ (s.ctx s.cur).sup = false) [] (fun s t =>
      SendsBehind s t .sachet .store o (s.sachetBody s.cur.core (s.ctx s.cur) (s.reg rd))
      ∧ (t.ctx s.cur).busy = .migr none (s.reg ra) ∧ (t.ctx s.cur).pc = (s.ctx s.cur).pc ∧ t.here.sendq = s.here.sendq)
    ∧ Faults (.migr rd ra) u (fun s => s.ownerCore (s.reg ra) = none) cBAD_OWNER 0 (fun s => s.reg ra)
    ∧ Faults (.migr rd ra) u (fun s => ready s ∧ h.kind ≠ 2) cBAD_TARGET 0 (fun s => s.reg rd)
    ∧ Faults (.migr rd ra) u (fun s => ready s ∧ h.kind = 2 ∧ ((s.ctx s.cur).sup = true ∨ landable h = false)) cMIGR_REFUSED 0 (fun s => s.reg ra))
  ∧ (∀ (rd ra : GReg) (m : Msg) (p0 p1 p2 p3 : Word), wf (.recv rd ra false) = true → m.payload = [p0, p1, p2, p3] →
    let u : Use := { dst := gset (rd.val :: groupOf ra) }
    let got (s t : State) (w q0 q1 q2 q3 : Word) : Prop := (rd.val ≠ 0 → t.reg rd = w)
      ∧ (ra.val ≠ 0 → t.reg ra = q0 ∧ t.reg (ra.val + 1) = q1 ∧ t.reg (ra.val + 2) = q2 ∧ t.reg (ra.val + 3) = q3)
      ∧ (∀ r, r ≠ rd.val → (ra.val = 0 ∨ r < ra.val ∨ ra.val + 3 < r) → t.reg r = s.reg r)
    (∀ l r, Effects (.recv rd ra false) u (fun s => s.here.rq = l ++ m :: r ∧ m.ctx = s.cur.id ∧ ∀ x ∈ l, x.ctx ≠ s.cur.id) (rd.val :: groupOf ra)
      (fun s t => got s t m.w0 p0 p1 p2 p3 ∧ t.here.rq = l ++ r ∧ t.here.acks = (if m.w0.bits 45 2 = 0 then s.here.acks else s.here.acks - 1)))
    ∧ Stays (.recv rd ra false) u (fun s => ∀ x ∈ s.here.rq, x.ctx ≠ s.cur.id)
        (fun s => s.setCtx s.cur { s.ctx s.cur with wait := waitWord 1 0 0 0 0 0 }) .message .none
    ∧ (∀ l, Effects (.recv rd ra true) u (fun s => s.here.orphans = m :: l) (rd.val :: groupOf ra) (fun s t => got s t m.w0 p0 p1 p2 p3 ∧ t.here.orphans = l))
    ∧ Effects (.recv rd ra true) u (fun s => s.here.orphans = []) (rd.val :: groupOf ra) (fun s t => got s t 0 0 0 0 0))

/-- R328-R330, R333, R334, R336: a barrier starts its release and goes on to wait for its arrival, which is counted once its stores have performed; completion lets the thread go. R330, R150: a thread whose arrival at BARB is still to come when a peer has been discarded takes TEARDOWN there, its windows as they were before the word, and a rank that has been discarded does not complete BARB. TEXIT retires its context behind a FENCE.sys; YIELD puts its thread back in the run queue where a ready context of at least its priority waits, and does nothing else. That YIELD waits for pending bits is the model's reading (DEDUCED, log 25). -/
def Obligations.BarriersExitYield : Prop :=
  (let u : Use := { all := true }
   Holds .barc u always (fun s => (s.probe s.cur).goHeld u (.arriving .barc) 0)
   ∧ Holds .barg u always (fun s => (s.probe s.cur).goHeld u (.arriving .barg) 0)
   ∧ Holds .barb u (fun s => (s.gangOf s.cur.core).bind Gang.torn = none) (fun s => (s.probe s.cur).goHeld u (.arriving .barb) 0)
   ∧ (∀ m, Faults .barb u (fun s => (s.gangOf s.cur.core).bind Gang.torn = some m) cTEARDOWN 0 (fun _ => word m))
   ∧ (∀ (s : State) (m : Nat), let t := Thr.ctx s.sel.a s.sel.b
       (s.ctx t).busy = .arriving .barb → (s.ctx t).stopped = false → s.egEmpty t = true → s.probing t = false → (s.core s.sel.a).gang ≠ none →
       (s.gangOf s.sel.a).bind Gang.torn = some m →
       exec .barrierArrival s = .next ((s.setCtx t { s.ctx t with busy := .none, windows := (s.ctx t).before }).raise t ⟨cTEARDOWN, 0, (s.ctx t).lastWord, word m, false⟩))
   ∧ (∀ (s : State) (gid : Nat) (g : Gang) (b : Bar), g.record.size = 1 → s.barDone gid g (2 ^ 20 + 1) b = s.barHere gid g (2 ^ 20 + 1) b)
   ∧ (∀ (s : State) (gid r : Nat) (g : Gang) (b : Bar), 1 < g.record.size → r < g.record.size → r ≠ g.record.rank → SMap.get .unknown g.peers r = .gone → r ∉ b.peers →
       s.barDone gid g (2 ^ 20 + 1) b = false)
   ∧ ∀ n i, Holds .texit u (fun s => s.cur = .ctx n i ∧ (s.ctx s.cur).busy ≠ .fence ∧ s.egEmpty s.cur = true ∧ (s.ctx s.cur).tb = [])
       (fun s => (s.retire n i).settleAt n))
  ∧ (∀ (s : State) (n i : Nat), ((s.retire n i).ctx (.ctx n i)).live = false)
  ∧ (∀ n i, Completes .yield {} (fun s => s.cur = .ctx n i ∧ (s.core n).readyAbove (s.ctx s.cur).prio = false) id
    ∧ Holds .yield {} (fun s => s.cur = .ctx n i ∧ (s.core n).readyAbove (s.ctx s.cur).prio = true ∧ (s.ctx s.cur).pend.empty = true)
        (fun s => s.unbind n i { (s.ctx s.cur).advance {} false with st := .ready, stamp := s.time, aged := 0 }))
  ∧ (∀ (s : State) (b : BarKind) (gid : Nat) (g : Gang),
    let t := Thr.ctx s.sel.a s.sel.b
    let x := SMap.get {} g.bars (barKey b s.sel.a)
    (s.ctx t).busy = .arriving b → (s.ctx t).stopped = false → s.egEmpty t = true → s.probing t = false →
    (s.core s.sel.a).gang = some gid → SMap.find s.gangs gid = some g → (b = .barb → g.torn = none) →
    exec .barrierArrival s = .next (((s.setGang gid { g with bars := SMap.put {} g.bars (barKey b s.sel.a) { x with arrived := x.arrived ++ [t] } }).setCtx t
      { s.ctx t with busy := .barrier b x.episode, wait := waitWord b.event 0 0 0 0 (x.episode % 2 ^ 32) }).settleBars gid))
  ∧ ∀ (s : State) (b : BarKind),
    let t := Thr.ctx s.sel.a s.sel.b
    (s.ctx t).busy = .released b → ∃ u : State, exec .barrierCompletion s = .next u ∧ (u.ctx t).busy = .none ∧ (u.ctx t).wait = 0
      ∧ ((s.ctx t).st = .waiting → (u.ctx t).st = .ready ∧ (u.ctx t).stamp = s.time) ∧ ((s.ctx t).st ≠ .waiting → (u.ctx t).st = (s.ctx t).st)

/-! ## The ordering machine -/

/-- R215, R350: an entry of an egress leaves for its channel, a sachet with the world its core then has; it stays while an older entry of its thread's egress shares a byte with it, while an older acquire of its thread has not performed and been answered, while, with a release at .core, anything older is left in the egress, and while a probe sent with it is unanswered. R216: in one channel no entry overtakes an older one that touches a page it touches, nor does a message overtake a message. That pages of one number at one owner count as one page whatever their address spaces is the model's choice (DESIGN CHOICE, log 72), and that an entry stands in the channel of each bank group it touches is its reading (DEDUCED, log 10). -/
def Obligations.DepartureAndChannelOrder : Prop :=
  (∀ (s : State) (e : Entry), s.entry s.sel.a = some e → e.phase = .egress →
    (s.mayDepart e = true → ∃ t : State, exec .depart s = .next t ∧ s.memoryKept t
      ∧ s.entryMoved t { e with phase := .channel, env := if e.kind = .sachet then { e.env with secure := (s.core e.env.core).secure } else e.env }
      ∧ (∀ th, e.src = .thr th → e.cls = .message → (t.core e.port).sendq = (s.core e.port).sendq - 1)
      ∧ (∀ th, e.src = .thr th → e.cls ≠ .message → e.kind ≠ .sachet → t.ctx th = (s.ctx th).departed e.acc))
    ∧ ∀ th, e.src = .thr th →
      ((e.cls ≠ .message ∧ ∃ x ∈ olderThan e.id s.ents, x.inEgress e.src = true ∧ e.meets x = true) → exec .depart s = .next s)
      ∧ ((e.cls ≠ .message ∧ e.rel = 1 ∧ ∃ x ∈ olderThan e.id s.ents, x.inEgress e.src = true) → exec .depart s = .next s)
      ∧ ((e.cls ≠ .message ∧ ∃ x ∈ s.ents, x.acq = true ∧ x.src = .thr th ∧ x.acc < e.id ∧ x.acc ≠ e.acc ∧ ¬ (e.kind = .probe ∧ e.id ∈ x.after)) →
          exec .depart s = .next s)
      ∧ (s.echoed e = false → exec .depart s = .next s))
  ∧ (∀ (s : State) (e x : Entry), (∀ m p q k v l, s.sel.inp ≠ .foreign m p q k v l) → s.entry s.sel.a = some e → x ∈ olderThan e.id s.ents → sameChannel x e = true →
    (e.cls = .message ∨ ∃ p ∈ x.pages, p ∈ e.pages) →
    exec .arrive s = .next s ∧ exec .messageArrival s = .next s ∧ exec .startMessageArrival s = .next s ∧ exec .sachetArrival s = .next s)

/-- R203, R216, R280, R281, R282, R126: an entry whose bytes all have a translation arrives with its physical addresses, in the ingress of each bank group of its bytes; one that the owner, here, in another module or at the host die, refuses stays in its channel while its refusal travels back in the reply class; the refusal that has come back makes it wait for its back-off delay, after which it may arrive again, or takes it out of its channel when its tries are used up, which a load's thread learns as a failure of its destination and a store's as a failure without one. An access of another module enters its channel with the values it carries. That every access without a cached translation is refused, and that a piece with bytes in several bank groups is refused as a whole and then split, are the model's readings (DEDUCED, logs 49 and 10), as is the delay of one cycle of a refusal whose back-off is 0 (DEDUCED, log 36); how an access of another module comes in, and that the refusal of another module or of the host die comes with the move, is the model's choice (DESIGN CHOICE, log 8). -/
def Obligations.EntriesArrive : Prop :=
  (∀ (s : State) (e : Entry), (∀ m p q k v l, s.sel.inp ≠ .foreign m p q k v l) → s.entry s.sel.a = some e → s.mayArrive e = true → e.packet = false → s.linkHeld e = false →
    let bytes := translated e.bytes (s.xlats e)
    let elsewhere : Prop := s.sel.flag = true ∧ (e.tgt / 2 ^ 20 ≠ ownModule ∨ ∃ b ∈ e.bytes, locOwner b.loc = 66) ∧ e.kind ≠ .probe
    (¬ elsewhere → s.detachedPeer e = false → s.flagClash e = false → (∀ b ∈ e.bytes, ∃ l, s.xlat e.env b.loc = .ok l) →
      ((∀ b ∈ bytes, ∀ b' ∈ bytes, bankOf b.loc = bankOf b'.loc) →
        ∃ t : State, exec .arrive s = .next t ∧ s.entryMoved t { e with phase := .ingress, bytes := bytes } ∧ s.memoryKept t)
      ∧ ((∃ b ∈ bytes, ∃ b' ∈ bytes, bankOf b.loc ≠ bankOf b'.loc) →
        ∃ (t : State) (es : List Entry), exec .arrive s = .next t ∧ t.ents = s.ents.filter (fun x => x.id != e.id) ++ es ∧ s.memoryKept t
          ∧ (es.flatMap Entry.bytes).Perm bytes ∧ (es.map Entry.tgt).Nodup
          ∧ ∀ x ∈ es, x.phase = .ingress ∧ x.kind = e.kind ∧ x.src = e.src ∧ x.acc = e.acc ∧ x.env = e.env ∧ ∀ b ∈ x.bytes, bankOf b.loc = x.tgt))
    ∧ ((elsewhere ∨ s.detachedPeer e = true ∨ s.flagClash e = true ∨ ∃ b ∈ e.bytes, ∀ l, s.xlat e.env b.loc ≠ .ok l) →
      ∃ (t : State) (r : Entry), exec .arrive s = .next t ∧ s.memoryKept t
        ∧ t.ents = s.ents.map (fun x => if x.id = e.id then { e with refused := true } else x) ++ [r]
        ∧ r.kind = .refusal e.id ∧ r.cls = .reply ∧ r.phase = .reply ∧ r.src = e.src))
  ∧ (∀ (s : State) (e r : Entry), s.entry s.sel.a = some r → r.kind = .refusal e.id → r.phase = .reply → s.isDraw r = false → s.entry e.id = some e → r.id ≠ e.id →
    let rest := s.ents.filter (fun x => x.id != r.id)
    (e.tries < e.env.tries → ∃ t : State, exec .reply s = .next t ∧ t.ents = rest.map (fun x => if x.id = e.id then s.refused e else x) ∧ s.memoryKept t)
    ∧ (e.env.tries ≤ e.tries → ∀ (th : Thr) (a : Access), e.src = .thr th → (s.ctx th).iq.find? (fun x => x.id == e.acc) = some a → a.load = true →
        ∀ (rd : GReg) (n : Nat) (sg : Bool), rd.val ≠ 0 → e.kind = .load → a.left = 1 → a.dest = .g rd.val n sg → a.ecc = none → a.rnr = none →
        ∃ t : State, exec .reply s = .next t ∧ t.ents = rest.filter (fun x => x.id != e.id)
          ∧ (t.ctx th).fails = (s.ctx th).fails ++ [{ dest := some (RegSet.ofG rd.val), ecc := false, epc := a.epc, vaddr := e.low }]
          ∧ (∀ r, (t.ctx th).gr r = (s.ctx th).gr r) ∧ s.memoryKept t)
    ∧ (e.env.tries ≤ e.tries → ∀ th : Thr, e.src = .thr th → e.kind = .store → (s.ctx th).live = true → (s.ctx th).iq.any (fun a => a.id == e.acc && a.load) = false →
        (s.ctx th).fails.any (fun f => f.acc == e.acc) = false →
        ∃ t : State, exec .reply s = .next t ∧ t.ents = rest.filter (fun x => x.id != e.id)
          ∧ (t.ctx th).fails = (s.ctx th).fails ++ [{ acc := e.acc, dest := none, ecc := false, epc := e.epc, vaddr := e.low }] ∧ s.memoryKept t))
  ∧ (∀ (s : State) (m port blend : Nat) (kind : EKind) (env : Env) (b : EByte) (l : List EByte), s.sel.inp = .foreign m port blend kind env (b :: l) →
      locOwner b.loc ≤ 66 → kind ≠ .msg → kind ≠ .sachet → kind ≠ .ack → (∀ a, kind ≠ .answer a) → (∀ i, kind ≠ .refusal i) → (∀ x y z h, kind ≠ .start x y z h) →
      ∃ (t : State) (e : Entry), exec .arrive s = .next t ∧ t.ents = s.ents ++ [e] ∧ e.src = .peer m ∧ e.kind = kind ∧ e.phase = .channel
        ∧ e.cls = (if kind = .engRead ∨ kind = .engWrite ∨ kind = .engAdd ∨ kind = .engClear ∨ kind = .landing ∨ kind = .flagSet then .engine else .store)
        ∧ e.env.asid = env.asid ∧ e.env.secure = env.secure ∧ e.env.tries = env.tries ∧ e.bytes.map EByte.va = (b :: l).map EByte.va
        ∧ (∀ x ∈ e.bytes, locModule x.loc = ownModule) ∧ s.memoryKept t)
  ∧ ∀ (s : State) (e : Entry), s.entry s.sel.a = some e → e.phase = .channel → e.refused = false → 0 < e.due →
    (e.due ≤ s.time.toNat → exec .rnrRetry s = .next (s.setEntry { e with due := 0 })) ∧ (s.time.toNat < e.due → exec .rnrRetry s = .next s)

/-- R217, R219, R240: a byte of a store performs when no older entry of its bank group has still to perform it: that byte of memory is written and no other, the granule's full bit is set by STF, and by an engine's write, with the last of its bytes, FECLR and an engine's clear clear it, and one event of a load's byte gives every lane that reads the byte what memory holds, and changes nothing (R132). R252, R264, R265: a byte of an engine's read brings what memory holds, or nothing where its data is uncorrectable, and a word of a scatter's addition is read, added and written in one move. -/
def Obligations.BytesPerform : Prop :=
  ∀ (s : State) (e : Entry) (b : EByte), s.entry s.sel.a = some e → e.phase = .ingress → e.bytes[s.sel.b]? = some b → b.done = false → s.byteFree e b = true →
    (e.kind = .store → ∃ t : State, exec .perform s = .next t ∧ SMap.get Memory.unlisted t.mem b.loc = b.val ∧ s.dataKept t (· = b.loc) noneOf noneOf)
    ∧ (e.kind = .stf ∨ e.kind = .engWrite → ∃ t : State, exec .perform s = .next t ∧ SMap.get Memory.unlisted t.mem b.loc = b.val
        ∧ s.dataKept t (· = b.loc) (· = b.loc / 16) noneOf
        ∧ (hasFull b.loc = true → (∀ x ∈ e.bytes, x.loc / 16 = b.loc / 16 → x.done = true ∨ (x.idx = b.idx ∧ x.loc = b.loc)) → t.isFull b.loc = true)
        ∧ ((∃ x ∈ e.bytes, x.loc / 16 = b.loc / 16 ∧ x.done = false ∧ x.loc ≠ b.loc) → t.isFull b.loc = s.isFull b.loc))
    ∧ (e.kind = .feclr ∨ e.kind = .engClear → ∃ t : State, exec .perform s = .next t ∧ t.isFull b.loc = false ∧ s.dataKept t noneOf (· = b.loc / 16) noneOf)
    ∧ (e.kind = .load → ∃ t : State, exec .perform s = .next t ∧ s.dataKept t noneOf noneOf noneOf
        ∧ ∃ e', t.entry e.id = some e' ∧ e'.bytes = e.bytes.map (fun x => if x.loc = b.loc then { x with val := s.readLoc b.loc, done := true } else x))
    ∧ (e.kind = .engRead → ∃ t e', exec .perform s = .next t ∧ s.dataKept t noneOf noneOf noneOf ∧ t.entry e.id = some e'
        ∧ (s.isPoison b.loc = false → e'.bytes = e.bytes.map (fun x => if x.idx = b.idx ∧ x.loc = b.loc then { x with val := s.readLoc b.loc, done := true } else x))
        ∧ (s.isPoison b.loc = true → e'.bytes = e.bytes.filter (fun x => !(x.idx == b.idx && x.loc == b.loc)) ∧ e'.ecc ≠ none))
    ∧ (∀ x0 x1 x2 x3 : EByte, e.kind = .engAdd → e.bytes.filter (fun x => x.idx / 4 == b.idx / 4) = [x0, x1, x2, x3] → x1.loc = x0.loc + 1 → x2.loc = x0.loc + 2 →
        x3.loc = x0.loc + 3 → (∀ x ∈ [x0, x1, x2, x3], s.byteFree e x = true) → s.eccOf e [x0, x1, x2, x3] = none →
        let sum := (fadd32 .rne (BitVec.ofNat 32 (s.readNat x0.loc 4)) (BitVec.ofNat 32 (ofLeBytes [x0.val, x1.val, x2.val, x3.val]))).1
        ∃ t : State, exec .perform s = .next t ∧ (∀ i, i < 4 → SMap.get Memory.unlisted t.mem (x0.loc + i) = BitVec.ofNat 8 (sum.toNat / 256 ^ i))
          ∧ s.dataKept t (fun l => x0.loc ≤ l ∧ l < x0.loc + 4) (· = x0.loc / 16) noneOf)

/-- R218, R219, R236, R241, R246, R247, R404, R405: what performs whole: an atomic writes its new value in the move in which its reply takes the old one; LDS takes its bytes and, where it says so, empties its granules once all of them are full, and waits until then; FSET, FCLR and FTST act on SET of their flag word; FWAIT goes on where SET is 1 and waits where it is 0; EXPECT adds to PENDING or reports an overflow; a landing takes one from PENDING, where that holds any, and sets SET with the last; an engine's flag write sets SET. SET that becomes 1 wakes the FWAITs of its word in the order they began to wait, up to one that clears it. An atomic that stores nothing, an ACAS whose compare value differs among them, leaves memory as it is; R425: so does one at uncorrectable data, and an FTST, FWAIT or EXPECT at an uncorrectable flag word brings back the error and does nothing else. That an LDS.c of uncorrectable data empties its granules too is the model's choice (DESIGN CHOICE, log 87). -/
def Obligations.WholePerforms : Prop :=
  ∀ (s : State) (e : Entry), s.entry s.sel.a = some e → e.phase = .ingress → (∀ b ∈ e.bytes, s.byteFree e b = true) →
    let l := e.flagLoc
    let w := s.flag l
    (∀ op n b c x h r, e.kind = .atomic op n b c → e.bytes = h :: r → s.eccOf e e.bytes = none → atomicNew op n (s.readNat h.loc n) b c = some x →
      exec .perform s = .next ((s.writeNat h.loc n x).moveEntry { s.readAll e with phase := .reply }))
    ∧ (∀ op n b c h r, e.kind = .atomic op n b c → e.bytes = h :: r → s.eccOf e e.bytes ≠ none ∨ atomicNew op n (s.readNat h.loc n) b c = none →
        exec .perform s = .next (s.moveEntry { s.readAll e with phase := .reply }))
    ∧ (∀ va, e.kind = .ftst ∨ (∃ cl, e.kind = .fwait cl) ∨ (∃ n, e.kind = .expect n) → s.eccOf e e.bytes = some va →
        ∃ t : State, exec .perform s = .next t ∧ s.entryMoved t { e.answering 0 with ecc := some va, phase := .reply } ∧ s.memoryKept t)
    ∧ (∀ cl, e.kind = .lds cl → s.allFull e = true → s.olderWaiter e 0 = false →
        ∃ t : State, exec .perform s = .next t ∧ s.entryMoved t { s.readAll e with phase := .reply }
          ∧ (if cl then (∀ b ∈ e.bytes, t.isFull b.loc = false) ∧ s.dataKept t noneOf (fun g => ∃ b ∈ e.bytes, g = b.loc / 16) noneOf
             else s.dataKept t noneOf noneOf noneOf))
    ∧ (∀ cl, e.kind = .lds cl → s.allFull e = false → ∃ t : State, exec .perform s = .next t ∧ s.entryStays t { e with phase := .waitlist, due := s.next } ∧ s.memoryKept t)
    ∧ (e.kind = .fset ∨ e.kind = .flagSet → ∃ t : State, exec .perform s = .next t ∧ s.wakes t e l w)
    ∧ (e.kind = .fclr → ∃ t : State, exec .perform s = .next t ∧ t.flag l = w &&& ~~~ 1 ∧ s.dataKept t noneOf noneOf (· = l / 8))
    ∧ (e.kind = .ftst → s.eccOf e e.bytes = none → ∃ t : State, exec .perform s = .next t ∧ s.entryMoved t { e.answering (w.toNat % 2) with phase := .reply } ∧ s.memoryKept t)
    ∧ (∀ cl, e.kind = .fwait cl → s.eccOf e e.bytes = none → w.toNat % 2 = 1 → ∃ t : State, exec .perform s = .next t ∧ s.entryMoved t { e.answering 0 with phase := .reply }
        ∧ t.flag l = (if cl then w &&& ~~~ 1 else w) ∧ s.dataKept t noneOf noneOf (· = l / 8))
    ∧ (∀ cl, e.kind = .fwait cl → s.eccOf e e.bytes = none → w.toNat % 2 = 0 → ∃ t : State, exec .perform s = .next t ∧ s.entryStays t { e with phase := .waitlist, due := s.next } ∧ s.memoryKept t)
    ∧ (∀ n, e.kind = .expect n → s.eccOf e e.bytes = none → w.toNat / 2 ^ 32 % 2 ^ 20 + n < 2 ^ 20 → ∃ t : State, exec .perform s = .next t
        ∧ s.entryMoved t { e.answering 0 with phase := .reply } ∧ t.flag l = word (w.toNat + 2 ^ 32 * n) ∧ s.dataKept t noneOf noneOf (· = l / 8))
    ∧ (∀ n, e.kind = .expect n → s.eccOf e e.bytes = none → 2 ^ 20 ≤ w.toNat / 2 ^ 32 % 2 ^ 20 + n → ∃ t : State, exec .perform s = .next t
        ∧ s.entryMoved t { e.answering 1 with phase := .reply } ∧ s.memoryKept t)
    ∧ (e.kind = .landing → w.toNat / 2 ^ 32 % 2 ^ 20 = 0 → ∃ t : State, exec .perform s = .next t ∧ s.memoryKept t)
    ∧ (e.kind = .landing → w.toNat / 2 ^ 32 % 2 ^ 20 = 1 → ∃ t : State, exec .perform s = .next t ∧ s.wakes t e l (word (w.toNat % 2)))
    ∧ (e.kind = .landing → 1 < w.toNat / 2 ^ 32 % 2 ^ 20 → ∃ t : State, exec .perform s = .next t
        ∧ t.flag l = word (w.toNat % 2 + 2 ^ 32 * (w.toNat / 2 ^ 32 % 2 ^ 20 - 1)) ∧ s.dataKept t noneOf noneOf (· = l / 8))

/-- R219, R220, R221, R127: a waiting LDS performs once its granules are full and no older LDS waits on one; a probe is answered once nothing of its thread that arrived before it is left at its bank group, and the bank group then leaves TB unless an entry that entered the egress after the probe touched it; a load's last reply writes its register and clears its pending bit. That an LDS.c of uncorrectable data empties its granules too is the model's choice (DESIGN CHOICE, log 87). -/
def Obligations.AnswersReturn : Prop :=
  (∀ (s : State) (e : Entry) (cl : Bool), s.entry s.sel.a = some e → e.kind = .lds cl → e.phase = .waitlist →
    (s.allFull e = true → s.olderWaiter e e.due = false → ∃ t : State, exec .ldsPerform s = .next t
      ∧ s.entryMoved t { (s.readAll { e with due := 0 }) with phase := .reply }
      ∧ (if cl then (∀ b ∈ e.bytes, t.isFull b.loc = false) ∧ s.dataKept t noneOf (fun g => ∃ b ∈ e.bytes, g = b.loc / 16) noneOf
         else s.dataKept t noneOf noneOf noneOf))
    ∧ ((s.allFull e = false ∨ s.olderWaiter e e.due = true) → exec .ldsPerform s = .next s))
  ∧ (∀ (s : State) (e : Entry) (th : Thr), s.entry s.sel.a = some e → e.kind = .probe → e.phase = .ingress → e.src = .thr th →
    (s.echoHeld e = false → ∃ t : State, exec .echo s = .next t ∧ s.entryMoved t { e with phase := .reply } ∧ s.memoryKept t
      ∧ ∀ b n, (b, n) ∈ (t.ctx th).tb ↔ (b, n) ∈ (s.ctx th).tb ∧ (b ≠ e.tgt ∨ e.id < n))
    ∧ (s.echoHeld e = true → exec .echo s = .next s))
  ∧ ∀ (s : State) (e : Entry) (th : Thr) (a : Access) (rd : GReg) (n : Nat) (sg : Bool), s.entry s.sel.a = some e → e.phase = .reply → e.src = .thr th → e.kind = .load →
    e.ecc = none → s.isDraw e = false → (s.ctx th).iq.find? (fun x => x.id == e.acc) = some a → a.dest = .g rd.val n sg → rd.val ≠ 0 → a.left = 1 → a.ecc = none →
    a.rnr = none → a.data = [] → e.bytes.map (fun b => b.idx) = rangeFrom 0 n →
    ∃ t : State, exec .reply s = .next t ∧ s.entryGone t e.id ∧ s.memoryKept t
      ∧ (t.ctx th).gr rd.val = loadValue (ofLeBytes (e.bytes.map (fun b => b.val))) n sg
      ∧ (∀ r, r ≠ rd.val → (t.ctx th).gr r = (s.ctx th).gr r) ∧ (t.ctx th).pend = (s.ctx th).pend.minus (RegSet.ofG rd.val)
      ∧ (t.ctx th).iq = (s.ctx th).iq.filter (fun x => x.id != e.acc)

/-! ## The scheduler -/

/-- R78, R311, R313-R316, R312: the lowest free slot of a core binds the READY context of highest priority, in the store or spilled, and among equals of earliest stamp; a start message creates the context of R78; a blocked context leaves its slot at its own position, and not in the cycle in which the instruction that holds it issued (R134), while another is READY, a handler's windows closed; after 2^20 cycles unbound a READY context rises by one priority, to 126 at most; a spilled one returns. How a spilled context finds room in a full store, and which of two with equal priority and stamp binds, is the model's choice (DESIGN CHOICE, logs 26 and 59), as is that a context leaves its slot while a vector command of it with no pending bit is queued (DESIGN CHOICE, log 86). -/
def Obligations.SchedulerMoves : Prop :=
  (∀ l i c, pickReady l = some (i, c) → (i, c) ∈ l ∧ ∀ p ∈ l, p.2.prio ≤ c.prio ∧ (p.2.prio = c.prio → c.stamp.toNat ≤ p.2.stamp.toNat))
  ∧ (∀ (s : State) (j i : Nat) (c : Ctx),
    let k := s.core s.sel.a
    k.gang ≠ none → j < 15 → (SMap.get ({} : Slot) k.slots j).ctx = none → (∀ m, m < j → (SMap.get ({} : Slot) k.slots m).ctx ≠ none) →
    pickReady (k.ctxs.filter (fun p => p.2.st == CtxState.ready)) = some (i, c) → s.ctx (.ctx s.sel.a i) = c →
    (c.spilled = none ∨ ∃ d, c.spilled = some d ∧ k.stored < storeRoom ∧ s.poisoned (areaLoc (clusterOf s.sel.a) d) 4608 = false
      ∧ s.readLocs (areaLoc (clusterOf s.sel.a) d) 4608 = c.image) →
    ∃ t : State, exec .bind s = .next t
      ∧ (t.ctx (.ctx s.sel.a i)).st = .bound ∧ (t.ctx (.ctx s.sel.a i)).pc = c.pc ∧ (t.ctx (.ctx s.sel.a i)).wait = 0 ∧ (t.ctx (.ctx s.sel.a i)).spilled = none
      ∧ (t.ctx (.ctx s.sel.a i)).fresh = true
      ∧ (t.ctx (.ctx s.sel.a i)).name = some ⟨j, (SMap.get ({} : Slot) (t.core s.sel.a).slots j).inc⟩
      ∧ SMap.get ({} : Slot) (t.core s.sel.a).slots j = ⟨some i, if (SMap.get ({} : Slot) k.slots j).last = some i then (SMap.get ({} : Slot) k.slots j).inc
          else ((SMap.get ({} : Slot) k.slots j).inc + 1) % 256, some i⟩
      ∧ s.memoryKept t)
  ∧ (∀ time pc arg prio, let c := startCtx time pc arg prio
      c.st = .ready ∧ c.pc = pc ∧ c.prio = prio ∧ c.stamp = time ∧ c.gr 1 = arg ∧ (∀ r, r ≠ 1 → c.gr r = 0) ∧ (∀ r, c.vr r = 0) ∧ (∀ r, r ≠ 0 → c.kr r = 0)
        ∧ c.fflags = 0 ∧ c.sup = false ∧ c.cause = 0 ∧ c.epc = 0 ∧ c.vaddr = 0 ∧ c.pend = {} ∧ c.hpend = 0 ∧ c.windows = [])
  ∧ (∀ (s : State) (e : Entry) (pc arg : Word) (prio hop : Nat), s.entry s.sel.a = some e → e.kind = .start pc arg prio hop → s.mayArrive e = true →
      ((s.core e.tgt).gang = some e.gang →
        ((s.core e.tgt).ctxs.filter (fun p => p.2.st != CtxState.exited && p.2.spilled.isNone)).length < storeRoom →
        ∃ (t : State) (l : List Entry), exec .startMessageArrival s = .next t ∧ t.ents = s.ents.filter (fun x => x.id != e.id) ++ l ∧ s.memoryKept t
          ∧ (hop = 0 → l = []) ∧ (∀ g, SMap.find s.gangs e.gang = some g → l.map Entry.tgt = (startHops g.cores e.tgt hop).map Prod.fst)
          ∧ (∀ x ∈ l, x.phase = .channel ∧ x.gang = e.gang ∧ ∃ h, h < hop ∧ x.kind = .start pc arg prio h)
          ∧ ∃ i, t.ctx (.ctx e.tgt i) = startCtx s.time pc arg prio ∧ ∀ c, SMap.find (s.core e.tgt).ctxs i = some c → c.st = .exited)
      ∧ ((s.core e.tgt).gang ≠ some e.gang → exec .startMessageArrival s = .next (s.dropEntry e.id)))
  ∧ (∀ (s : State) (i : Nat),
      let t := Thr.ctx s.sel.a i
      s.boundIn s.sel.a s.sel.b = some t → (s.ctx t).stopped = false → (s.ctx t).trap = none → s.stillBlocked t = true → (s.ctx t).pend.empty = true →
      (s.core s.sel.a).readyAbove 0 = true → s.pos = s.sel.b →
      ((s.ctx t).wait.bits 0 4 = 1 ∨ (s.ctx t).wait.bits 0 4 = 2 ∨ (s.ctx t).wait.bits 0 4 = 8 ∨ (s.ctx t).since ≠ s.time) →
      ∃ u : State, exec .park s = .next u ∧ u.ctx t = { s.ctx t with st := .waiting, windows := if (s.ctx t).sup then [] else (s.ctx t).windows } ∧ (∀ m, (SMap.get ({} : Slot) (u.core s.sel.a).slots m).ctx ≠ some i))
  ∧ (∀ (s : State), let t := Thr.ctx s.sel.a s.sel.b
      (s.ctx t).st = .ready →
      (2 ^ 20 ≤ (s.ctx t).aged → ∃ u : State, exec .agingStep s = .next u
        ∧ u.ctx t = { s.ctx t with aged := 0, prio := if (s.ctx t).prio < 126 then (s.ctx t).prio + 1 else (s.ctx t).prio })
      ∧ ((s.ctx t).aged < 2 ^ 20 → exec .agingStep s = .next s))
  ∧ ∀ (s : State) (j : Nat), let t := Thr.ctx s.sel.a s.sel.b
      (s.ctx t).spilled = some j → (s.ctx t).st = .ready → (s.core s.sel.a).stored < storeRoom → (s.core s.sel.a).topSpilled s.sel.b (s.ctx t) = true →
      (s.readLocs (areaLoc (clusterOf s.sel.a) j) 4608 = (s.ctx t).image →
        s.poisoned (areaLoc (clusterOf s.sel.a) j) 4608 = false → exec .spillReturn s = .next (s.setCtx t { s.ctx t with spilled := none }))
      ∧ ∀ gid g, (s.core s.sel.a).gang = some gid → SMap.find s.gangs gid = some g → s.poisoned (areaLoc (clusterOf s.sel.a) j) 4608 = true →
        ∃ u g', exec .spillReturn s = .next u ∧ SMap.find u.gangs gid = some g' ∧ g'.st = .ended

/-- R341-R343, R353-R357: a message of the core's gang joins the receive queue of the context that it names, and the acknowledgement it asked for leaves for the sender; without such a context it is an orphan; a full receive queue refuses it. A message or an acknowledgement whose gang is being pre-empted, or is saved, is refused; one whose gang is being discarded, or has ended, is discarded: that an acknowledgement is refused there too is the model's reading (DEDUCED, log 70). An acknowledgement finds room in a full receive queue. A sachet of a core with room becomes a READY context and is answered, one that finds more READY contexts than s.rqlimit is bounced; the origin's context retires on acceptance and faults otherwise. That the deferred faults of the origin's stores, and the failures of its messages that are still on their way, follow the thread to its new context is the model's reading (DEDUCED, log 84). -/
def Obligations.MessagesArrive : Prop :=
  (∀ (s : State) (e : Entry) (w0 w1 : Word) (p : List Word), s.entry s.sel.a = some e → s.mayArrive e = true → e.kind = .msg → e.pay = w0 :: w1 :: p →
    let k := s.core e.tgt
    (k.gang = some e.gang → s.gangLeaving e.tgt = false → s.gangHere e.tgt = true →
      (∀ i, k.named (w1.bits 16 4) (w1.bits 24 8) = some i → w0.bits 45 2 = 0 → k.dataMessages < 32 →
        ∃ t : State, exec .messageArrival s = .next t ∧ (t.core e.tgt).rq = k.rq ++ [{ ctx := i, w0 := w0, w1 := w1, payload := p }]
          ∧ (w0.bits 44 1 = 0 → s.entryGone t e.id)
          ∧ (w0.bits 44 1 = 1 → ∃ a, t.ents = s.ents.filter (fun x => x.id != e.id) ++ [a] ∧ a.kind = .ack ∧ a.tgt = w0.bits 0 14 ∧ a.phase = .channel
              ∧ (a.pay.headD 0).bits 45 2 = 1))
      ∧ (k.named (w1.bits 16 4) (w1.bits 24 8) = none → w0.bits 45 2 = 0 → k.orphans.length < 16 → ∃ t : State, exec .messageArrival s = .next t
          ∧ (t.core e.tgt).orphans = k.orphans ++ [{ ctx := 0, w0 := w0, w1 := w1, payload := p }] ∧ (t.core e.tgt).rq = k.rq)
      ∧ (∀ i, k.named (w1.bits 16 4) (w1.bits 24 8) = some i → w0.bits 45 2 = 0 → 32 ≤ k.dataMessages → exec .messageArrival s = .next (s.refuse e))))
  ∧ (∀ (s : State) (e : Entry), s.entry s.sel.a = some e → s.mayArrive e = true → e.kind = .msg ∨ e.kind = .ack →
    let k := s.core e.tgt
    (k.gang = some e.gang → s.gangLeaving e.tgt = false → s.gangHere e.tgt = false → exec .messageArrival s = .next (s.refuse e))
    ∧ (k.gang = some e.gang → s.gangLeaving e.tgt = true → exec .messageArrival s = .next (s.dropEntry e.id))
    ∧ (k.gang ≠ some e.gang → s.gangAway e.gang = false → exec .messageArrival s = .next (s.dropEntry e.id))
    ∧ (k.gang ≠ some e.gang → s.gangAway e.gang = true → exec .messageArrival s = .next (s.refuse e)))
  ∧ (∀ (s : State) (e : Entry) (w0 w1 : Word) (p : List Word) (i : Nat), s.entry s.sel.a = some e → s.mayArrive e = true → e.kind = .ack → e.pay = w0 :: w1 :: p → w0.bits 45 2 ≠ 0 →
    w0.bits 44 1 = 0 → (s.core e.tgt).gang = some e.gang → s.gangLeaving e.tgt = false → s.gangHere e.tgt = true →
    (s.core e.tgt).named (w1.bits 16 4) (w1.bits 24 8) = some i →
    ∃ t : State, exec .messageArrival s = .next t ∧ (t.core e.tgt).rq = (s.core e.tgt).rq ++ [{ ctx := i, w0 := w0, w1 := w1, payload := p }] ∧ s.entryGone t e.id)
  ∧ (∀ (s : State) (e : Entry) (o : Thr), s.entry s.sel.a = some e → s.mayArrive e = true → e.kind = .sachet → e.src = .thr o → o.core ≠ e.tgt →
    let k := s.core e.tgt
    let w := (e.pay.drop 12).headD 0
    k.gang ≠ none → k.gnum = w.bits 36 14 → k.ginc = w.bits 28 8 → e.env.secure = k.secure →
    (k.runLength ≤ k.rqlimit → (k.ctxs.filter (fun p => p.2.st != CtxState.exited && p.2.spilled.isNone)).length < storeRoom →
      ∃ (t : State) (i : Nat), exec .sachetArrival s = .next t ∧ (t.ctx o).busy = .migr (some .accepted) e.low
        ∧ t.ctx (.ctx e.tgt i) = { landedCtx s.time e.pay with fails := (s.ctx o).fails.filter (fun f => f.dest.isNone) }
        ∧ t.ents = (s.ents.filter (fun x => x.id != e.id)).map (fun x => if x.src = .thr o ∧ x.kind.sent = true then { x with src := .thr (.ctx e.tgt i) } else x))
    ∧ (k.rqlimit < k.runLength → ∃ t : State, exec .sachetArrival s = .next t ∧ s.entryGone t e.id ∧ (∀ i, (t.ctx (.ctx e.tgt i)).st = (s.ctx (.ctx e.tgt i)).st)
        ∧ (t.ctx o).busy = .migr (some .bounced) e.low))
  ∧ ∀ (s : State) (a : Word), let t := Thr.ctx s.sel.a s.sel.b
    ((s.ctx t).busy = .migr (some .accepted) a → exec .migrAnswer s = .next ((s.leave s.sel.a s.sel.b).settleAt s.sel.a) ∧ ((s.leave s.sel.a s.sel.b).ctx t).live = false)
    ∧ ((s.ctx t).busy = .migr (some .bounced) a →
        exec .migrAnswer s = .next ((s.setCtx t { s.ctx t with busy := .none }).raise t ⟨cMIGR_REFUSED, 1, (s.ctx t).pc, a, false⟩))
    ∧ ((s.ctx t).busy = .migr (some .removed) a →
        exec .migrAnswer s = .next ((s.setCtx t { s.ctx t with busy := .none }).raise t ⟨cRNR_LIMIT, 0, (s.ctx t).pc, a, false⟩))

/-! ## Launching, ending and saving gangs -/

/-- R301, R303-R306, R417: the next record of an active queue is taken: READ advances, and the record is made ready, put in the dependency pool, or refused with its code; a ring overrun stops its queue; a pooled record becomes ready once its signals read DONE, on a queue that an overrun stopped too, and is aborted when one reads otherwise; a record with uncorrectable data is refused too; a refused member of a blend tells the blend; a signal is one doubleword and owes the host one interrupt, which leaves once the signal has performed. That signals are written directly, that a record whose tables have no translation waits in its ring, and that a signal whose place has none is written with a later try, is the model's choice (DESIGN CHOICE, log 11), as is the CODE 0 of a record with uncorrectable data (DESIGN CHOICE, log 81). -/
def Obligations.RecordsTaken : Prop :=
  (∀ s : State,
    let p := s.sel.a
    let q := s.sel.b
    let n := s.qRead p q
    let ahead := (2 ^ 32 + s.qWrite p q - n) % 2 ^ 32
    let r := s.recordAt p q n
    let taken := s.setQRead p q ((n + 1) % 2 ^ 32)
    s.isPart p = true → q < 16 → s.qSize p q ≠ 0 → s.qState p q = 0 → 0 < ahead →
    (s.qSize p q < ahead → exec .launchRecordTake s = .next (s.setQState p q 2 true))
    ∧ (ahead ≤ s.qSize p q → s.ringOk p q = true → s.poisoned (s.recLoc p q n) 192 = false → s.poisoned (queueLoc p q) 64 = false →
      ((r.firstBad (s.partOf p).2).isNone = true → s.tablesReach r = false → exec .launchRecordTake s = .next s)
      ∧ ((r.firstBad (s.partOf p).2).isNone = false ∨ s.tablesReach r = true →
      (∀ code, s.recordFault p r = some code → exec .launchRecordTake s = .next ((taken.signal p r 5 code 0).tellBlend p (s.readTables r) true))
      ∧ (s.recordFault p r = none → r.ndep = 0 → s.queueWaits p q = false → exec .launchRecordTake s = .next (taken.addReady p (s.readTables r)))
      ∧ (s.recordFault p r = none → 0 < r.ndep → (s.part p).pool.length < 64 → exec .launchRecordTake s = .next (taken.addPool p (s.readTables r)))))
    ∧ (ahead ≤ s.qSize p q → s.ringOk p q = true → s.poisoned (s.recLoc p q n) 192 = true ∨ s.poisoned (queueLoc p q) 64 = true →
      exec .launchRecordTake s = .next ((taken.signal p r 5 0 0).tellBlend p (s.readTables r) true)))
  ∧ (∀ (s : State) (p : Nat) (r : Rec), (r.nlease = 0 ∨ 16 < r.nlease ∨ 4 < r.ndep) → s.recordFault p r = some 0)
  ∧ (∀ (s : State) (r : Rec),
    let p := s.sel.a
    let out := s.setPart p { s.part p with pool := (s.part p).pool.eraseIdx s.sel.b }
    (s.part p).pool[s.sel.b]? = some r →
    ((∀ x ∈ s.depSignals r, x.bits 0 8 = 1) → s.qState p r.queue = 0 ∨ (s.qState p r.queue = 2 ∧ s.qOverrun p r.queue = true) → s.commandBusy p = false →
        exec .dependencyMet s = .next (out.addReady p r))
    ∧ ((∃ x ∈ s.depSignals r, x ≠ 0 ∧ x.bits 0 8 ≠ 1) → exec .dependencyMet s = .next (out.signal p r 4 0 0)))
  ∧ (∀ (s : State) (p : Nat) (r : Rec) (status code core l : Nat), s.sysLoc r.env r.signal = some l →
    (s.signal p r status code core).mem = SMap.setRange Memory.unlisted s.mem l (leBytes 8 (status + 2 ^ 8 * code + 2 ^ 16 * core))
    ∧ ((s.signal p r status code core).part p).irqs = (s.part p).irqs ++ [{ vec := 16 * s.partNumber p + r.queue, write := none }])
  ∧ (∀ (s : State) (p : Nat) (r : Rec) (status code core : Nat), s.sysLoc r.env r.signal = none →
    (s.signal p r status code core).mem = s.mem
    ∧ ((s.signal p r status code core).part p).irqs =
        (s.part p).irqs ++ [{ vec := 16 * s.partNumber p + r.queue, write := some (r.env, r.signal, status + 2 ^ 8 * code + 2 ^ 16 * core) }])
  ∧ ∀ (s : State) (v : Irq) (l : List Irq), (s.part s.sel.a).irqs = v :: l →
    (v.write = none → exec .hostInterrupt s = .next (s.setPart s.sel.a { s.part s.sel.a with irqs := l, sent := (s.part s.sel.a).sent ++ [v.vec] }))
    ∧ (∀ e a x b, v.write = some (e, a, x) → s.sysLoc e a = some b → ∃ t : State, exec .hostInterrupt s = .next t
        ∧ t.mem = SMap.setRange Memory.unlisted s.mem b (leBytes 8 x) ∧ (t.part s.sel.a).irqs = { vec := v.vec, write := none } :: l ∧ (t.part s.sel.a).sent = (s.part s.sel.a).sent)
    ∧ (∀ e a x, v.write = some (e, a, x) → s.sysLoc e a = none → l = [] → exec .hostInterrupt s = .next s)

/-- R85, R193, R204, R208, R308-R310, R319, R330: a ready gang that can be placed asks the modules of its further ranges for them and waits for their answers; a refused range refuses the record with its number, as a caddy's pages do. A lone gang then runs: its cores hold the record's world, address space, trap vector and lease, no context, cleared flag words and full bits, and scratchpads wiped where the world changed, with their mailboxes, z and y tiles and engine queues as they were; a start message goes to one core of every pot of the gang. A member of a larger blend reports, and starts on its verdict; the tray of rank 0 keeps the reports until it can judge, and lets the blend start only where no record was refused, as many have reported as SIZE says, and their sizes, worlds and address spaces agree and their ranks differ. Which world a dispatch compares with, and that a lone gang too is refused with CODE 0x33 for a window range beyond its members' memory, are the model's readings (DEDUCED, logs 18 and 30). -/
def Obligations.GangsDispatch : Prop :=
  (∀ (s : State) (g : Gang), SMap.find s.gangs s.sel.a = some g → g.st = .ready → s.commandBusy g.part = false → s.queueRuns g.part g.record.queue = true →
    s.placeable s.sel.a g = true → s.outranked s.sel.a g = false →
    let far := s.remoteRanges g.record
    (∀ n, s.caddyFault g.record = some n → exec .gangDispatch s = .next (s.refuseReady s.sel.a g (0x20 + n)))
    ∧ (s.caddyFault g.record = none → g.asked = false → far ≠ [] → ∃ t g', exec .gangDispatch s = .next t ∧ SMap.find t.gangs s.sel.a = some g' ∧ g'.asked = true
        ∧ g'.st = .ready ∧ (t.part g.part).outbox = (s.part g.part).outbox ++ far.map (fun p => .request s.sel.a p.1 p.2) ∧ ∀ n, t.core n = s.core n)
    ∧ (s.caddyFault g.record = none → g.asked = true → (∃ p ∈ far, SMap.find g.answers p.1 = none) → exec .gangDispatch s = .next s)
    ∧ (∀ n r, s.caddyFault g.record = none → g.asked = true → (∀ p ∈ far, SMap.find g.answers p.1 ≠ none) →
        far.find? (fun p => SMap.find g.answers p.1 == some false) = some (n, r) → exec .gangDispatch s = .next (s.refuseReady s.sel.a g (0x20 + n))))
  ∧ (∀ (s : State) (g : Gang), SMap.find s.gangs s.sel.a = some g → g.st = .ready → s.commandBusy g.part = false → s.queueRuns g.part g.record.queue = true →
    s.placeable s.sel.a g = true → s.outranked s.sel.a g = false → s.caddyFault g.record = none →
    s.remoteRanges g.record = [] ∨ (g.asked = true ∧ ∀ p ∈ s.remoteRanges g.record, SMap.find g.answers p.1 = some true) →
    (g.record.size = 1 → g.record.windowOk g.part = true → ∃ t : State, exec .gangDispatch s = .next t
      ∧ (∃ g', SMap.find t.gangs s.sel.a = some g' ∧ g'.st = .running ∧ g'.cores = g.cores ∧ g'.record = g.record)
      ∧ (∀ n ∈ g.cores, let k := t.core n
          k.gang = some s.sel.a ∧ k.ctxs = [] ∧ k.secure = g.record.secure ∧ k.asid = g.record.asid ∧ k.ceil = g.record.prio ∧ k.lease = g.record.lease
          ∧ k.tvec = g.record.dw 0x38 &&& ~~~ 7 ∧ k.tiles = (s.core n).tiles ∧ k.mb = (s.core n).mb
          ∧ k.mq = (s.core n).mq ∧ k.stream = (s.core n).stream ∧ k.vq = (s.core n).vq ∧ k.tq = (s.core n).tq ∧ k.holders = [] ∧ k.xdone = [] ∧ k.ctr = [] ∧ k.twin = false
          ∧ (∀ f, f < 1024 → t.flag (flagLoc n f) = 0) ∧ (∀ o, o < 0x80000 → t.isFull (padLoc n + o) = false)
          ∧ ((s.core n).prevWorld ≠ some g.record.secure → ∀ o, o < 0x80000 → SMap.get Memory.unlisted t.mem (padLoc n + o) = Memory.unlisted))
      ∧ ∃ l, t.ents = s.ents ++ l ∧ l.map (fun e => e.tgt) = potRoots g.cores
          ∧ ∀ e ∈ l, e.kind = .start g.record.pc g.record.arg g.record.prio 2 ∧ e.phase = .channel ∧ e.gang = s.sel.a)
    ∧ (g.record.size = 1 → g.record.windowOk g.part = false → ∃ t g', exec .gangDispatch s = .next t ∧ SMap.find t.gangs s.sel.a = some g' ∧ g'.st = .ended
        ∧ ∀ n, t.core n = s.core n)
    ∧ (1 < g.record.size → exec .gangDispatch s =
        .next (((s.makeAllResident g.record).setGang s.sel.a { g with st := .reported }).tellBlend g.part g.record false)
      ∧ (g.record.rank ≠ 0 → ∃ t g', exec .gangDispatch s = .next t ∧ SMap.find t.gangs s.sel.a = some g' ∧ g'.st = .reported ∧ ∀ n, t.core n = s.core n)))
  ∧ (∀ (s : State) (id : Nat) (r : BlendReport), s.sel.inp = .news (.report id r) → s.isPart s.sel.a = true →
    let b := SMap.get {} (s.tray s.sel.a).blends id
    b.verdict = none → blendVerdict (b.reports ++ [r]) = none →
    ∃ t : State, exec .blendReport s = .next t ∧ t.gangs = s.gangs ∧ (SMap.get {} (t.tray s.sel.a).blends id).reports = b.reports ++ [r])
  ∧ (∀ l : List BlendReport, blendVerdict l = some 0 →
      (∀ a ∈ l, a.refused = false ∧ a.size ≤ l.length ∧ (∀ k, k < a.size → ∃ r ∈ l, r.rank = k)
          ∧ ∀ b ∈ l, a.size = b.size ∧ a.secure = b.secure ∧ a.asid = b.asid) ∧ (l.map BlendReport.rank).Nodup)
  ∧ (∀ (s : State) (g : Gang), SMap.find s.gangs s.sel.a = some g → g.st = .reported → s.commandBusy g.part = false →
    (g.go = true → exec .gangDispatch s = .next (s.dispatch s.sel.a g)) ∧ (g.go = false → exec .gangDispatch s = .next s))
  ∧ (∀ (s : State) (g : Gang) (b : BlendNews), SMap.find s.gangs s.sel.a = some g → s.sel.inp = .news b →
    (b = .start → g.st = .reported → g.record.rank ≠ 0 → g.record.windowOk g.part = true → exec .blendReport s = .next (s.setGang s.sel.a { g with go := true }))
    ∧ (b = .start → g.st = .reported → g.record.rank ≠ 0 → g.record.windowOk g.part = false → exec .blendReport s = .next (s.refuseGang s.sel.a g 0x33))
    ∧ (∀ code, b = .refuse code → g.st = .reported → g.record.rank ≠ 0 → exec .blendReport s = .next (s.refuseGang s.sel.a g code))
    ∧ (∀ r, b = .peerDone r → exec .blendReport s = .next ((s.setGang s.sel.a { g with peers := SMap.put .unknown g.peers r .done }).settleBars s.sel.a))
    ∧ (∀ r, b = .peerGone r → s.liveThreads g = [] → ∃ t g', exec .blendReport s = .next t ∧ SMap.find t.gangs s.sel.a = some g'
        ∧ SMap.get .unknown g'.peers r = .gone ∧ g'.torn = some (SMap.get ⟨false, 0, 0⟩ g.record.blend r).module
        ∧ (g.saved = [] → (SMap.get {} g'.bars (2 ^ 20 + 1)).arrived = [])))
  ∧ (∀ (s : State) (gid : Nat) (g : Gang) (code : Nat), ∃ g', SMap.find (s.refuseGang gid g code).gangs gid = some g' ∧ g'.st = .ended ∧ g'.held = []
      ∧ ∀ n, (s.refuseGang gid g code).core n = s.core n)
  ∧ ∀ (s : State) (gid : Nat) (g : Gang) (e : Blend), s.sel.c = 0 → (s.core s.sel.a).gang = some gid → SMap.find s.gangs gid = some g → s.sel.b ≠ g.record.rank →
    (s.sel.flag = true → SMap.get .unknown g.peers s.sel.b = .unknown) → SMap.find (s.core s.sel.a).blend s.sel.b = some e →
    ∃ t : State, exec .residencyBroadcast s = .next t ∧ SMap.find (t.core s.sel.a).blend s.sel.b = some { e with res := s.sel.flag }
      ∧ ∀ r, r ≠ s.sel.b → SMap.find (t.core s.sel.a).blend r = SMap.find (s.core s.sel.a).blend r

/-- R319-R323, R391, R395: a finished gang of a larger blend tells its peers; one that its blend and its commands release is detached with DONE; a fatal fault ends a gang with FAULTED, the code and the core; the cores it leaves keep their lease tables, tiles and mailboxes; a saved one leaves its cores and keeps their state and its ranges in other modules, and a resumed one gets it back where every image is acceptable, and ends where one is not; a context comes back WAITING as it was saved, or READY with a new stamp. The form of withdrawn waits in a save is the model's reading (DEDUCED, log 32); that what of a core's state has no place of the spec's in the save area is kept with the gang, that a save and a restore wait for translations of the save area, and that the handle of a collective that rejoins is RESOLVED in the save and PENDING again afterwards, are its choices (DESIGN CHOICE, logs 33, 11 and 76), that the save of a pre-emption waits for an INVAL or REVOKE in progress its reading (DEDUCED, log 95), and which peers end the hold of a finished gang its reading (DEDUCED, log 75). -/
def Obligations.GangsEndAndReturn : Prop :=
  (∀ g : Gang, g.record.size = 1 → g.released = true)
  ∧ (∀ (s : State) (g : Gang), SMap.find s.gangs s.sel.a = some g → g.st = .running → g.discarding = false → s.gangDone s.sel.a g = true → g.released = true →
      s.commandsDone s.sel.a = true → g.record.size = 1 ∨ g.told = true →
    exec .gangDetach s = .next ((s.dropGang s.sel.a g .ended 1).signal g.part g.record 1 0 0))
  ∧ (∀ (s : State) (g : Gang), SMap.find s.gangs s.sel.a = some g → g.st = .running → g.discarding = false → s.gangDone s.sel.a g = true →
      g.record.size ≠ 1 → g.told = false →
    exec .gangDetach s = .next ((s.setGang s.sel.a { g with told := true }).setPart g.part { s.part g.part with
      outbox := (s.part g.part).outbox ++ [.finished ((g.record.dw 0x68).bits 32 32) g.record.rank] }))
  ∧ (∀ (s : State) (gid : Nat) (g : Gang), fatalCode s.sel.b = true → (s.core s.sel.a).gang = some gid → SMap.find s.gangs gid = some g →
    exec .gangEnd s = .next (((s.dropGang gid g .ended 2).tellGone g).signal g.part g.record 2 s.sel.b s.sel.a))
  ∧ (∀ (s : State) (gid : Nat) (g : Gang) (st : GState) (info : Nat), let t := s.dropGang gid g st info
    (∃ g', SMap.find t.gangs gid = some g' ∧ g'.st = st ∧ g'.halting = false ∧ (st ≠ .ended → g'.held = g.held))
      ∧ (∀ n ∈ g.cores, (t.core n).gang = none ∧ (t.core n).ctxs = [])
      ∧ ∀ n, (t.core n).lease = (s.core n).lease ∧ (t.core n).tiles = (s.core n).tiles ∧ (t.core n).mb = (s.core n).mb ∧ (t.core n).handles = (s.core n).handles
        ∧ (t.core n).vq = (s.core n).vq ∧ (t.core n).mq = (s.core n).mq ∧ (t.core n).tq = (s.core n).tq ∧ (t.core n).stream = (s.core n).stream)
  ∧ (∀ (s : State) (gid : Nat) (g : Gang), s.isPart s.sel.a = true → s.cmdOp s.sel.a = 3 →
      s.gangOfRecord s.sel.a (s.cmdQueue s.sel.a) (s.cmdIndex s.sel.a) = some (gid, g) → g.st = .running → g.halting = true → s.gangQuiet gid g = true →
      (s.part s.sel.a).portBusy = true ∨ s.saveReach g = false → exec .preempt s = .next s)
  ∧ (∀ (s : State) (gid : Nat) (g : Gang), s.isPart s.sel.a = true → s.cmdOp s.sel.a = 3 → (s.part s.sel.a).portBusy = false →
      s.gangOfRecord s.sel.a (s.cmdQueue s.sel.a) (s.cmdIndex s.sel.a) = some (gid, g) → g.st = .running → g.halting = true → s.gangQuiet gid g = true →
      s.saveReach g = true →
    ∃ t g', exec .preempt s = .next t ∧ SMap.find t.gangs gid = some g' ∧ g'.st = .saved ∧ (∀ n ∈ g.cores, (t.core n).gang = none)
      ∧ g'.saved = g.cores.map (fun n => (n, (s.core n).saving)) ∧ g'.held = g.held ∧ t.command s.sel.a = 0)
  ∧ (∀ (k : Core) (c : Ctx), (∀ i, (k.saving.handle i).st ≠ .pending ∧ ((k.handle i).st ≠ .pending → k.saving.handle i = k.handle i))
      ∧ ∀ r, 0 < r → r < 32 → ((c.saving k).hpend.getLsbD r = true ↔
          c.hpend.getLsbD r = true ∧ ¬ ((k.handle ((c.gr r).bits 0 6)).st = .pending ∧ (k.handle ((c.gr r).bits 0 6)).gen = (c.gr r).bits 8 8)))
  ∧ (∀ (s : State) (gid : Nat) (g : Gang), s.isPart s.sel.a = true → s.cmdOp s.sel.a = 3 →
      s.gangOfRecord s.sel.a (s.cmdQueue s.sel.a) (s.cmdIndex s.sel.a) = some (gid, g) → g.st = .running → g.halting = false → s.gangDone gid g = false →
    exec .preempt s = .next (s.halt gid g true))
  ∧ (∀ (s : State) (gid : Nat) (g : Gang), s.isPart s.sel.a = true → s.cmdOp s.sel.a = 4 →
      s.gangOfRecord s.sel.a (s.cmdQueue s.sel.a) (s.cmdIndex s.sel.a) = some (gid, g) → g.st = .saved →
    exec .resume s = .next ((s.setGang gid { g with st := .resumed }).commandDone s.sel.a))
  ∧ (∀ (s : State) (gid : Nat) (g : Gang), s.isPart s.sel.a = true → s.cmdOp s.sel.a = 5 →
      s.gangOfRecord s.sel.a (s.cmdQueue s.sel.a) (s.cmdIndex s.sel.a) = some (gid, g) → g.st = .running → s.gangDone gid g = true →
    exec .force s = .next ((s.setGang gid { g with forced := true }).commandDone s.sel.a))
  ∧ (∀ (s : State) (g : Gang) (n : Nat), SMap.find s.gangs s.sel.a = some g → g.st = .resumed → s.commandBusy g.part = false → g.cores.all s.coreFree = true →
      s.saveReach g = true → s.outranked s.sel.a g = false → g.torn = none → (s.restoreAll s.sel.a g).2 = some n → n ∈ g.cores →
    ∃ t g', exec .gangRestore s = .next t ∧ SMap.find t.gangs s.sel.a = some g' ∧ g'.st = .ended)
  ∧ (∀ (s : State) (g : Gang), SMap.find s.gangs s.sel.a = some g → g.st = .resumed → s.commandBusy g.part = false → g.cores.all s.coreFree = true →
      s.saveReach g = true → s.outranked s.sel.a g = false → g.torn = none → (s.restoreAll s.sel.a g).2 = none → s.savePoisoned g = none →
    ∃ t g', exec .gangRestore s = .next t ∧ SMap.find t.gangs s.sel.a = some g' ∧ g'.st = .running
      ∧ ∀ n ∈ g.cores, let k := SMap.get {} g.saved n
        (t.core n).gang = some s.sel.a ∧ (t.core n).tvec = k.tvec ∧ (t.core n).asid = k.asid ∧ (t.core n).secure = k.secure ∧ (t.core n).lease = k.lease
        ∧ (∀ i, (t.core n).handle i = if ∃ c ∈ g.restart, c.core = n ∧ c.isColl = true ∧ c.hidx = i ∧ i < 64 then { k.handle i with st := .pending } else k.handle i)
        ∧ (t.core n).xdone = k.xdone ∧ (t.core n).holders = k.holders ∧ (t.core n).twin = k.twin)
  ∧ ∀ (c : Ctx) (time : Word), (∀ b, c.busy ≠ .released b) → let d := { c with hpend := c.hpend ||| c.held, held := 0 }
      c.readBack time c.image =
      some (if c.wait.bits 0 4 = 0 then { d with st := .ready, stamp := time, busy := .none, wait := 0 } else { d with st := .waiting, stamp := time })

/-- R301, R306, R325, R326: the commands of a partition: DRAIN stops the taking of records, and a draining queue none of whose gangs has been dispatched and not ended stops; ABORT first marks the queue ABORTING and notes WRITE, and at the end the queue is STOPPED with READ there, no pooled record of it and no gang but those that keep their DONE; a running one that is quiet leaves its cores with ABORTED; REOPEN makes a stopped queue ACTIVE; an operation out of range is cleared. Every one ends with the command word 0. -/
def Obligations.PartitionCommands : Prop :=
  ∀ s : State, let p := s.sel.a
    s.isPart p = true →
    (s.cmdOp p = 1 → s.qState p (s.cmdQueue p) = 0 ∨ s.qState p (s.cmdQueue p) = 2 →
      ∃ t : State, exec .drain s = .next t ∧ t.qState p (s.cmdQueue p) = 1 ∧ t.qOverrun p (s.cmdQueue p) = s.qOverrun p (s.cmdQueue p) ∧ t.command p = 0
        ∧ s.cmdQueue p ∈ (t.part p).drained ∧ (t.part p).pool = (s.part p).pool ∧ t.gangs = s.gangs)
    ∧ (∀ q, q ∈ (s.part p).drained → s.qState p q ≠ 0 → s.queueRuns p q = false)
    ∧ (∀ q, s.cmdOp p ≠ 1 → (rangeFrom 0 16).find? (fun q => s.qState p q == 1 && !s.queueBusy p q) = some q →
        exec .drain s = .next (s.setQState p q 2 (s.qOverrun p q)))
    ∧ (s.cmdOp p = 6 → s.qState p (s.cmdQueue p) = 2 → 
        ∃ t : State, exec .reopen s = .next t ∧ t.qState p (s.cmdQueue p) = 0 ∧ t.qOverrun p (s.cmdQueue p) = false ∧ t.command p = 0
          ∧ s.cmdQueue p ∉ (t.part p).drained ∧ t.queueRuns p (s.cmdQueue p) = true)
    ∧ (6 < s.cmdOp p → exec .reopen s = .next (s.commandDone p))
    ∧ (s.cmdOp p = 2 → s.qState p (s.cmdQueue p) ≠ 3 → exec .abort s = .next (s.beginAbort p (s.cmdQueue p))
        ∧ (s.beginAbort p (s.cmdQueue p)).qState p (s.cmdQueue p) = 3 ∧ ((s.beginAbort p (s.cmdQueue p)).part p).abortTo = s.qWrite p (s.cmdQueue p))
    ∧ (∀ gid g, s.cmdOp p = 2 → s.qState p (s.cmdQueue p) = 3 → SMap.find s.gangs gid = some g → g.st = .running →
        s.gangs.filter (fun x => x.2.part == p && x.2.record.queue == s.cmdQueue p && x.2.st != .ended && !x.2.kept) = [(gid, g)] →
        (g.discarding = false → exec .abort s = .next (s.halt gid g false))
        ∧ (g.discarding = true → s.gangQuiet gid g = true → ∃ t g', exec .abort s = .next t ∧ SMap.find t.gangs gid = some g' ∧ g'.st = .ended
            ∧ (∀ n ∈ g.cores, (t.core n).gang = none) ∧ t.command p = 0)
        ∧ ∃ u : State, s.discard gid g = u.signal p g.record 3 0 0)
    ∧ (∀ (r : Rec) (st code core l i : Nat), s.sysLoc r.env r.signal = some l → i < 8 →
        SMap.get Memory.unlisted (s.signal p r st code core).mem (l + i) = (leBytes 8 (st + 2 ^ 8 * code + 2 ^ 16 * core)).getD i 0)
    ∧ (s.cmdOp p = 2 → s.qState p (s.cmdQueue p) = 3 → (∀ x ∈ s.gangs, x.2.part = p → x.2.record.queue = s.cmdQueue p → x.2.st = .ended ∨ x.2.kept = true) →
        ∃ t : State, exec .abort s = .next t ∧ t.qState p (s.cmdQueue p) = 2 ∧ t.command p = 0 ∧ ((s.part p).abortTo < 2 ^ 32 → t.qRead p (s.cmdQueue p) = (s.part p).abortTo)
          ∧ (∀ r ∈ (t.part p).pool, r.queue ≠ s.cmdQueue p) ∧ ∀ n, t.core n = s.core n)
    ∧ (s.commandDone p).command p = 0
    ∧ (∀ q st ovr, q < 16 → st < 4 → (s.setQState p q st ovr).qState p q = st ∧ (s.setQState p q st ovr).qOverrun p q = ovr)

/-- R146, R148, R319-R323: where the return from a trap and the moves that end, save and bring back a gang complete: ERET in supervisor mode with no bit pending and s.epc at a header or a word, in the mode that PMODE names, with every register as it was; a detach once every thread has exited and the blend and the gang's commands are done; an end at a fatal fault; a pre-emption once the gang is quiet and its save area can be written, while no INVAL or REVOKE is in progress; a resumption of a saved gang; a force of a gang whose threads have exited; and a restore once the gang's cores are free, its save area can be read and its images are acceptable. Each command of a partition ends with the command word 0. That the save area may have to wait for translations is the model's choice (DESIGN CHOICE, log 11), and the wait for the table port its reading (DEDUCED, log 95). -/
def Obligations.ReturnsAndGangMovesComplete : Prop :=
  (∀ s : State, s.clear { priv := true, all := true } = true → ((∃ s' b, s.returnTo = .header s' b) ∨ ∃ s' b j, s.returnTo = .inside s' b j) →
    ∃ t : State, exec .eret s = .next t ∧ (t.ctx s.cur).sup = (s.ctx s.cur).cause.toNat.testBit 16
      ∧ (((∃ s' b, s.returnTo = .header s' b) ∨ ∃ s' b j, s.returnTo = .inside s' b j ∧ j < b.len) → (t.ctx s.cur).pc = (s.ctx s.cur).epc)
      ∧ (∀ r, (t.ctx s.cur).gr r = (s.ctx s.cur).gr r ∧ (t.ctx s.cur).vr r = (s.ctx s.cur).vr r ∧ (t.ctx s.cur).kr r = (s.ctx s.cur).kr r) ∧ s.memoryKept t)
  ∧ (∀ (s : State) (g : Gang), SMap.find s.gangs s.sel.a = some g → g.st = .running → g.discarding = false → s.gangDone s.sel.a g = true → g.released = true →
      s.commandsDone s.sel.a = true → g.record.size = 1 ∨ g.told = true →
    ∃ t g', exec .gangDetach s = .next t ∧ SMap.find t.gangs s.sel.a = some g' ∧ g'.st = .ended ∧ ∀ n ∈ g.cores, (t.core n).gang = none ∧ (t.core n).ctxs = [])
  ∧ (∀ (s : State) (gid : Nat) (g : Gang), fatalCode s.sel.b = true → (s.core s.sel.a).gang = some gid → SMap.find s.gangs gid = some g →
    ∃ t g', exec .gangEnd s = .next t ∧ SMap.find t.gangs gid = some g' ∧ g'.st = .ended ∧ ∀ n ∈ g.cores, (t.core n).gang = none ∧ (t.core n).ctxs = [])
  ∧ (∀ (s : State) (gid : Nat) (g : Gang), let p := s.sel.a
    s.isPart p = true → s.gangOfRecord p (s.cmdQueue p) (s.cmdIndex p) = some (gid, g) →
    (s.cmdOp p = 3 → (s.part p).portBusy = false → g.st = .running → g.halting = true → s.gangQuiet gid g = true → s.saveReach g = true →
      ∃ t g', exec .preempt s = .next t ∧ SMap.find t.gangs gid = some g' ∧ g'.st = .saved ∧ t.command p = 0 ∧ ∀ n ∈ g.cores, (t.core n).gang = none)
    ∧ (s.cmdOp p = 4 → g.st = .saved → ∃ t : State, exec .resume s = .next t ∧ SMap.find t.gangs gid = some { g with st := .resumed } ∧ t.command p = 0)
    ∧ (s.cmdOp p = 5 → g.st = .running → s.gangDone gid g = true →
      ∃ t : State, exec .force s = .next t ∧ SMap.find t.gangs gid = some { g with forced := true } ∧ t.command p = 0))
  ∧ ∀ (s : State) (g : Gang), SMap.find s.gangs s.sel.a = some g → g.st = .resumed → s.commandBusy g.part = false → g.cores.all s.coreFree = true →
      s.saveReach g = true → s.outranked s.sel.a g = false → g.torn = none → (s.restoreAll s.sel.a g).2 = none → s.savePoisoned g = none →
    ∃ t g', exec .gangRestore s = .next t ∧ SMap.find t.gangs s.sel.a = some g' ∧ g'.st = .running ∧ ∀ n ∈ g.cores, (t.core n).gang = some s.sel.a

/-! ## Tables -/

/-- R385, R387, R389, R390, R393, R397, R362, R363: a walk that ends in a valid entry caches it and one that does not caches nothing; each operation of the table port has its effect and ends with its status and OP 0. That an invalid entry is not cached, and that a PTE whose entry has no place is refused, are the model's readings (DEDUCED, logs 41 and 42), as is that an INVAL or REVOKE does not begin while a PREEMPT or ABORT is carried out (DEDUCED, log 95); that an INVAL of a page count out of range is refused is its choice (DESIGN CHOICE, log 90); that a PTE ends the record of contents in the second tier is the model's choice (DESIGN CHOICE, log 28). -/
def Obligations.TablePort : Prop :=
  (∀ (s : State) (k : Nat) (l : List Nat), (s.owner s.sel.a).walks = k :: l → k < 2 ^ 60 →
    let e := s.walkPage s.sel.a (k / 2 ^ 24) (k % 2 ^ 24)
    ∃ t : State, exec .tlbWalk s = .next t ∧ (t.owner s.sel.a).walks = l ∧ s.memoryKept t
      ∧ (pageValid s.sel.a e = true → SMap.find (t.owner s.sel.a).tlb k = some e ∧ ∀ j, j ≠ k → SMap.find (t.owner s.sel.a).tlb j = SMap.find (s.owner s.sel.a).tlb j)
      ∧ (pageValid s.sel.a e = false → (t.owner s.sel.a).tlb = (s.owner s.sel.a).tlb))
  ∧ ∀ s : State, let p := s.sel.a
    let o := s.tpTarget p
    let a (i : Nat) := s.tpArg p i
    s.isPart p = true →
    (s.tpOp p = 1 → s.ownerIn p o = true →
      (∀ x, s.pteSlot o (s.tpAsid p) (a 0) = some x → let s' := s.writeNat (mkLoc ownModule o x) 8 (a 1).toNat
        exec .pte s = .next ((s'.setOwner o ((s'.owner o).unaway ((a 0).bits 36 3) (pageKey (s.tpAsid p) ((a 0).bits 0 24)))).tpDone p 0))
      ∧ (s.pteSlot o (s.tpAsid p) (a 0) = none → exec .pte s = .next (s.tpDone p 1)))
    ∧ (s.tpOp p = 1 → s.ownerIn p o = false → exec .pte s = .next (s.tpDone p 1))
    ∧ (s.tpOp p = 2 → (s.part p).inval = none → s.queueCommand p = true → exec .inval s = .next s)
    ∧ (s.tpOp p = 2 → (s.part p).inval = none → s.queueCommand p = false → s.ownerIn p o = false ∨ a 1 = 0 ∨ 2 ^ 24 < (a 1).toNat → exec .inval s = .next (s.tpDone p 1))
    ∧ (s.tpOp p = 3 → (s.part p).revoking = none → s.queueCommand p = true → exec .revoke s = .next s)
    ∧ (s.tpOp p = 2 → (s.part p).inval = none → s.queueCommand p = false → s.ownerIn p o = true → 1 ≤ (a 1).toNat → (a 1).toNat ≤ 2 ^ 24 →
        ∃ t : State, exec .inval s = .next t ∧ (t.part p).inval = some (s.usersOf o (s.tpAsid p) ((a 0).toNat % 2 ^ 24) (a 1).toNat) ∧ s.memoryKept t
          ∧ (∀ j, (a 0).toNat % 2 ^ 24 ≤ j → j < (a 0).toNat % 2 ^ 24 + (a 1).toNat → j < 2 ^ 24 → SMap.find (t.owner o).tlb (pageKey (s.tpAsid p) j) = none)
          ∧ ∀ x j, x ≠ s.tpAsid p → j < 2 ^ 24 → SMap.find (t.owner o).tlb (pageKey x j) = SMap.find (s.owner o).tlb (pageKey x j))
    ∧ (∀ l, s.tpOp p = 2 → (s.part p).inval = some l → (∀ i ∈ l, s.stillIn i = false) →
        exec .inval s = .next ((s.setPart p { s.part p with inval := none }).tpDone p 0))
    ∧ (∀ l, s.tpOp p = 2 → (s.part p).inval = some l → (∃ i ∈ l, s.stillIn i = true) → exec .inval s = .next s)
    ∧ (∀ gid g l, s.tpOp p = 3 → (s.part p).revoking = none → s.queueCommand p = false → s.gangOfRecord p ((a 0).bits 4 4) ((a 0).bits 16 32) = some (gid, g) → g.st = .running →
        SMap.find g.record.lease ((a 1).bits 0 4) = some l →
        ∃ t : State, exec .revoke s = .next t ∧ (t.part p).revoking = some (gid, (a 1).bits 0 4, l) ∧ s.memoryKept t
          ∧ (∀ n ∈ g.cores, SMap.find (t.core n).lease ((a 1).bits 0 4) = none) ∧ (∀ n, n ∉ g.cores → t.core n = s.core n))
    ∧ (∀ gid i l, s.tpOp p = 3 → (s.part p).revoking = some (gid, i, l) → s.rangeBusy gid l = false → SMap.find s.gangs gid = none →
        exec .revoke s = .next ((s.setPart p { s.part p with revoking := none }).tpDone p 0))
    ∧ (∀ gid g i l h, s.tpOp p = 3 → (s.part p).revoking = some (gid, i, l) → s.rangeBusy gid l = false → SMap.find s.gangs gid = some g → g.held = [(i, h)] →
        ∃ t g', exec .revoke s = .next t ∧ SMap.find t.gangs gid = some g' ∧ g'.held = [] ∧ (t.part g.part).outbox = (s.part g.part).outbox ++ [.release h]
          ∧ (t.part p).revoking = none)
    ∧ (∀ gid i l, s.tpOp p = 3 → (s.part p).revoking = some (gid, i, l) → s.rangeBusy gid l = true → exec .revoke s = .next s)
    ∧ (∀ gid l i c, (i, c) ∈ s.cmds → c.gang = gid → (c.stage = .block ∨ c.block.length = 64) → s.meetsRange l (c.ra, 64) = true → s.rangeBusy gid l = true)
    ∧ (∀ i, s.tpOp p = 4 → s.potIn p o = true → (a 0).bits 16 4 ≤ 9 → (s.tray o).freeName = some i → (s.tray o).nameKey ((a 0).bits 0 16) (s.tpAsid p) = none →
        s.bufPlace o (a 1) ((a 2).bits 0 45) = true → ∃ t : State, exec .bufreg s = .next t
          ∧ SMap.find (t.tray o).names i = some ⟨(a 0).bits 20 1 == 1, (a 0).bits 16 4, s.tpAsid p, (a 0).bits 0 16, a 1, (a 2).bits 0 45⟩
          ∧ t.tpOp p = 0 ∧ t.readNat (portLoc p + 0x38) 1 = 0)
    ∧ (∀ i, s.tpOp p = 5 → s.potIn p o = true → (s.tray o).nameKey ((a 0).bits 0 16) (s.tpAsid p) = some i →
        ∃ t : State, exec .bufdel s = .next t ∧ SMap.find (t.tray o).names i = none ∧ t.tpOp p = 0 ∧ t.readNat (portLoc p + 0x38) 1 = 0)
    ∧ (s.tpOp p = 5 → (s.tray o).nameKey ((a 0).bits 0 16) (s.tpAsid p) = none → exec .bufdel s = .next (s.tpDone p 1))
    ∧ (let d : Desc := [a 1, a 2, 0, 0]
       let c := (a 0).bits 0 6
       s.tpOp p = 6 → descV d = true →
        (descV (SMap.get [] (s.part p).caddies c) = true ∨ s.descRefused p d = true → exec .caddy s = .next (s.tpDone p 1))
        ∧ (descV (SMap.get [] (s.part p).caddies c) = false → s.descRefused p d = false → (∀ x ∈ (s.part p).clearing, x.1 ≠ c) →
            exec .caddy s = .next (((s.setPart p { s.part p with caddies := SMap.ins (s.part p).caddies c d }).startShards p c d).tpDone p 0)))
    ∧ (∀ w, w < 16 → (s.tpDone p w).tpOp p = 0 ∧ (s.tpDone p w).readNat (portLoc p + 0x38) 1 = w)

/-- R204, R208, R386, R390: a page or sub-page in a move has MOVE set and no translation left; at its end the frame's contents stand at the new frame, one that nothing uses, which the entry then names with MOVE cleared; a page that no lease covers may go to the second tier instead; a range of another module is held resident until it is released, its request answered, and the answer to a request of this module is taken. Where the second tier keeps a page, and that a request waits while its pages are not ready, is the model's choice (DESIGN CHOICE, log 28), as is which launch engine answers for an owner (DESIGN CHOICE, log 8). -/
def Obligations.PagesMove : Prop :=
  (∀ (s : State) (x : Nat) (e : Word), s.framed s.sel.a s.sel.b s.sel.c s.sel.d = some (x, e) → 32 ≤ s.sel.a → s.sel.a ≤ 65 →
    (e.bits 60 1 = 0 → exec .pageMove s = .next ((s.writeNat (mkLoc ownModule s.sel.a x) 8 (e ||| word (2 ^ 60)).toNat).invalidate s.sel.a s.sel.b s.sel.c 1))
    ∧ (e.bits 60 1 = 1 → exec .pageMove s = .next s))
  ∧ (∀ (s : State) (x : Nat) (e : Word), s.framed s.sel.a s.sel.b s.sel.c s.sel.sub = some (x, e) → 32 ≤ s.sel.a → s.sel.a ≤ 65 → e.bits 60 1 = 1 →
    let n := frameSize e s.sel.sub
    let old := e.bits 0 45
    (s.frameUsed s.sel.a old n = true → exec .pageMoveEnd s = .next s)
    ∧ (s.frameUsed s.sel.a old n = false → s.sel.flag = false →
      (s.frameFree s.sel.a (n * s.sel.d) n = true → exec .pageMoveEnd s = .next (((s.copyBytes (mkLoc ownModule s.sel.a old) (mkLoc ownModule s.sel.a (n * s.sel.d)) n).writeNat
          (mkLoc ownModule s.sel.a x) 8 (e.toNat - 2 ^ 60 - old + n * s.sel.d)).invalidate s.sel.a s.sel.b s.sel.c 1))
      ∧ (s.frameFree s.sel.a (n * s.sel.d) n = false → exec .pageMoveEnd s = .next s))
    ∧ (s.frameUsed s.sel.a old n = false → s.sel.flag = true → n = 2 ^ 21 → s.sel.a < 64 → s.sel.d < 2 ^ 20 → s.pageLeased s.sel.a s.sel.b s.sel.c = false →
        let l := mkLoc ownModule (64 + s.sel.d / 2 ^ 19) (2 ^ 21 * (s.sel.d % 2 ^ 19))
        s.frameFree (64 + s.sel.d / 2 ^ 19) (2 ^ 21 * (s.sel.d % 2 ^ 19)) (2 ^ 21) = true →
        ∃ t : State, exec .pageMoveEnd s = .next t ∧ SMap.find (t.owner s.sel.a).away (pageKey s.sel.b s.sel.c) = some l
          ∧ t.readNat (mkLoc ownModule s.sel.a x) 8 = 2 ^ 61 * e.bits 61 1))
  ∧ (∀ (s : State) (a b n i : Nat), i < n → SMap.get Memory.unlisted (s.copyBytes a b n).mem (b + i) = SMap.get Memory.unlisted s.mem (a + i))
  ∧ (∀ (s : State) (gid : Nat) (g : Gang) (r : RemoteRange), s.sel.inp = .none → s.sel.a = gid + 1 → SMap.find s.gangs gid = some g → g.asked = true → g.st ≠ .ended →
      (s.remoteRanges g.record).find? (fun p => p.1 == s.sel.b) = some (s.sel.b, r) → SMap.find g.answers s.sel.b = none →
      exec .residencyRequest s = .next (s.setGang gid { g with
        answers := SMap.ins g.answers s.sel.b s.sel.flag, held := if s.sel.flag then g.held ++ [(s.sel.b, r)] else g.held }))
  ∧ ∀ (s : State) (r : RemoteRange), s.sel.inp = .remote r →
    let l : Lease := { base := r.base, r := true, w := true, secure := r.secure, len := r.length, map := 0 }
    let p := s.ownerPart (ownerOf r.base)
    (s.remoteRefused l r.asid = false → s.pagesReady r.asid (s.leasePages l) = true → s.sliceHeld l = false →
      ∃ t : State, exec .residencyRequest s = .next t ∧ (t.part p).remote = (s.part p).remote ++ [r] ∧ (t.part p).outbox = (s.part p).outbox ++ [.answer r true])
    ∧ (s.remoteRefused l r.asid = true → exec .residencyRequest s = .next (s.sendFar p [.answer r false]))
    ∧ (s.remoteRefused l r.asid = false → s.pagesReady r.asid (s.leasePages l) = false → exec .residencyRequest s = .next s)
    ∧ exec .residencyRelease s = .next (s.setPart p { s.part p with remote := (s.part p).remote.erase r })

/-! ## Subscriptions, collectives and the caddy -/

/-- R266, R267: a loading subscription takes up its next tile when the last granule of its slot is empty, a storing one when it is full; with every tile moved, or once it is ended, its engine sends its tile count as STATUS and its SID is free again. -/
def Obligations.SubscriptionMoves : Prop :=
  ∀ (s : State) (c : Cmd) (rd ra : GReg) (own : Bool) (p : Fin 32), SMap.find s.cmds s.sel.a = some c → c.instr = .traySub rd ra own p → c.stage = .begun → c.phase = 0 → c.out = 0 →
    (c.ended = false → c.num < c.ntiles → 0 < c.slotBytes →
      (c.stores = false → s.slotFull c = false → exec .subscriptionTileLoad s = .next (s.setCmd { c with phase := 1, line := 0 }))
      ∧ (c.stores = false → s.slotFull c = true → exec .subscriptionTileLoad s = .next s)
      ∧ (c.stores = true → s.slotFull c = true → exec .subscriptionTileStore s = .next (s.setCmd { c with phase := 1, line := 0 }))
      ∧ (c.stores = true → s.slotFull c = false → exec .subscriptionTileStore s = .next s)
      ∧ exec .subscriptionEnd s = .next s)
    ∧ ((c.ended = true ∨ c.ntiles ≤ c.num) → c.fresh = false → (s.tray c.pot).subq = [] →
      ∃ (t : State) (l : List Entry), exec .subscriptionEnd s = .next t ∧ SMap.find t.cmds c.id = some { c with stage := .finished, out := l.length }
        ∧ WordSent s t c l (c.ra + 0x30) c.num ∧ SMap.find (t.tray c.pot).subs c.sid = none)

/-- R290, R294, R295, R297, R298: a collective's command takes the next number of its pair when it joins its tray's list, and keeps the number it has where a pre-emption withdrew it; the collective begins once every index has joined, as a mismatch where the commands' headers differ; once its plan is done, and those of its pair before it are finished, its engine sends the number of participants as STATUS, with bit 0 for a mismatch; an element's reduction over two participants starts with the source behind the one that owns the element's chunk. -/
def Obligations.CollectiveMoves : Prop :=
  (∀ (s : State) (c : Cmd), SMap.find s.cmds s.sel.a = some c → c.isColl = true →
    let pot := potOf c.core
    (c.stage = .queued → (s.core c.core).tq.head? = some c.id →
      ((s.tray pot).join.length < 16 → ∃ t : State, exec .collJoin s = .next t ∧ (t.core c.core).tq = (s.core c.core).tq.tail
        ∧ (t.tray pot).join = (s.tray pot).join ++ [c.id]
        ∧ (c.fresh = false → SMap.get 0 (t.tray pot).seq c.pair = SMap.get 0 (s.tray pot).seq c.pair + 1
            ∧ SMap.find t.cmds c.id = some { c with stage := .arrived, num := SMap.get 0 (s.tray pot).seq c.pair })
        ∧ (c.fresh = true → (t.tray pot).seq = (s.tray pot).seq ∧ SMap.find t.cmds c.id = some { c with stage := .arrived, fresh := false }))
      ∧ (16 ≤ (s.tray pot).join.length → exec .collJoin s = .next s))
    ∧ (c.stage = .arrived → s.sel.inp = .none → ((s.collMates c).map Cmd.id).Nodup →
      ((∀ q, q < c.info.n → ∃ m ∈ s.collMates c, m.info.q = q) → ∃ t : State, exec .collJoin s = .next t ∧ ∀ m ∈ s.collMates c, m.id ∉ (t.tray (potOf m.core)).join
        ∧ ((∀ d ∈ s.collMates c, d.header = c.header) → SMap.find t.cmds m.id = some { m with stage := .begun, phase := 0, line := 0, peers := [] })
        ∧ ((∃ d ∈ s.collMates c, d.header ≠ c.header) → SMap.find t.cmds m.id = some { m with stage := .begun, phase := 3, line := 0, peers := [] }))
      ∧ ((∃ q, q < c.info.n ∧ ∀ m ∈ s.collMates c, m.info.q ≠ q) → exec .collJoin s = .next s))
    ∧ (c.stage = .begun → c.out = 0 → c.ended = false → s.sel.flag = false → (c.phase = 3 ∨ (c.phase = 1 ∧ 0 < c.line)) →
        (s.collTurn c = true → ∃ t m l, exec .collComplete s = .next t ∧ SMap.find t.cmds c.id = some m ∧ m.stage = .finished ∧ m.out = l.length
          ∧ WordSent s t c l (c.ra + 0x30) (2 ^ 32 * c.info.n + if c.phase = 3 then 1 else 0))
        ∧ (s.collTurn c = false → exec .collComplete s = .next s)))
  ∧ ∀ (op count e : Nat) (x : Nat → List (Option Byte)) (a b : Lane), e < count →
      let k := if e < count / 2 then 0 else 1
      srcElem 9 (x ((k + 1) % 2)) e = some a → srcElem 9 (x k) e = some b → reduceElem 9 op 2 count x e = some (collOp 9 op a b)

/-- R362-R364, R372-R377, R380-R383: a core's oldest command at a home tray has its vector read, or goes on to its shards once it has been, or to none where that failed, at each of which it arrives by itself, behind those that arrived there earlier; a shard answers its oldest command: CODE 4 with no caddy there, or with one installed after the command's issue, 5 for the reserved identifier, 1 for one that is taken, 3 when full, 2 where there is no live node, and 0 with the command's effect; with every answer in, RESULT is sent, with its fields; a clearing of V takes the descriptor from the shard, leaves its nodes, entry point, last node and stamp as they are, and answers the commands that wait there with CODE 4, and the caddy's pages stay its own until the clearing has reached every shard. That a new installation waits for the clearing is the model's reading (DEDUCED, log 22). -/
def Obligations.CaddyMoves : Prop :=
  (∀ (s : State) (c : Cmd) (l r : List Nat), SMap.find s.cmds s.sel.a = some c → (s.tray (potOf c.core)).home = l ++ c.id :: r → c.id ∉ l →
    let out := s.setTray (potOf c.core) { s.tray (potOf c.core) with home := (s.tray (potOf c.core)).home.filter (fun i => i != c.id) }
    ((∀ i ∈ l, ∀ d, SMap.find s.cmds i = some d → d.core ≠ c.core) →
      (c.stage = .arrived → c.hasVector = true → exec .caddyHomeArrival s = .next (s.setCmd { c with stage := .begun, phase := 1, line := 0 }))
      ∧ (c.stage = .arrived → c.hasVector = false → exec .caddyHomeArrival s = .next ((out.setCmd { c with stage := .begun, phase := 2 }).forward c))
      ∧ (c.stage = .begun → c.phase = 1 → c.line = 1 → c.out = 0 → c.failed = false → exec .caddyHomeArrival s = .next ((out.setCmd { c with phase := 2 }).forward c))
      ∧ (c.stage = .begun → c.phase = 1 → c.line = 1 → c.out = 0 → c.failed = true → exec .caddyHomeArrival s = .next (out.setCmd { c with phase := 3 })))
    ∧ ((∃ i ∈ l, ∃ d, SMap.find s.cmds i = some d ∧ d.core = c.core) → exec .caddyHomeArrival s = .next s))
  ∧ (∀ (s : State) (x : Nat × Nat × Nat), 0 < s.sel.c → (s.tray (s.sel.c - 1)).fwd.find? (fun x => x.2 == (s.sel.a, s.sel.b)) = some x →
    ∃ t : State, exec .caddyShardCommand s = .next t ∧ s.memoryKept t ∧ (t.tray (s.sel.c - 1)).fwd = (s.tray (s.sel.c - 1)).fwd.erase x
      ∧ (SMap.get {} (t.tray s.sel.a).shards s.sel.b).queue = (SMap.get {} (s.tray s.sel.a).shards s.sel.b).queue ++ [x.1])
  ∧ (∀ (s : State) (i : Nat) (l : List Nat) (c : Cmd), s.sel.c = 0 → (SMap.get {} (s.tray s.sel.a).shards s.sel.b).queue = i :: l → SMap.find s.cmds i = some c →
    s.sel.flag = false →
    let h := { SMap.get {} (s.tray s.sel.a).shards s.sel.b with queue := l }
    let r := h.run (s.sel.a - shardPot (s.partOf s.sel.a).1 c.data 0) c
    ∃ t : State, exec .caddyShardCommand s = .next t ∧ SMap.get {} (t.tray s.sel.a).shards s.sel.b = r.1
      ∧ SMap.find t.cmds c.id = some { c with answers := c.answers ++ [r.2] })
  ∧ (∀ (h : Shard) (n : Nat) (c : Cmd) (rd ra : GReg) (m : Fin 64), (h.desc = none ∨ c.num < h.inst → h.run n c = (h, { shard := n, code := 4 }))
    ∧ ∀ d, h.desc = some d → h.inst ≤ c.num →
      (c.instr = .stvec rd ra m →
        (c.ident = 0xFFFFFFFF → h.run n c = (h, { shard := n, code := 5 }))
        ∧ (c.ident ≠ 0xFFFFFFFF → SMap.find h.nodes c.ident ≠ none → h.run n c = (h, { shard := n, code := 1 }))
        ∧ (c.ident ≠ 0xFFFFFFFF → SMap.find h.nodes c.ident = none → descCapacity d ≤ h.nodes.length → h.run n c = (h, { shard := n, code := 3 }))
        ∧ (c.ident ≠ 0xFFFFFFFF → SMap.find h.nodes c.ident = none → h.nodes.length < descCapacity d → h.entry = none →
            ((h.run n c).1.entry = some c.ident ∧ (h.run n c).1.last = c.ident ∧ (h.run n c).1.stamp = h.stamp + 1 ∧ (h.run n c).2.code = 0
              ∧ SMap.find (h.run n c).1.nodes c.ident = some { vec := c.vector })))
      ∧ (c.instr = .ixdel rd ra m → c.ident ≠ 0xFFFFFFFF →
        (∀ x, SMap.find h.nodes c.ident = some x → x.dead = false → (h.run n c).2.code = 0 ∧ (h.run n c).1.stamp = h.stamp + 1
            ∧ SMap.find (h.run n c).1.nodes c.ident = some { x with dead := true })
        ∧ ((SMap.find h.nodes c.ident = none ∨ ∃ x, SMap.find h.nodes c.ident = some x ∧ x.dead = true) → h.run n c = (h, { shard := n, code := 2 })))
      ∧ (∀ v, c.instr = .ldnear rd ra v m → (h.run n c).1 = h ∧ (h.run n c).2.found.length ≤ c.kq ∧ ∀ e ∈ (h.run n c).2.found, h.live e.2 = true)
      ∧ (∀ v, c.instr = .ixsnap rd ra v m → h.run n c = (h, { shard := n, code := 0, stamp := h.stamp })))
  ∧ (∀ (s : State) (c : Cmd), SMap.find s.cmds s.sel.a = some c → c.caddy ≠ none → c.stage = .begun → c.phase = 2 →
    (c.answers.length = c.shards.length → ∃ t l, exec .caddyMerge s = .next t ∧ SMap.find t.cmds c.id = some { c with stage := .finished, out := l.length }
      ∧ WordSent s t c l (c.ra + 0x30) c.resultWord)
    ∧ (c.answers.length ≠ c.shards.length → exec .caddyMerge s = .next s))
  ∧ (∀ (c : Cmd) (rd ra : GReg) (v : VPair) (x : VReg) (m : Fin 64),
    let evals := if c.caddyCode = 0 then (c.answers.map Answer.evals).sum % 2 ^ 32 else 0
    (c.phase = 3 ∨ (∃ a ∈ c.answers, a.code = 6) → c.caddyCode = 6)
    ∧ (c.phase ≠ 3 → (∀ a ∈ c.answers, a.code ≠ 6) → (∃ a ∈ c.answers, a.code ≠ 0) → ∃ a ∈ c.answers, a.code ≠ 0 ∧ c.caddyCode = a.code)
    ∧ (c.phase ≠ 3 → (∀ a ∈ c.answers, a.code = 0) → c.caddyCode = 0)
    ∧ (c.instr = .stvec rd ra m → c.resultWord = c.caddyCode + 2 ^ 16 * (c.ident % descShards c.data) + 2 ^ 32 * evals)
    ∧ (c.instr = .ixdel rd ra m → c.resultWord = c.caddyCode + 2 ^ 16 * (c.ident % descShards c.data))
    ∧ (c.instr = .ldnear rd ra v m → c.resultWord = c.caddyCode + 2 ^ 8 * c.merged.length + 2 ^ 32 * evals) ∧ (c.instr = .ixsnap rd ra x m → c.resultWord = c.caddyCode))
  ∧ ∀ (s : State) (x : Nat × Nat × Nat), (s.part s.sel.a).clearing.find? (fun x => x.1 == s.sel.b && x.2.1 == s.sel.c) = some x →
    ∃ t : State, exec .caddyClearApply s = .next t
      ∧ SMap.get {} (t.tray x.2.2).shards s.sel.b = { SMap.get {} (s.tray x.2.2).shards s.sel.b with queue := [], desc := none } ∧ x ∉ (t.part s.sel.a).clearing ∧ s.memoryKept t
      ∧ (∀ i c, i ∈ (SMap.get {} (s.tray x.2.2).shards s.sel.b).queue → SMap.find s.cmds i = some c → c.id = i →
          ∃ m, SMap.find t.cmds i = some m ∧ ({ shard := s.sel.c, code := 4 } : Answer) ∈ m.answers)
      ∧ ((∃ y ∈ (s.part s.sel.a).clearing, y ≠ x ∧ y.1 = s.sel.b) → (t.part s.sel.a).retired = (s.part s.sel.a).retired)
      ∧ ((∀ y ∈ (s.part s.sel.a).clearing, y ≠ x → y.1 ≠ s.sel.b) → SMap.find (t.part s.sel.a).retired s.sel.b = none)

/-! ## Counters, time and the boundary -/

/-- R85, R400, R402, R411, R412, R414, R88, R315, R316, R334: a position that passes unused is counted as vacant, or by what holds its thread; the end of a rotation counts the positions issued; once every turn of a cycle is taken, and no thread is left to park, no free slot to bind, no count of cycles to return to 0, no result to be written and no vector unit to take a command, its TMARKs act on their gangs' capture windows, the lower core first, and leave their records, and the next one advances the time, the rotation's position, the waits of READY contexts, in the image of a spilled one too, and open capture windows; a trace record goes to its ring or is dropped at a full one; a due sample names the thread of its position. The class of a sample, and the world in which the ring is written, are the model's readings (DEDUCED, logs 34 and 35); that all cores stand at one position, and that a trace record is written in one move and waits for a translation, is the model's choice (DESIGN CHOICE, logs 58 and 11). -/
def Obligations.CountersAndTime : Prop :=
  (∀ s : State, s.pos < 15 →
    (s.boundIn s.sel.a s.pos = none → exec .position s = .next (s.slotPosition s.sel.a s.pos .vacant .none))
    ∧ ∀ t k b, s.boundIn s.sel.a s.pos = some t →
      (s.holdClass t = some (k, b) → exec .position s = .next (s.slotPosition s.sel.a s.pos k b)) ∧ (s.holdClass t = none → exec .position s = .next s))
  ∧ (∀ (s : State) (n slot : Nat) (k : Cls4) (b : Sub), (s.core n).gang ≠ none → let t := s.slotPosition n slot k b
      SMap.get 0 (t.core n).ctr k.ctr = SMap.get 0 (s.core n).ctr k.ctr + 1 ∧ SMap.get 3 (t.core n).posClass slot = k.code + 4 * b.code
        ∧ (t.core n).rotIssued = (s.core n).rotIssued + (if k = .issued then 1 else 0))
  ∧ (∀ s : State, (s.core s.sel.a).gang ≠ none → ∃ t : State, exec .rotationEnd s = .next t ∧ (t.core s.sel.a).rotIssued = 0
      ∧ SMap.get 0 (t.core s.sel.a).ctr (0x020 + (s.core s.sel.a).rotIssued) = SMap.get 0 (s.core s.sel.a).ctr (0x020 + (s.core s.sel.a).rotIssued) + 1)
  ∧ (∀ s : State, s.turn ≠ [] ∨ s.queueDue = true ∨ s.unitDue = true → exec .cycle s = .next s)
  ∧ (∀ s : State, let counted := s.cores.flatMap (fun p => (p.2.ctxs.filter (fun q => q.2.spilled.isSome && q.2.st == .ready)).map (fun q => 0x140 + areaLoc (clusterOf p.1) (q.2.spilled.getD 0)))
    s.turn = [] → s.queueDue = false → s.unitDue = false → ∃ t : State, exec .cycle s = .next t ∧ t.time = s.time + 1 ∧ t.pos = (s.pos + 1) % 16
      ∧ (counted = [] → s.memoryKept t)
      ∧ (s.memoryWf → s.dataKept t (fun x => ∃ l ∈ counted, l ≤ x ∧ x < l + 8) noneOf noneOf)
      ∧ (s.memoryWf → counted.Pairwise (fun a b => a + 8 ≤ b ∨ b + 8 ≤ a) → (∀ l ∈ counted, ∀ o < 8, ¬ (locOwner (l + o) < 32 ∧ ctlBase ≤ locOff (l + o))) →
          ∀ l ∈ counted, let w := word (s.readNat l 8)
            word (t.readNat l 8) = w - word (2 ^ 20 * w.bits 20 20) + word (2 ^ 20 * ((w.bits 20 20 + 1) % 2 ^ 20)))
      ∧ (∀ n i, t.ctx (.ctx n i) = { s.ctx (.ctx n i) with
          aged := (s.ctx (.ctx n i)).aged + (if (s.ctx (.ctx n i)).st = .ready then 1 else 0), fresh := (s.ctx (.ctx n i)).fresh && s.pos != 15 })
      ∧ ∀ i g, SMap.find s.gangs i = some g →
          let attached := g.st = .running
          (g.marks = [] → SMap.find t.gangs i = some { g with
            active := g.active + (if g.window = true ∧ attached then 1 else 0)
            detached := g.detached + (if g.window = true ∧ ¬ attached then 1 else 0) })
          ∧ (∀ m, g.marks = [m] →
            traceBytes s.time (0x30 + m.kind) 0 m.inc m.slot m.core (m.data.toNat % 2 ^ 16) (if m.kind = 2 then g.active else m.pc)
                (if m.kind = 2 then g.detached else m.data) ∈ (t.part g.part).traces
            ∧ (m.kind = 1 → SMap.find t.gangs i = some { g with marks := [], window := true, active := if attached then 1 else 0, detached := if attached then 0 else 1 })
            ∧ (m.kind = 2 → SMap.find t.gangs i = some { g with marks := [], window := false }))
          ∧ ∀ m n, g.marks = [m, n] ∨ g.marks = [n, m] → m.kind = 1 → n.kind = 2 →
            (m.core < n.core → SMap.find t.gangs i = some { g with marks := [], window := false, active := 0, detached := 0 }
              ∧ traceBytes s.time 0x32 0 n.inc n.slot n.core (n.data.toNat % 2 ^ 16) 0 0 ∈ (t.part g.part).traces)
            ∧ (n.core < m.core → ∃ g', SMap.find t.gangs i = some g' ∧ g'.window = true
              ∧ traceBytes s.time 0x32 0 n.inc n.slot n.core (n.data.toNat % 2 ^ 16) g.active g.detached ∈ (t.part g.part).traces))
  ∧ (∀ (s : State) (r : List Byte) (l : List (List Byte)), let n := s.sel.a
    let size := s.readNat (traceLoc n + 8) 4
    let w := s.readNat (traceLoc n + 0x10) 4
    let used := (2 ^ 32 + w - s.readNat (traceLoc n + 0x18) 4) % 2 ^ 32
    (s.part n).traces = r :: l →
    (size ≤ used → exec .traceRecordWrite s = .next (s.setPart n { s.part n with traces := l, traceDrop := (s.part n).traceDrop + 1 }))
    ∧ (used < size →
        let place := s.sysLoc { secure := s.potSecure n, asid := s.readNat (traceLoc n + 0xC) 2 } (word (s.readNat (traceLoc n) 8 + 32 * (w % size)))
        (∀ x, place = some x → exec .traceRecordWrite s = .next
          (((s.writeLocs x r).writeNat (traceLoc n + 0x10) 4 (w + 1)).setPart n { s.part n with traces := l, traceRec := (s.part n).traceRec + 1 }))
        ∧ (place = none → exec .traceRecordWrite s = .next s)))
  ∧ ∀ (s : State) (x : Nat), s.sampleDue s.sel.a = true → (s.samplePoints s.sel.a).find? (fun x => decide ((s.part s.sel.a).cursor ≤ x)) = some x →
    ∃ t : State, exec .pcSample s = .next t ∧ (t.part s.sel.a).samples = (s.part s.sel.a).samples + 1 ∧ (t.part s.sel.a).cursor = x + 1
      ∧ ((SMap.get ({} : Slot) (s.core (x / 16)).slots (x % 16)).ctx = none →
          (t.part s.sel.a).traces = (s.part s.sel.a).traces ++ [traceBytes s.time 0x20 3 0 15 (x / 16) 0 0 0])
      ∧ (∀ i, (SMap.get ({} : Slot) (s.core (x / 16)).slots (x % 16)).ctx = some i → SMap.get 3 (s.core (x / 16)).posClass (x % 16) % 4 = 3 →
          (t.part s.sel.a).traces = (s.part s.sel.a).traces ++ [traceBytes s.time 0x20 (SMap.get 3 (s.core (x / 16)).posClass (x % 16)) 0 15 (x / 16) 0 0 0])
      ∧ ∀ i, (SMap.get ({} : Slot) (s.core (x / 16)).slots (x % 16)).ctx = some i → SMap.get 3 (s.core (x / 16)).posClass (x % 16) % 4 ≠ 3 →
          (t.part s.sel.a).traces = (s.part s.sel.a).traces ++ [traceBytes s.time 0x20 (SMap.get 3 (s.core (x / 16)).posClass (x % 16))
            (s.ctx (.ctx (x / 16) i)).traceName.1 (s.ctx (.ctx (x / 16) i)).traceName.2 (x / 16) 0 (s.ctx (.ctx (x / 16) i)).pc 0]

/-- R419-R424, R426, R429: the boot steps in order, the first that fails leaving the module in reset with its number; what a boot leaves; the attestation report; a freeze by each of its causes, which changes the state word and the register written alone, and what read-out gives of pot SRAM, register files, context stores, tiles, latches, queues and tables, without the attestation key's seed and, unless secure read-out is set, without the secure world's pots, cores, gangs and address-space tables; the power measurement, the clock step and the freeze at 105 °C; host writes of management registers. R427, R90: STOP stops the named thread at its instruction boundary and leaves its image in DBGBUF; an unknown name, a stopped thread or a core of the secure world without the right is refused; RESUME lets the thread go on with what DBGBUF holds: a bound one waits for nothing, and a parked one waits only where its wait word and program counter are as they were, which is the model's reading (DEDUCED, log 97). What a configuration block must declare, with each value in its range, is the model's choice (DESIGN CHOICE, log 7), and that ATTREQ stays pending before boot, and is answered in a frozen module that has booted, its reading (DEDUCED, log 43); that a freeze takes effect in one move, and how the queues and tables of the secure world stay hidden, is the model's choice (DESIGN CHOICE, log 13). -/
def Obligations.ManagementAndDebugger : Prop :=
  ((∀ (s : State) (i : BootImage), s.sel.inp = .img i →
    (∀ n, bootFail i = some n → ∃ t : State, exec .reset s = .next t ∧ t.mgmt.mstate.bits 0 4 = 2 ∧ t.mgmt.mstate.bits 4 4 = n ∧ t.cores = [] ∧ t.gangs = [] ∧ t.ents = [] ∧ t.cmds = [])
    ∧ (bootFail i = none → ∃ t : State, exec .reset s = .next t ∧ t.mgmt.mstate.bits 0 4 = 1 ∧ t.cores = [] ∧ t.gangs = [] ∧ t.ents = [] ∧ t.cmds = [] ∧ t.time = 0
        ∧ t.mgmt.version = flashVersion i ∧ t.mgmt.seed = (Config.sha3_512 Config.puf).toList.take 32 ∧ t.mgmt.linkfail = word i.linksDown.length
        ∧ t.mgmt.image = i.flash.take (0x1C50 + flashBodyLen i) ∧ t.mgmt.body = flashBody i))
  ∧ (∀ i : BootImage, let f := fun o n => (i.flash.drop o).take n
    let signed := Config.mldsaVerify (f 0x18 2592) (Config.sha3_512 (f 0 0x0A38 ++ flashBody i)).toList (f 0x0A38 4627)
    (flashMagic i ≠ 0x4E4C58494D470001 ∨ i.flash.length < 0x1C50 + flashBodyLen i → bootFail i = some 1)
    ∧ (flashMagic i = 0x4E4C58494D470001 → 0x1C50 + flashBodyLen i ≤ i.flash.length →
      (Config.sha3_512 (f 0x18 2592) ≠ Config.romDigest → bootFail i = some 2)
      ∧ (Config.sha3_512 (f 0x18 2592) = Config.romDigest → (signed = false → bootFail i = some 3)
        ∧ (signed = true → (i.pufOk = false → bootFail i = some 4)
          ∧ (i.pufOk = true → (confOk (flashBody i) = false → bootFail i = some 5)
            ∧ (confOk (flashBody i) = true → bootFail i = if i.ucieOk then none else some 6))))))
  ∧ (∀ b : List Byte,
    (∀ n, (n ≤ 64 ∨ n ∈ [321, 322, 421, 422] ∨ (387 ≤ n ∧ n < 421) ∨ (∃ p e, p < 32 ∧ e < 5 ∧ n = 65 + 8 * p + e)) → Config.confWord b n = none → confOk b = false)
    ∧ (∀ p, p < 32 → (confPart b p).1 = p → Config.confWord b (323 + p) = none → confOk b = false)
    ∧ (∀ x, Config.confWord b 421 = some x → x < 6000 ∨ 13500 < x → confOk b = false)
    ∧ (confOk b = true → ∀ p q, p < 32 → (confPart b p).1 ≤ q → q < (confPart b p).1 + (confPart b p).2 → q < 32 ∧ confPart b q = confPart b p))
  ∧ (∀ s : State, (s.bootState = 1 → exec .attreq s = .next { s with mgmt := { s.mgmt with attreq := 0, report := s.mgmt.attested } })
    ∧ s.mgmt.attested = s.mgmt.reportBody ++ (Config.mldsaSign s.mgmt.seed (Config.sha3_512 s.mgmt.reportBody).toList).toList
    ∧ (s.bootState = 3 → s.mgmt.seed ≠ [] → exec .attreq s = .next { s with mgmt := { s.mgmt with attreq := 0, report := s.mgmt.attested } })
    ∧ (s.bootState ≠ 1 → s.bootState ≠ 3 ∨ s.mgmt.seed = [] → exec .attreq s = .next { s with mgmt := { s.mgmt with attreq := 1 } })
    ∧ (s.mgmt.nonce.length = 64 → s.mgmt.reportBody = s.mgmt.nonce ++ ((Config.sha3_512 s.mgmt.image).toList ++ (leBytes 8 s.mgmt.version.toNat
        ++ ((Config.sha3_512 (Config.confBlock s.mgmt.body)).toList ++ (Config.mldsaPublic s.mgmt.seed).toList))))
    ∧ (s.mgmt.nonce.length = 64 → s.mgmt.reportBody.length = 0xAE8 ∧ s.mgmt.attested.length = 0xAE8 + 4627))
  ∧ (∀ (i : Instr) (cause : Nat), (i = .freeze ∧ cause = 0) ∨ (i = .freezecmd ∧ cause = 1) ∨ (i = .thermalTrip ∧ cause = 2) → ∀ s : State,
      (i = .thermalTrip → 1050 ≤ s.sel.a) →
      let m : Mgmt := { s.mgmt with freezecmd := if cause = 1 then 0xF5EE0001 else s.mgmt.freezecmd }
      (s.bootState ≠ 3 → exec i s = .next { s with mgmt := { m with mstate := word (3 + 2 ^ 4 * s.mgmt.mstate.bits 4 4 + 2 ^ 8 * cause) } })
      ∧ (s.bootState = 3 → exec i s = .next { s with mgmt := m }))
  ∧ (∀ s : State, s.sel.a < 1050 → exec .thermalTrip s = .next s)
  ∧ ((∀ (s : State) (l : Nat), locOwner l < 32 → (s.potSecure (locOwner l) = true → s.mgmt.conf.secureRead = false → s.readOut l = some 0)
      ∧ (s.potSecure (locOwner l) = false ∨ s.mgmt.conf.secureRead = true → s.readOut l = some (s.readLoc l)))
    ∧ ∀ (s : State), (∀ n, s.debugView.core n = if s.coreHidden n then {} else s.core n) ∧ (∀ p, s.debugView.tray p = if s.potHidden p then {} else s.tray p)
      ∧ (∀ n, s.mgmt.conf.secureRead = false → (s.coreHidden n = true ↔ s.potSecure (potOf n) = true ∨ (s.core n).secure = true))
      ∧ (s.mgmt.conf.secureRead = true → (∀ n, s.coreHidden n = false) ∧ (∀ p, s.potHidden p = false) ∧ s.debugView.ents = s.ents ∧ s.debugView.cmds = s.cmds)
      ∧ (∀ l, s.potHidden (locOwner (l / 16 * 16)) = false → s.debugView.isFull l = s.isFull l)
      ∧ s.debugView.mgmt = { s.mgmt with seed := [] } ∧ (∀ p, s.debugView.part p = if s.potHidden p then {} else s.part p)
      ∧ (∀ p, SMap.find s.debugView.owners (32 + p) = if s.potHidden p then none else SMap.find s.owners (32 + p))
      ∧ (∀ l, locOwner (l / 16 * 16) < 32 → s.debugView.isPoison l = if s.potHidden (locOwner (l / 16 * 16)) then false else s.isPoison l)
      ∧ ∀ i g, (i, g) ∈ s.debugView.gangs → s.potHidden g.part = false ∧ (g.record.secure = true → s.mgmt.conf.secureRead = true)
        ∧ (∀ c ∈ g.restart, c.env.secure = true → s.mgmt.conf.secureRead = true) ∧ (∀ q ∈ g.saved, q.2.secure = true → s.mgmt.conf.secureRead = true)
        ∧ ∃ h, (i, h) ∈ s.gangs ∧ g = { h with restart := g.restart, saved := g.saved })
  ∧ (∀ s : State, ∃ t : State, exec .powerSample s = .next t ∧ t.mgmt.power = word (s.sel.a % 2 ^ 32 + 2 ^ 32 * (s.sel.b % 2 ^ 16))
      ∧ (1050 ≤ s.sel.b → t.mgmt.mstate.bits 0 4 = 3 ∧ (s.bootState ≠ 3 → t.mgmt.mstate.bits 8 2 = 2))
      ∧ (s.sel.b < 1050 → t.mgmt.mstate = s.mgmt.mstate)
      ∧ (s.mgmt.conf.cap < s.sel.a → t.mgmt.clock = min 3 (s.mgmt.clock + 1) ∧ t.mgmt.below = 0)
      ∧ (s.sel.a ≤ s.mgmt.conf.cap → t.mgmt.clock = s.mgmt.clock ∧ t.mgmt.below = if 10 * s.sel.a < 9 * s.mgmt.conf.cap then s.mgmt.below + 1 else 0))
  ∧ (∀ s : State, (10 ≤ s.mgmt.below → 0 < s.mgmt.clock → exec .clockStepUp s = .next { s with mgmt := { s.mgmt with clock := s.mgmt.clock - 1, below := 0 } })
      ∧ (s.mgmt.below < 10 → exec .clockStepUp s = .next s))
  ∧ ∀ s : State, ∃ t : State, exec .registerWrite s = .next t ∧ { t with mgmt := s.mgmt } = s
      ∧ (∀ i, i < 8 → s.sel.a = 0x100 + 8 * i → (t.mgmt.nonce.drop (8 * i)).take 8 = leBytes 8 (word s.sel.b).toNat)
      ∧ (s.sel.a = 0x2000 → t.mgmt.dbgOp = (if s.sel.b % 2 ^ 4 ≤ 2 then s.sel.b % 2 ^ 4 else 0) ∧ t.mgmt.dbgCore = s.sel.b / 2 ^ 8 % 2 ^ 14
          ∧ t.mgmt.dbgSlot = s.sel.b / 2 ^ 24 % 2 ^ 4 ∧ t.mgmt.dbgInc = s.sel.b / 2 ^ 32 % 2 ^ 8 ∧ t.mgmt.dbgctl.bits 4 4 = s.mgmt.dbgctl.bits 4 4)
      ∧ (s.sel.a = 0x48 → s.sel.b % 2 = 1 → exec .attreq s = .next t)
      ∧ (s.sel.a = 0x50 → (word s.sel.b = 0xF5EE0001 → exec .freezecmd s = .next t) ∧ (word s.sel.b ≠ 0xF5EE0001 → t = s))
      ∧ (s.sel.a < 0x100 → s.sel.a ≠ 0x48 → s.sel.a ≠ 0x50 → t = s))
  ∧ ((∀ (s : State) (i : Nat), let t := Thr.ctx s.mgmt.dbgCore i
    s.mgmt.dbgOp = 1 → s.dbgThread = some i →
    ((s.ctx t).stopped = false → (s.core s.mgmt.dbgCore).secure = false → (s.ctx t).atBoundary = true → ∃ u : State, exec .stop s = .next u
      ∧ u.ctx t = { s.ctx t with stopped := true, stopReq := false } ∧ u.mgmt.dbgbuf = ({ s.ctx t with stopped := true, stopReq := false } : Ctx).image
      ∧ u.mgmt.dbgOp = 0 ∧ u.mgmt.dbgctl.bits 4 4 = 1 ∧ ((s.ctx t).spilled = none → s.memoryKept u)
      ∧ ∀ j, (s.ctx t).spilled = some j → u.mem = (s.writeLocs (areaLoc (clusterOf s.mgmt.dbgCore) j) u.mgmt.dbgbuf).mem)
    ∧ (((s.ctx t).stopped = true ∨ ((s.core s.mgmt.dbgCore).secure = true ∧ s.mgmt.conf.secureRead = false)) → exec .stop s = .next (s.dbgDone 2)))
  ∧ (∀ s : State, s.dbgThread = none → (s.mgmt.dbgOp = 1 → exec .stop s = .next (s.dbgDone 2)) ∧ (s.mgmt.dbgOp = 2 → exec .dbgctlResume s = .next (s.dbgDone 2)))
  ∧ ∀ (s : State) (i : Nat), let t := Thr.ctx s.mgmt.dbgCore i
    s.mgmt.dbgOp = 2 → s.dbgThread = some i → (s.ctx t).stopped = true →
    (imgOk s.mgmt.dbgbuf = true → s.mgmt.dbgbuf = (s.ctx t).image → exec .dbgctlResume s = .next (((s.setCtx t { s.ctx t with stopped := false, stopReq := false }).respill s.mgmt.dbgCore i).dbgDone 1))
    ∧ (imgOk s.mgmt.dbgbuf = true → ∃ u : State, exec .dbgctlResume s = .next u ∧ (u.ctx t).stopped = false
        ∧ ((s.ctx t).st = .bound → s.mgmt.dbgbuf ≠ (s.ctx t).image → (u.ctx t).wait = 0 ∧ (u.ctx t).st = .bound)
        ∧ ((s.ctx t).st = .waiting → s.mgmt.dbgbuf ≠ (s.ctx t).image → let w := imgDw s.mgmt.dbgbuf 0x1E0
            (w.bits 0 4 = 0 → (u.ctx t).st = .ready ∧ (u.ctx t).wait = 0 ∧ (u.ctx t).stamp = imgDw s.mgmt.dbgbuf 0x1E8)
            ∧ (w.bits 0 4 ≠ 0 → w ≠ (s.ctx t).wait ∨ imgDw s.mgmt.dbgbuf 0 ≠ (s.ctx t).pc → (u.ctx t).st = .ready ∧ (u.ctx t).wait = 0 ∧ (u.ctx t).stamp = s.time)
            ∧ (w.bits 0 4 ≠ 0 → w.bits 0 4 ≠ 2 → w = (s.ctx t).wait → imgDw s.mgmt.dbgbuf 0 = (s.ctx t).pc →
                (u.ctx t).st = .waiting ∧ (u.ctx t).wait = w ∧ (u.ctx t).stamp = imgDw s.mgmt.dbgbuf 0x1E8))
        ∧ (s.mgmt.dbgbuf ≠ (s.ctx t).image → (u.ctx t).pc = imgDw s.mgmt.dbgbuf 0 ∧ (u.ctx t).epc = imgDw s.mgmt.dbgbuf 0x148
            ∧ ∀ r, 0 < r → r < 32 → (u.ctx t).gr r = imgDw s.mgmt.dbgbuf (8 * r)))
    ∧ (imgOk s.mgmt.dbgbuf = false → exec .dbgctlResume s = .next (s.dbgDone 2)))

/-- R278, R279, R425, R155: a flit's CRC failure is counted, retrains its link after 8 in a row and fails it after 16, which takes the entries that stand in channels on the link, and no other; retraining ends in either; corrected errors are counted, an uncorrectable granule is marked, counted and logged, one in a v or k register faults the instruction that reads it, and one in a gang's state ends the gang. R416: a host write becomes release or plain stores of the host's world, a host read loads of it, and a write outside the partition's pages is answered with an error and changes nothing. The numbering of the links, that the mark of a register stays until its next reader, and that reader's position, which counts as vacant by a trap, are the model's readings (DEDUCED, logs 44, 51 and 55). -/
def Obligations.ErrorsAndLinks : Prop :=
  (∀ s : State, let n := s.sel.a
    let l := s.link n
    l.failed = false → l.retraining = false → ∃ t : State, exec .flitCrcFail s = .next t ∧ t.mgmt.replay = s.mgmt.replay + 1
      ∧ (l.fails < 15 → t.link n = { l with fails := l.fails + 1, retraining := decide (l.fails = 7) } ∧ t.ents = s.ents)
      ∧ (15 ≤ l.fails → (t.link n).failed = true ∧ t.mgmt.linkfail = s.mgmt.linkfail + 1
          ∧ (∀ e ∈ t.ents, e.link = some n → e.phase ≠ .channel) ∧ ∀ e ∈ s.ents, e.phase ≠ .channel → (∀ x ∈ s.ents, x.id = e.id → x = e) → e ∈ t.ents))
  ∧ (∀ s : State, let n := s.sel.a
    (s.link n).retraining = true →
    (s.sel.flag = true → exec .retrainingEnd s = .next (s.setLink n { s.link n with retraining := false }))
    ∧ (s.sel.flag = false → ∃ t : State, exec .retrainingEnd s = .next t ∧ (t.link n).failed = true ∧ t.mgmt.linkfail = s.mgmt.linkfail + 1))
  ∧ (∀ (s : State) (n slot l r : Nat) (k : Bool),
    (s.sel.inp = .err (.correctedCore n) → exec .softError s = .next (s.countAt n 0x035))
    ∧ (s.sel.inp = .err .correctedSram → exec .softError s = .next { s with mgmt := { s.mgmt with corrsram := s.mgmt.corrsram + 1 } })
    ∧ (s.sel.inp = .err .correctedHbm → exec .softError s = .next { s with mgmt := { s.mgmt with corrhbm := s.mgmt.corrhbm + 1 } })
    ∧ (s.sel.inp = .err (.granule l) → ∃ t : State, exec .softError s = .next t ∧ t.isPoison l = true ∧ s.memoryKept t
        ∧ (∀ m, m / 16 ≠ l / 16 → t.isPoison m = s.isPoison m)
        ∧ t.mgmt.uncorr = s.mgmt.uncorr + 1 ∧ t.mgmt.errlog = word (2 ^ 48 * locOwner l + 2 ^ 40 * cECC_UNCORR + locOff l % 2 ^ 40))
    ∧ (s.sel.inp = .err (.gangState n) → exec .softError s = .next ((s.logError n 0).gangEnd n cECC_UNCORR))
    ∧ (∀ t, s.sel.inp = .err (.register n slot k r) → s.boundIn n slot = some t → exec .softError s = .next ((s.logError n 0).setCtx t
        { s.ctx t with bad := (s.ctx t).bad.union (if k then RegSet.ofK r else RegSet.ofV r) })))
  ∧ (∀ (rd ra rb : VReg) (k : KReg) (la : La) (rm : Rm) (s : State),
      let u : Use := useVec (RegSet.ofV rd) (maskSrc rd k [ra, rb]) [] [k] la
      (s.ctx s.cur).bad.meets u.src = true → s.dueAt s.cur (u.src.union u.dst) u.all = none → (s.ctx s.cur).hazard u = false → (s.ctx s.cur).hpend = 0 →
      (s.ctx s.cur).pend.meets (u.src.union u.dst) = false →
      exec (.vfadd rd ra rb k la rm) s = .next ((s.position s.cur .vacant .trap).raiseAt s.cur cECC_UNCORR 0 0))
  ∧ ∀ (s : State), s.isPart s.sel.a = true →
    (∀ a asid data rel, s.sel.inp = .host (.write a asid data rel) →
      (s.hostAll s.sel.a (s.hostEnv s.sel.a asid) (data.length / 2 ^ 21 + 2) a data.length = false →
        ∃ t : State, exec .hostRequest s = .next t ∧ t.ents = s.ents ∧ s.memoryKept t
          ∧ (t.part s.sel.a).answers = (s.part s.sel.a).answers ++ [{ req := s.next, error := true, data := [] }])
      ∧ (s.hostAll s.sel.a (s.hostEnv s.sel.a asid) (data.length / 2 ^ 21 + 2) a data.length = true → ∃ t l, exec .hostRequest s = .next t ∧ t.ents = s.ents ++ l
          ∧ (∀ e ∈ l, e.src = .host s.sel.a ∧ e.kind = .store ∧ e.phase = .egress ∧ e.rel = (if rel then 2 else 0) ∧ e.env.secure = SMap.get false s.mgmt.conf.hostSecure s.sel.a)
          ∧ ∀ i (v : Byte), data[i]? = some v → ∃ e ∈ l, ∃ b ∈ e.bytes, b.va = a + word i ∧ b.val = v))
    ∧ ∀ a asid n acq, s.sel.inp = .host (.read a asid n acq) → s.hostAll s.sel.a (s.hostEnv s.sel.a asid) (n / 2 ^ 21 + 2) a n = true →
      ∃ t l, exec .hostRequest s = .next t ∧ t.ents = s.ents ++ l ∧ ∀ e ∈ l, e.src = .host s.sel.a ∧ e.kind = .load ∧ e.acq = acq

/-! ## The whole machine -/

/-- R77, R85, R191, R428: after reset every register of every thread and core holds its reset value, no gang stands anywhere, every granule is empty and every flag word 0, and the module is still to boot. -/
def Obligations.ResetState : Prop :=
  let s := State.reset
  (∀ t : Thr, let c := s.ctx t
    (∀ r, r ≠ 0 → c.gr r = 0 ∧ c.kr r = 0) ∧ (∀ r, c.vr r = 0) ∧ c.fflags = 0 ∧ c.live = false ∧ c.sup = false ∧ c.stopped = false
      ∧ c.pc = 0 ∧ c.prio = 0 ∧ c.cause = 0 ∧ c.epc = 0 ∧ c.vaddr = 0 ∧ c.wait = 0 ∧ c.pend.empty = true ∧ c.hpend = 0 ∧ c.held = 0
      ∧ c.windows = [] ∧ c.before = [] ∧ c.susp = [] ∧ c.iq = [] ∧ c.tb = [] ∧ c.woken = none)
  ∧ (∀ n, let k := s.core n
    k.gang = none ∧ k.ctxs = [] ∧ k.lease = [] ∧ k.tvec = 0 ∧ k.asid = 0 ∧ k.secure = false ∧ k.rqlimit = 0 ∧ k.rnrbase = 0 ∧ k.rnrlimit = 0
      ∧ (∀ i, SMap.get 0 k.regions i = 0 ∧ SMap.get 0 k.xdone i = 0 ∧ SMap.get 0 k.nextid i = 0 ∧ SMap.get 0 k.ctr i = 0)
      ∧ (∀ i, SMap.get 0 k.tiles i = 0 ∧ SMap.find k.holders i = none ∧ SMap.get 0 k.alatch i = 0 ∧ SMap.get 0 k.bl0 i = 0 ∧ SMap.get 0 k.bl1 i = 0)
      ∧ k.bl0Full = false ∧ k.bl1Full = false ∧ k.twin = false ∧ (∀ i, (k.box i).send = none ∧ (k.box i).recv = none)
      ∧ k.rq = [] ∧ k.orphans = [] ∧ k.sendq = 0 ∧ k.acks = 0 ∧ k.drawq = [] ∧ k.pourq = []
      ∧ (∀ i, (k.handle i).st = .free) ∧ (∀ i, (SMap.get ({} : Slot) k.slots i).inc = 0 ∧ (SMap.get ({} : Slot) k.slots i).ctx = none))
  ∧ (∀ l, s.flag l = 0 ∧ s.isFull l = false ∧ s.isPoison l = false) ∧ s.ents = [] ∧ s.cmds = [] ∧ s.gangs = [] ∧ s.time = 0 ∧ s.bootState = 0

/-- R16, R17, R24, R32, R33, R51: where the next move is a thread's attempt, at its position and before any other of this rotation, inside a block, with nothing due, no result of its core to be written and no wait, and the 64-byte line at its program counter holds a word that decodes to a well-formed instruction legal in the block's KIND, the step is that instruction's execution by that thread; an attempt at another position, or a second one, or one before a result due on its core, is none; a move from outside the machine is carried out in whatever state the module is; a line that the cache does not hold is filled from memory; and a thread at a header that it may enter goes on to the first word. R420, R426: a frozen module runs nothing, and a module that has not booted goes nowhere of its own. With nothing on the agenda, and no move of the part's own left to make, the next place of the cycle's list is served, so that the thread bound there attempts to issue: this order is the model's choice (DESIGN CHOICE, logs 1 and 58). That a frozen module's step is a fault is the model's choice (DESIGN CHOICE, log 13), and that uncorrectable data are fetched as they stand (DESIGN CHOICE, log 94). -/
def Obligations.StepRunsDecodedOrStops : Prop :=
  ((∀ (s : State) (t : Thr) (l : List Move) (s1 : State) (c : Line) (i : Instr),
    let s0 := { s with agenda := l, turn := s.turn.erase (turnOf t), cur := t }
    s.agenda = .issue t :: l → s.running = true → t.core < 2 ^ 16 → s.itsTurn t = true → s.turn.contains (turnOf t) = true → s.resultDue t.core = false → s0.mayIssue t = true →
    (s0.ctx t).enter = .none → s0.dueFirst t = none →
    (s0.ctx t).openWaits.meets (s0.ctx t).pend = false → s0.checkAccess t.core fetchPerm [((s0.ctx t).pc, 4)] = none →
    s0.fetchLine t.core (s0.ctx t).pc = (s1, some c) → decode (BitVec.ofNat 32 (c.at (s0.ctx t).pc 4)) = .ok i → legalInKind (s0.ctx t).blk.kind i = true →
    step s = finish (exec i s1) ∧ s1.cur = t ∧ s1.ctx t = s0.ctx t)
  ∧ (∀ (s : State) (t : Thr) (l : List Move), s.agenda = .issue t :: l → (s.itsTurn t = false ∨ s.turn.contains (turnOf t) = false ∨ (t.core < 2 ^ 16 ∧ s.resultDue t.core = true)) →
      step s = .next { s with agenda := l })
  ∧ (∀ (s : State) (n p m : Nat) (a : Word), ownerOf a < 32 →
      let base := word (a.toNat / 64 * 64)
      s.icache.find? (fun l => l.is (clusterOf n) ((s.core n).gang.getD 0) 0 base) = none → s.fetchLoc n base = (s, some p) → s.mapBits n base = (s, some m) →
      ∃ c, s.fetchLine n a = ({ s with icache := putLine s.icache c }, some c) ∧ c.data = s.readLocs p 64 ∧ c.addr = base ∧ c.map = m)
  ∧ (∀ (l : List Line) (c : Line), c ∈ putLine l c ∧ ∀ x ∈ putLine l c, x = c ∨ x ∈ l)
  ∧ (∀ (s : State) (t : Thr) (s1 : State) (b : Block),
      (s.ctx t).enter = .start → s.checkTarget t.core (s.ctx t).pc (admits t .start) = .ok s1 b → b.legal = true →
      s.enterBlock t = .inr ((s1.setCtx t { s.ctx t with blk := b, pc := b.hdr + 8, enter := .none, windows := [] }).prefetch t.core b.pf b.next))
  ∧ (∀ (s : State) (i : Instr) (x : Sel) (l : List Move), s.agenda = .event i x :: l → s.running = true → eventRow i = true → placeOf i x = none →
      step s = finish (exec i { s with agenda := l, sel := x }))
  ∧ ∀ (s : State) (n : Nat) (l : List Nat) (t : Thr), s.agenda = [] → s.running = true → s.autoMove = none → s.turn = n :: l → n < 2 ^ 16 → s.pos < 15 →
      s.boundIn n s.pos = some t → s.holdClass t = none → step s = (({ s with turn := l }).attempt t).carry)
  ∧ ((∀ s : State, s.bootState = 3 → s.agenda = [] → step s = .fault .frozen)
  ∧ (∀ s : State, s.bootState = 3 → ∀ t l, s.agenda = .issue t :: l → step s = .next { s with agenda := l })
  ∧ (∀ s : State, s.bootState ≠ 1 → s.bootState ≠ 3 → s.agenda = [] → step s = .next s)
  ∧ (∀ s : State, s.bootState ≠ 1 → ∀ i x l, s.agenda = .event i x :: l → outside i = false → step s = .next { s with agenda := l })
  ∧ ∀ (s : State) (i : Instr) (x : Sel) (l : List Move), s.agenda = .event i x :: l → i ∈ [.reset, .attreq, .freeze, .freezecmd, .registerWrite, .powerSample, .thermalTrip, .clockStepUp] →
      step s = finish (exec i { s with agenda := l, sel := x }))

/-- R191, R197-R199: memory, full bits, flag words and the marks of uncorrectable data are in canonical form after reset. What an unlisted byte reads as is the model's choice (DESIGN CHOICE, log 2). -/
def Obligations.MemoryWfAtReset : Prop :=
  State.reset.memoryWf

/-- Every step keeps memory, full bits, flag words and the marks of uncorrectable data in canonical form (the model's own invariant, for R191 and R197-R199). What an unlisted byte reads as is the model's choice (DESIGN CHOICE, log 2). -/
def Obligations.StepKeepsMemoryWf : Prop :=
  ∀ s t : State, s.memoryWf → step s = .next t → t.memoryWf

/-- R33-R50: the word that encodes a well-formed instruction decodes to it, for every instruction and operand. -/
def Obligations.RoundTrip : Prop :=
  ∀ (i : Instr) (w : Lane), wf i = true → encode i = some w → decode w = .ok i

/-- R33-R52: words written out from the encodings decode to their instructions; opcode 0, a reserved function code, NOP with a register field set, a reserved comparison, a v field with bit 4 set and STF with lookahead decode to none. -/
def Obligations.DecodedWords : Prop :=
  decode 0x10221800 = .ok (.add 1 2 3)
  ∧ decode 0x14E8FFFE = .ok (.addi 7 8 (-2))
  ∧ decode 0x04229FFF = .ok (.bltu 1 2 (-1))
  ∧ decode 0x0BE10000 = .ok (.jal 31 0x10000)
  ∧ decode 0x40221860 = .ok (.fadd 1 2 3 .rdn)
  ∧ decode 0x506458FF = .ok (.ld 3 4 5 2 true (-1))
  ∧ decode 0x83C2E23A = .ok (.acasQ 15 2 14 4 .mod)
  ∧ decode 0x84000040 = .ok (.fence .sys)
  ∧ decode 0x9048E2A3 = .ok (.vfma 1 2 3 4 5 .rtz)
  ∧ decode 0xA9940901 = .ok (.vsort 3 5 1 2 true)
  ∧ decode 0xC3800A05 = .ok (.mma 7 0 5)
  ∧ decode 0xC8220030 = .ok (.xpush 1 2 3)
  ∧ decode 0xD8223BF1 = .ok (.ldnear 1 2 7 63)
  ∧ decode 0xE022FE33 = .ok (.tstart 1 2 127 3)
  ∧ decode 0xF0030101 = .ok (.swr 3 0x010)
  ∧ decode 0xFFFFFFFF = .ok (.brk 0x3FFFFFF)
  ∧ (∃ r, decode 0x00000000 = .error r)
  ∧ (∃ r, decode 0x1000000F = .error r)
  ∧ (∃ r, decode 0x0C200001 = .error r)
  ∧ (∃ r, decode 0x0400C000 = .error r)
  ∧ (∃ r, decode 0x6BE46BC0 = .error r)
  ∧ (∃ r, decode 0x5864F881 = .error r)
end

