-- ==== Sys2Proof/Laws/SMap.lean ====
section
/-! SUPPORT. The laws of sparse maps: what a lookup gives after each update, for any list, and that every update keeps the canonical form. -/

namespace Sys2Proof

variable {α : Type}

/-! ## Numbers in a row -/

@[simp] theorem length_rangeFrom (a n : Nat) : (rangeFrom a n).length = n := by
  induction n generalizing a with
  | zero => rfl
  | succ n ih => simp [rangeFrom, ih]

@[simp] theorem mem_rangeFrom {a n x : Nat} : x ∈ rangeFrom a n ↔ a ≤ x ∧ x < a + n := by
  induction n generalizing a with
  | zero => simp [rangeFrom]
  | succ n ih => simp only [rangeFrom, List.mem_cons, ih]; omega

theorem getElem?_rangeFrom (a n i : Nat) : (rangeFrom a n)[i]? = if i < n then some (a + i) else none := by
  induction n generalizing a i with
  | zero => simp [rangeFrom]
  | succ n ih =>
    cases i with
    | zero => simp [rangeFrom]
    | succ i => simp only [rangeFrom, List.getElem?_cons_succ, ih, Nat.add_lt_add_iff_right]; congr 2; omega

@[simp] theorem length_leBytes (n x : Nat) : (leBytes n x).length = n := by
  induction n generalizing x with
  | zero => rfl
  | succ n ih => simp [leBytes, ih]

/-- Bytes of a number read back, modulo their count. -/
theorem ofLeBytes_leBytes (n x : Nat) : ofLeBytes (leBytes n x) = x % 256 ^ n := by
  induction n generalizing x with
  | zero => simp [leBytes, ofLeBytes, Nat.mod_one]
  | succ n ih =>
    have h : (256 : Nat) ^ (n + 1) = 256 * 256 ^ n := Nat.pow_succ'
    simp only [leBytes, ofLeBytes, ih, BitVec.toNat_ofNat]
    rw [h, Nat.mod_mul]

/-! ## Lookups after updates -/

@[simp] theorem SMap.get_nil (d : α) (k : Nat) : SMap.get d [] k = d := rfl
@[simp] theorem SMap.find_nil (k : Nat) : SMap.find ([] : SMap α) k = none := rfl

/-- A lookup with a default is the lookup of the listed value. -/
theorem SMap.get_eq_find (d : α) (m : SMap α) (k : Nat) : SMap.get d m k = (SMap.find m k).getD d := by
  induction m with
  | nil => rfl
  | cons p t ih => obtain ⟨a, x⟩ := p; simp only [SMap.get, SMap.find]; split <;> simp [ih]

@[simp] theorem SMap.find_ins (m : SMap α) (k j : Nat) (v : α) :
    SMap.find (SMap.ins m k v) j = if k = j then some v else SMap.find m j := by
  induction m with
  | nil => simp [SMap.ins, SMap.find]
  | cons p t ih =>
    obtain ⟨a, x⟩ := p
    simp only [SMap.ins]
    split
    · simp [SMap.find]
    · split
      · subst_vars; simp only [SMap.find]; split <;> simp_all
      · simp only [SMap.find, ih]; split <;> split <;> simp_all

@[simp] theorem SMap.find_filter (m : SMap α) (p : Nat → Bool) (j : Nat) :
    SMap.find (m.filter (fun x => p x.1)) j = if p j then SMap.find m j else none := by
  induction m with
  | nil => simp [SMap.find]
  | cons q t ih =>
    obtain ⟨a, x⟩ := q
    by_cases h : p a <;> by_cases hj : a = j <;> simp_all [SMap.find]

@[simp] theorem SMap.find_del (m : SMap α) (k j : Nat) : SMap.find (SMap.del m k) j = if j = k then none else SMap.find m j := by
  simp only [SMap.del, SMap.find_filter m (fun a => a != k)]
  by_cases h : j = k <;> simp [h]

theorem SMap.find_append (a b : SMap α) (j : Nat) : SMap.find (a ++ b) j = (SMap.find a j).or (SMap.find b j) := by
  induction a with
  | nil => simp
  | cons p t ih => obtain ⟨x, v⟩ := p; simp only [List.cons_append, SMap.find, ih]; split <;> simp

/-- A listed value under a map of the values. -/
theorem SMap.find_map {β : Type} (m : SMap α) (f : α → β) (j : Nat) :
    SMap.find (m.map (fun p => (p.1, f p.2))) j = (SMap.find m j).map f := by
  induction m with
  | nil => rfl
  | cons p t ih => obtain ⟨a, x⟩ := p; simp only [List.map_cons, SMap.find, ih]; split <;> simp

theorem SMap.find_map' {β : Type} (m : SMap α) (f : Nat × α → β) (j : Nat) :
    SMap.find (m.map (fun p => (p.1, f p))) j = (SMap.find m j).map (fun x => f (j, x)) := by
  induction m with
  | nil => rfl
  | cons p t ih => obtain ⟨a, x⟩ := p; simp only [List.map_cons, SMap.find, ih]; split <;> simp_all

/-- A found pair is a member. -/
theorem SMap.mem_of_find {m : SMap α} {j : Nat} {x : α} (h : SMap.find m j = some x) : (j, x) ∈ m := by
  induction m with
  | nil => simp at h
  | cons p t ih =>
    obtain ⟨a, y⟩ := p
    simp only [SMap.find] at h
    split at h
    · simp_all
    · exact List.mem_cons_of_mem _ (ih h)

@[simp] theorem SMap.get_ins (d : α) (m : SMap α) (k j : Nat) (v : α) :
    SMap.get d (SMap.ins m k v) j = if k = j then v else SMap.get d m j := by
  simp only [SMap.get_eq_find, SMap.find_ins]; split <;> rfl

@[simp] theorem SMap.get_del (d : α) (m : SMap α) (k j : Nat) : SMap.get d (SMap.del m k) j = if j = k then d else SMap.get d m j := by
  simp only [SMap.get_eq_find, SMap.find_del]; split <;> rfl

@[simp] theorem SMap.get_put [DecidableEq α] (d : α) (m : SMap α) (k j : Nat) (v : α) :
    SMap.get d (SMap.put d m k v) j = if k = j then v else SMap.get d m j := by
  unfold SMap.put
  split
  · subst_vars; simp only [SMap.get_del, eq_comm]
  · simp

theorem SMap.get_put_self [DecidableEq α] (d : α) (m : SMap α) (k : Nat) (v : α) : SMap.get d (SMap.put d m k v) k = v := by simp

theorem SMap.get_put_of_ne [DecidableEq α] (d : α) (m : SMap α) {k j : Nat} (v : α) (h : k ≠ j) :
    SMap.get d (SMap.put d m k v) j = SMap.get d m j := by simp [h]

theorem SMap.find_row [DecidableEq α] (d : α) (k : Nat) (l : List α) (j : Nat) :
    (SMap.find (SMap.row d k l) j).getD d = if k ≤ j ∧ j < k + l.length then (l[j - k]?).getD d else d := by
  induction l generalizing k with
  | nil => simp [SMap.row]
  | cons x t ih =>
    simp only [SMap.row]
    by_cases hj : j = k
    · subst hj
      split
      · rw [ih]; simp_all
      · simp [SMap.find]
    · have h1 : (k ≤ j ∧ j < k + (x :: t).length) ↔ (k + 1 ≤ j ∧ j < k + 1 + t.length) := by simp only [List.length_cons]; omega
      have h2 : k ≤ j → (x :: t)[j - k]? = t[j - (k + 1)]? := fun h => by
        have : j - k = (j - (k + 1)) + 1 := by omega
        rw [this]; simp
      split
      · rw [ih]; simp only [h1]; split <;> simp_all
      · simp only [SMap.find, if_neg (Ne.symm hj), ih, h1]; split
        · rw [h2 (by omega)]
        · rfl

/-- Keys outside a row are not listed in it. -/
theorem SMap.find_row_none [DecidableEq α] (d : α) (k : Nat) (l : List α) (j : Nat) (h : ¬ (k ≤ j ∧ j < k + l.length)) :
    SMap.find (SMap.row d k l) j = none := by
  induction l generalizing k with
  | nil => rfl
  | cons x t ih =>
    simp only [List.length_cons] at h
    simp only [SMap.row]
    split
    · exact ih _ (by omega)
    · simp only [SMap.find]; rw [if_neg (by omega)]; exact ih _ (by omega)

@[simp] theorem SMap.get_row [DecidableEq α] (d : α) (k : Nat) (l : List α) (j : Nat) :
    SMap.get d (SMap.row d k l) j = if k ≤ j ∧ j < k + l.length then (l[j - k]?).getD d else d := by
  rw [SMap.get_eq_find, SMap.find_row]

@[simp] theorem SMap.get_setRange [DecidableEq α] (d : α) (m : SMap α) (k : Nat) (l : List α) (j : Nat) :
    SMap.get d (SMap.setRange d m k l) j = if k ≤ j ∧ j < k + l.length then (l[j - k]?).getD d else SMap.get d m j := by
  have ha := SMap.find_filter m (fun a => decide (a < k)) j
  have hb := SMap.find_filter m (fun a => decide (k + l.length ≤ a)) j
  have hr := SMap.find_row d k l j
  simp only [SMap.get_eq_find, SMap.setRange, SMap.find_append, ha, hb]
  by_cases h : k ≤ j ∧ j < k + l.length
  · rw [if_pos h] at hr
    have h1 : ¬ j < k := by omega
    have h2 : ¬ k + l.length ≤ j := by omega
    simp [h, h1, h2, hr]
  · rw [SMap.find_row_none d k l j h, if_neg h]
    rcases Nat.lt_or_ge j k with h1 | h1
    · have h2 : ¬ k + l.length ≤ j := by omega
      simp [h1, h2]
    · have h1' : ¬ j < k := by omega
      have h2 : k + l.length ≤ j := by omega
      simp [h1', h2]

@[simp] theorem SMap.get_clearRange (d : α) (m : SMap α) (k n j : Nat) :
    SMap.get d (SMap.clearRange m k n) j = if k ≤ j ∧ j < k + n then d else SMap.get d m j := by
  simp only [SMap.get_eq_find, SMap.clearRange, SMap.find_filter m (fun a => decide (a < k) || decide (k + n ≤ a))]
  by_cases h : k ≤ j ∧ j < k + n
  · have : ¬ (j < k) ∧ ¬ (k + n ≤ j) := by omega
    simp [h, this]
  · have : j < k ∨ k + n ≤ j := by omega
    simp [h, this]

/-- A window of a map moved to another place. -/
theorem SMap.find_shift (m : SMap α) (a n i : Nat) (h : i < n) : SMap.find (SMap.slice m a n) i = SMap.find m (a + i) := by
  induction m with
  | nil => rfl
  | cons p t ih =>
    obtain ⟨x, v⟩ := p
    simp only [SMap.slice] at ih
    simp only [SMap.slice, List.filter_cons]
    by_cases hx : a ≤ x ∧ x < a + n
    · simp only [hx.1, hx.2, decide_true, Bool.and_self, if_true, List.map_cons, SMap.find, ih]
      by_cases he : x = a + i
      · simp [he]
      · rw [if_neg he, if_neg (by omega)]
    · have : (decide (a ≤ x) && decide (x < a + n)) = false := by simp; omega
      have hne : x ≠ a + i := by omega
      simp only [this, SMap.find, if_neg hne]
      exact ih

theorem SMap.find_addKey (m : SMap α) (k j : Nat) : SMap.find (m.map (fun p => (p.1 + k, p.2))) (j + k) = SMap.find m j := by
  induction m with
  | nil => rfl
  | cons p t ih => obtain ⟨a, x⟩ := p; simp only [List.map_cons, SMap.find, ih, Nat.add_right_cancel_iff]

theorem SMap.find_addKey_none (m : SMap α) (k j : Nat) (h : j < k) : SMap.find (m.map (fun p => (p.1 + k, p.2))) j = none := by
  induction m with
  | nil => rfl
  | cons p t ih => obtain ⟨a, x⟩ := p; simp only [List.map_cons, SMap.find, ih]; rw [if_neg (by omega)]

@[simp] theorem SMap.get_overlay (d : α) (m b : SMap α) (k n j : Nat) :
    SMap.get d (SMap.overlay m k n b) j = if k ≤ j ∧ j < k + n then SMap.get d b (j - k) else SMap.get d m j := by
  have ha := SMap.find_filter m (fun a => decide (a < k)) j
  have hb := SMap.find_filter m (fun a => decide (k + n ≤ a)) j
  simp only [SMap.get_eq_find, SMap.overlay, SMap.find_append, ha, hb]
  by_cases h1 : j < k
  · have h2 : ¬ k + n ≤ j := by omega
    have h3 : ¬ (k ≤ j ∧ j < k + n) := by omega
    rw [SMap.find_addKey_none _ _ _ h1]
    simp [h1, h2, h3]
  · obtain ⟨i, rfl⟩ : ∃ i, j = i + k := ⟨j - k, by omega⟩
    have hc := SMap.find_filter b (fun a => decide (a < n)) i
    rw [SMap.find_addKey, hc]
    by_cases h2 : i < n
    · have h3 : ¬ k + n ≤ i + k := by omega
      have h4 : i + k < k + n := by omega
      simp [h1, h2, h3, h4]
    · have h3 : k + n ≤ i + k := by omega
      have h4 : ¬ i + k < k + n := by omega
      simp [h1, h2, h3, h4]

/-! ## The canonical form -/

section
variable [DecidableEq α] (d : α)

theorem SMap.sortedFrom_mono {m : SMap α} {a b : Nat} (h : SMap.sortedFrom d b m = true) (hab : a ≤ b) : SMap.sortedFrom d a m = true := by
  cases m with
  | nil => rfl
  | cons p t => obtain ⟨x, v⟩ := p; simp only [SMap.sortedFrom, Bool.and_eq_true, decide_eq_true_eq] at *; exact ⟨⟨by omega, h.1.2⟩, h.2⟩

theorem SMap.sortedFrom_filter {m : SMap α} {a : Nat} (p : Nat × α → Bool) (h : SMap.sortedFrom d a m = true) :
    SMap.sortedFrom d a (m.filter p) = true := by
  induction m generalizing a with
  | nil => rfl
  | cons q t ih =>
    obtain ⟨x, v⟩ := q
    simp only [SMap.sortedFrom, Bool.and_eq_true, decide_eq_true_eq] at h
    simp only [List.filter_cons]
    split
    · simp only [SMap.sortedFrom, Bool.and_eq_true, decide_eq_true_eq]; exact ⟨h.1, ih h.2⟩
    · exact SMap.sortedFrom_mono d (ih h.2) (by omega)

theorem SMap.sortedFrom_ins {m : SMap α} {a k : Nat} {v : α} (hv : v ≠ d) (hk : a ≤ k) (h : SMap.sortedFrom d a m = true) :
    SMap.sortedFrom d a (SMap.ins m k v) = true := by
  induction m generalizing a with
  | nil => simp [SMap.ins, SMap.sortedFrom, hv, hk]
  | cons q t ih =>
    obtain ⟨x, w⟩ := q
    simp only [SMap.sortedFrom, Bool.and_eq_true, decide_eq_true_eq, Bool.not_eq_true', decide_eq_false_iff_not] at h
    simp only [SMap.ins]
    split
    · simp only [SMap.sortedFrom, Bool.and_eq_true, decide_eq_true_eq, Bool.not_eq_true', decide_eq_false_iff_not]
      exact ⟨⟨hk, hv⟩, ⟨by omega, h.1.2⟩, h.2⟩
    · split
      · simp only [SMap.sortedFrom, Bool.and_eq_true, decide_eq_true_eq, Bool.not_eq_true', decide_eq_false_iff_not]
        subst_vars; exact ⟨⟨hk, hv⟩, h.2⟩
      · simp only [SMap.sortedFrom, Bool.and_eq_true, decide_eq_true_eq, Bool.not_eq_true', decide_eq_false_iff_not]
        exact ⟨h.1, ih (by omega) h.2⟩

theorem SMap.sortedFrom_append {a b : SMap α} {lo hi : Nat} (ha : SMap.sortedFrom d lo a = true) (hlt : ∀ p ∈ a, p.1 < hi) (hlo : lo ≤ hi)
    (hb : SMap.sortedFrom d hi b = true) : SMap.sortedFrom d lo (a ++ b) = true := by
  induction a generalizing lo with
  | nil => exact SMap.sortedFrom_mono d hb hlo
  | cons q t ih =>
    obtain ⟨x, v⟩ := q
    simp only [SMap.sortedFrom, Bool.and_eq_true, decide_eq_true_eq] at ha
    simp only [List.cons_append, SMap.sortedFrom, Bool.and_eq_true, decide_eq_true_eq]
    have hx : x < hi := hlt (x, v) (by simp)
    exact ⟨ha.1, ih ha.2 (fun p hp => hlt p (List.mem_cons_of_mem _ hp)) (by omega)⟩

theorem SMap.sortedFrom_row (k : Nat) (l : List α) : SMap.sortedFrom d k (SMap.row d k l) = true ∧ ∀ p ∈ SMap.row d k l, p.1 < k + l.length := by
  induction l generalizing k with
  | nil => simp [SMap.row, SMap.sortedFrom]
  | cons x t ih =>
    obtain ⟨h1, h2⟩ := ih (k + 1)
    simp only [SMap.row, List.length_cons]
    split
    · exact ⟨SMap.sortedFrom_mono d h1 (by omega), fun p hp => by have := h2 p hp; omega⟩
    · refine ⟨by simp [SMap.sortedFrom, h1]; assumption, fun p hp => ?_⟩
      rcases List.mem_cons.1 hp with rfl | hp
      · simp
      · have := h2 p hp; omega

/-- Entries from a bound on are sorted from there. -/
theorem SMap.sortedFrom_from {m : SMap α} {a b : Nat} (h : SMap.sortedFrom d a m = true) (hb : ∀ p ∈ m, b ≤ p.1) : SMap.sortedFrom d b m = true := by
  cases m with
  | nil => rfl
  | cons p t =>
    obtain ⟨x, v⟩ := p
    simp only [SMap.sortedFrom, Bool.and_eq_true, decide_eq_true_eq] at *
    exact ⟨⟨hb (x, v) (by simp), h.1.2⟩, h.2⟩

theorem SMap.wf_nil : SMap.wf d ([] : SMap α) = true := rfl

variable {d}

theorem SMap.wf_filter {m : SMap α} (p : Nat × α → Bool) (h : SMap.wf d m = true) : SMap.wf d (m.filter p) = true := SMap.sortedFrom_filter d p h

theorem SMap.wf_put {m : SMap α} (k : Nat) (v : α) (h : SMap.wf d m = true) : SMap.wf d (SMap.put d m k v) = true := by
  unfold SMap.put
  split
  · exact SMap.wf_filter _ h
  · exact SMap.sortedFrom_ins d ‹_› (Nat.zero_le _) h

theorem SMap.wf_setRange {m : SMap α} (k : Nat) (l : List α) (h : SMap.wf d m = true) : SMap.wf d (SMap.setRange d m k l) = true := by
  have hr := SMap.sortedFrom_row d k l
  refine SMap.sortedFrom_append d (SMap.sortedFrom_filter d _ h) (fun p hp => by simpa using (List.mem_filter.1 hp).2) (Nat.zero_le _)
    (SMap.sortedFrom_append d hr.1 hr.2 (Nat.le_add_right _ _) (SMap.sortedFrom_from d (SMap.sortedFrom_filter d _ h) fun p hp => by simpa using (List.mem_filter.1 hp).2))

theorem SMap.wf_clearRange {m : SMap α} (k n : Nat) (h : SMap.wf d m = true) : SMap.wf d (SMap.clearRange m k n) = true := SMap.wf_filter _ h

theorem SMap.sortedFrom_sub {m : SMap α} {a b : Nat} (h : SMap.sortedFrom d (a + b) m = true) :
    SMap.sortedFrom d a (m.map (fun p => (p.1 - b, p.2))) = true := by
  induction m generalizing a with
  | nil => rfl
  | cons q t ih =>
    obtain ⟨x, v⟩ := q
    simp only [SMap.sortedFrom, Bool.and_eq_true, decide_eq_true_eq] at h
    simp only [List.map_cons, SMap.sortedFrom, Bool.and_eq_true, decide_eq_true_eq]
    exact ⟨⟨by omega, h.1.2⟩, ih (SMap.sortedFrom_mono d h.2 (by omega))⟩

theorem SMap.sortedFrom_add {m : SMap α} {a : Nat} (b : Nat) (h : SMap.sortedFrom d a m = true) :
    SMap.sortedFrom d (a + b) (m.map (fun p => (p.1 + b, p.2))) = true := by
  induction m generalizing a with
  | nil => rfl
  | cons q t ih =>
    obtain ⟨x, v⟩ := q
    simp only [SMap.sortedFrom, Bool.and_eq_true, decide_eq_true_eq] at h
    simp only [List.map_cons, SMap.sortedFrom, Bool.and_eq_true, decide_eq_true_eq]
    refine ⟨⟨by omega, h.1.2⟩, ?_⟩
    have := ih h.2
    rwa [Nat.add_right_comm] at this

theorem SMap.wf_slice {m : SMap α} (k n : Nat) (h : SMap.wf d m = true) : SMap.wf d (SMap.slice m k n) = true := by
  refine SMap.sortedFrom_sub (b := k) (SMap.sortedFrom_from d (SMap.sortedFrom_filter d _ h) fun p hp => ?_)
  have := (List.mem_filter.1 hp).2
  simp at this; omega

theorem SMap.wf_overlay {m b : SMap α} (k n : Nat) (h : SMap.wf d m = true) (hb : SMap.wf d b = true) : SMap.wf d (SMap.overlay m k n b) = true := by
  refine SMap.sortedFrom_append d (SMap.sortedFrom_filter d _ h) (fun p hp => by simpa using (List.mem_filter.1 hp).2) (Nat.zero_le _)
    (SMap.sortedFrom_append d (hi := k + n) ?_ ?_ (Nat.le_add_right _ _) (SMap.sortedFrom_from d (SMap.sortedFrom_filter d _ h) fun p hp => by simpa using (List.mem_filter.1 hp).2))
  · have := SMap.sortedFrom_add k (SMap.sortedFrom_filter d (fun p => decide (p.1 < n)) hb)
    rwa [Nat.zero_add] at this
  · intro p hp
    obtain ⟨q, hq, rfl⟩ := List.mem_map.1 hp
    have := (List.mem_filter.1 hq).2
    simp at this ⊢; omega

end

end Sys2Proof
end

