-- ==== Sys2Proof/Laws/State.lean ====
section
/-! SUPPORT. One lemma for each field under each update of the state, and for each accessor under each update. -/

namespace Sys2Proof.Machine

/-! ## Fields of the module -/

@[simp] theorem State.setCore_trays (s : State) (n : Nat) (c : Core) : (s.setCore n c).trays = s.trays := rfl
@[simp] theorem State.setCore_parts (s : State) (n : Nat) (c : Core) : (s.setCore n c).parts = s.parts := rfl
@[simp] theorem State.setCore_gangs (s : State) (n : Nat) (c : Core) : (s.setCore n c).gangs = s.gangs := rfl
@[simp] theorem State.setCore_mem (s : State) (n : Nat) (c : Core) : (s.setCore n c).mem = s.mem := rfl
@[simp] theorem State.setCore_full (s : State) (n : Nat) (c : Core) : (s.setCore n c).full = s.full := rfl
@[simp] theorem State.setCore_flags (s : State) (n : Nat) (c : Core) : (s.setCore n c).flags = s.flags := rfl
@[simp] theorem State.setCore_poison (s : State) (n : Nat) (c : Core) : (s.setCore n c).poison = s.poison := rfl
@[simp] theorem State.setCore_icache (s : State) (n : Nat) (c : Core) : (s.setCore n c).icache = s.icache := rfl
@[simp] theorem State.setCore_owners (s : State) (n : Nat) (c : Core) : (s.setCore n c).owners = s.owners := rfl
@[simp] theorem State.setCore_ents (s : State) (n : Nat) (c : Core) : (s.setCore n c).ents = s.ents := rfl
@[simp] theorem State.setCore_cmds (s : State) (n : Nat) (c : Core) : (s.setCore n c).cmds = s.cmds := rfl
@[simp] theorem State.setCore_mgmt (s : State) (n : Nat) (c : Core) : (s.setCore n c).mgmt = s.mgmt := rfl
@[simp] theorem State.setCore_links (s : State) (n : Nat) (c : Core) : (s.setCore n c).links = s.links := rfl
@[simp] theorem State.setCore_time (s : State) (n : Nat) (c : Core) : (s.setCore n c).time = s.time := rfl
@[simp] theorem State.setCore_agenda (s : State) (n : Nat) (c : Core) : (s.setCore n c).agenda = s.agenda := rfl
@[simp] theorem State.setCore_pos (s : State) (n : Nat) (c : Core) : (s.setCore n c).pos = s.pos := rfl
@[simp] theorem State.setCore_turn (s : State) (n : Nat) (c : Core) : (s.setCore n c).turn = s.turn := rfl
@[simp] theorem State.setCore_cur (s : State) (n : Nat) (c : Core) : (s.setCore n c).cur = s.cur := rfl
@[simp] theorem State.setCore_sel (s : State) (n : Nat) (c : Core) : (s.setCore n c).sel = s.sel := rfl
@[simp] theorem State.setCore_next (s : State) (n : Nat) (c : Core) : (s.setCore n c).next = s.next := rfl
@[simp] theorem State.setCore_frees (s : State) (n : Nat) (c : Core) : (s.setCore n c).frees = s.frees := rfl

@[simp] theorem State.setTray_cores (s : State) (n : Nat) (x : Tray) : (s.setTray n x).cores = s.cores := rfl
@[simp] theorem State.setTray_parts (s : State) (n : Nat) (x : Tray) : (s.setTray n x).parts = s.parts := rfl
@[simp] theorem State.setTray_gangs (s : State) (n : Nat) (x : Tray) : (s.setTray n x).gangs = s.gangs := rfl
@[simp] theorem State.setTray_mem (s : State) (n : Nat) (x : Tray) : (s.setTray n x).mem = s.mem := rfl
@[simp] theorem State.setTray_full (s : State) (n : Nat) (x : Tray) : (s.setTray n x).full = s.full := rfl
@[simp] theorem State.setTray_flags (s : State) (n : Nat) (x : Tray) : (s.setTray n x).flags = s.flags := rfl
@[simp] theorem State.setTray_poison (s : State) (n : Nat) (x : Tray) : (s.setTray n x).poison = s.poison := rfl
@[simp] theorem State.setTray_icache (s : State) (n : Nat) (x : Tray) : (s.setTray n x).icache = s.icache := rfl
@[simp] theorem State.setTray_owners (s : State) (n : Nat) (x : Tray) : (s.setTray n x).owners = s.owners := rfl
@[simp] theorem State.setTray_ents (s : State) (n : Nat) (x : Tray) : (s.setTray n x).ents = s.ents := rfl
@[simp] theorem State.setTray_cmds (s : State) (n : Nat) (x : Tray) : (s.setTray n x).cmds = s.cmds := rfl
@[simp] theorem State.setTray_mgmt (s : State) (n : Nat) (x : Tray) : (s.setTray n x).mgmt = s.mgmt := rfl
@[simp] theorem State.setTray_links (s : State) (n : Nat) (x : Tray) : (s.setTray n x).links = s.links := rfl
@[simp] theorem State.setTray_time (s : State) (n : Nat) (x : Tray) : (s.setTray n x).time = s.time := rfl
@[simp] theorem State.setTray_agenda (s : State) (n : Nat) (x : Tray) : (s.setTray n x).agenda = s.agenda := rfl
@[simp] theorem State.setTray_pos (s : State) (n : Nat) (x : Tray) : (s.setTray n x).pos = s.pos := rfl
@[simp] theorem State.setTray_turn (s : State) (n : Nat) (x : Tray) : (s.setTray n x).turn = s.turn := rfl
@[simp] theorem State.setTray_cur (s : State) (n : Nat) (x : Tray) : (s.setTray n x).cur = s.cur := rfl
@[simp] theorem State.setTray_sel (s : State) (n : Nat) (x : Tray) : (s.setTray n x).sel = s.sel := rfl
@[simp] theorem State.setTray_next (s : State) (n : Nat) (x : Tray) : (s.setTray n x).next = s.next := rfl
@[simp] theorem State.setTray_frees (s : State) (n : Nat) (x : Tray) : (s.setTray n x).frees = s.frees := rfl

@[simp] theorem State.setPart_cores (s : State) (n : Nat) (x : Part) : (s.setPart n x).cores = s.cores := rfl
@[simp] theorem State.setPart_trays (s : State) (n : Nat) (x : Part) : (s.setPart n x).trays = s.trays := rfl
@[simp] theorem State.setPart_gangs (s : State) (n : Nat) (x : Part) : (s.setPart n x).gangs = s.gangs := rfl
@[simp] theorem State.setPart_mem (s : State) (n : Nat) (x : Part) : (s.setPart n x).mem = s.mem := rfl
@[simp] theorem State.setPart_full (s : State) (n : Nat) (x : Part) : (s.setPart n x).full = s.full := rfl
@[simp] theorem State.setPart_flags (s : State) (n : Nat) (x : Part) : (s.setPart n x).flags = s.flags := rfl
@[simp] theorem State.setPart_poison (s : State) (n : Nat) (x : Part) : (s.setPart n x).poison = s.poison := rfl
@[simp] theorem State.setPart_icache (s : State) (n : Nat) (x : Part) : (s.setPart n x).icache = s.icache := rfl
@[simp] theorem State.setPart_owners (s : State) (n : Nat) (x : Part) : (s.setPart n x).owners = s.owners := rfl
@[simp] theorem State.setPart_ents (s : State) (n : Nat) (x : Part) : (s.setPart n x).ents = s.ents := rfl
@[simp] theorem State.setPart_cmds (s : State) (n : Nat) (x : Part) : (s.setPart n x).cmds = s.cmds := rfl
@[simp] theorem State.setPart_mgmt (s : State) (n : Nat) (x : Part) : (s.setPart n x).mgmt = s.mgmt := rfl
@[simp] theorem State.setPart_links (s : State) (n : Nat) (x : Part) : (s.setPart n x).links = s.links := rfl
@[simp] theorem State.setPart_time (s : State) (n : Nat) (x : Part) : (s.setPart n x).time = s.time := rfl
@[simp] theorem State.setPart_agenda (s : State) (n : Nat) (x : Part) : (s.setPart n x).agenda = s.agenda := rfl
@[simp] theorem State.setPart_pos (s : State) (n : Nat) (x : Part) : (s.setPart n x).pos = s.pos := rfl
@[simp] theorem State.setPart_turn (s : State) (n : Nat) (x : Part) : (s.setPart n x).turn = s.turn := rfl
@[simp] theorem State.setPart_cur (s : State) (n : Nat) (x : Part) : (s.setPart n x).cur = s.cur := rfl
@[simp] theorem State.setPart_sel (s : State) (n : Nat) (x : Part) : (s.setPart n x).sel = s.sel := rfl
@[simp] theorem State.setPart_next (s : State) (n : Nat) (x : Part) : (s.setPart n x).next = s.next := rfl
@[simp] theorem State.setPart_frees (s : State) (n : Nat) (x : Part) : (s.setPart n x).frees = s.frees := rfl

@[simp] theorem State.setOwner_cores (s : State) (n : Nat) (x : Owner) : (s.setOwner n x).cores = s.cores := rfl
@[simp] theorem State.setOwner_trays (s : State) (n : Nat) (x : Owner) : (s.setOwner n x).trays = s.trays := rfl
@[simp] theorem State.setOwner_parts (s : State) (n : Nat) (x : Owner) : (s.setOwner n x).parts = s.parts := rfl
@[simp] theorem State.setOwner_gangs (s : State) (n : Nat) (x : Owner) : (s.setOwner n x).gangs = s.gangs := rfl
@[simp] theorem State.setOwner_mem (s : State) (n : Nat) (x : Owner) : (s.setOwner n x).mem = s.mem := rfl
@[simp] theorem State.setOwner_full (s : State) (n : Nat) (x : Owner) : (s.setOwner n x).full = s.full := rfl
@[simp] theorem State.setOwner_flags (s : State) (n : Nat) (x : Owner) : (s.setOwner n x).flags = s.flags := rfl
@[simp] theorem State.setOwner_poison (s : State) (n : Nat) (x : Owner) : (s.setOwner n x).poison = s.poison := rfl
@[simp] theorem State.setOwner_icache (s : State) (n : Nat) (x : Owner) : (s.setOwner n x).icache = s.icache := rfl
@[simp] theorem State.setOwner_ents (s : State) (n : Nat) (x : Owner) : (s.setOwner n x).ents = s.ents := rfl
@[simp] theorem State.setOwner_cmds (s : State) (n : Nat) (x : Owner) : (s.setOwner n x).cmds = s.cmds := rfl
@[simp] theorem State.setOwner_mgmt (s : State) (n : Nat) (x : Owner) : (s.setOwner n x).mgmt = s.mgmt := rfl
@[simp] theorem State.setOwner_links (s : State) (n : Nat) (x : Owner) : (s.setOwner n x).links = s.links := rfl
@[simp] theorem State.setOwner_time (s : State) (n : Nat) (x : Owner) : (s.setOwner n x).time = s.time := rfl
@[simp] theorem State.setOwner_agenda (s : State) (n : Nat) (x : Owner) : (s.setOwner n x).agenda = s.agenda := rfl
@[simp] theorem State.setOwner_pos (s : State) (n : Nat) (x : Owner) : (s.setOwner n x).pos = s.pos := rfl
@[simp] theorem State.setOwner_turn (s : State) (n : Nat) (x : Owner) : (s.setOwner n x).turn = s.turn := rfl
@[simp] theorem State.setOwner_cur (s : State) (n : Nat) (x : Owner) : (s.setOwner n x).cur = s.cur := rfl
@[simp] theorem State.setOwner_sel (s : State) (n : Nat) (x : Owner) : (s.setOwner n x).sel = s.sel := rfl
@[simp] theorem State.setOwner_next (s : State) (n : Nat) (x : Owner) : (s.setOwner n x).next = s.next := rfl
@[simp] theorem State.setOwner_frees (s : State) (n : Nat) (x : Owner) : (s.setOwner n x).frees = s.frees := rfl

@[simp] theorem State.setGang_cores (s : State) (n : Nat) (x : Gang) : (s.setGang n x).cores = s.cores := rfl
@[simp] theorem State.setGang_trays (s : State) (n : Nat) (x : Gang) : (s.setGang n x).trays = s.trays := rfl
@[simp] theorem State.setGang_parts (s : State) (n : Nat) (x : Gang) : (s.setGang n x).parts = s.parts := rfl
@[simp] theorem State.setGang_mem (s : State) (n : Nat) (x : Gang) : (s.setGang n x).mem = s.mem := rfl
@[simp] theorem State.setGang_full (s : State) (n : Nat) (x : Gang) : (s.setGang n x).full = s.full := rfl
@[simp] theorem State.setGang_flags (s : State) (n : Nat) (x : Gang) : (s.setGang n x).flags = s.flags := rfl
@[simp] theorem State.setGang_poison (s : State) (n : Nat) (x : Gang) : (s.setGang n x).poison = s.poison := rfl
@[simp] theorem State.setGang_icache (s : State) (n : Nat) (x : Gang) : (s.setGang n x).icache = s.icache := rfl
@[simp] theorem State.setGang_owners (s : State) (n : Nat) (x : Gang) : (s.setGang n x).owners = s.owners := rfl
@[simp] theorem State.setGang_ents (s : State) (n : Nat) (x : Gang) : (s.setGang n x).ents = s.ents := rfl
@[simp] theorem State.setGang_cmds (s : State) (n : Nat) (x : Gang) : (s.setGang n x).cmds = s.cmds := rfl
@[simp] theorem State.setGang_mgmt (s : State) (n : Nat) (x : Gang) : (s.setGang n x).mgmt = s.mgmt := rfl
@[simp] theorem State.setGang_links (s : State) (n : Nat) (x : Gang) : (s.setGang n x).links = s.links := rfl
@[simp] theorem State.setGang_time (s : State) (n : Nat) (x : Gang) : (s.setGang n x).time = s.time := rfl
@[simp] theorem State.setGang_agenda (s : State) (n : Nat) (x : Gang) : (s.setGang n x).agenda = s.agenda := rfl
@[simp] theorem State.setGang_pos (s : State) (n : Nat) (x : Gang) : (s.setGang n x).pos = s.pos := rfl
@[simp] theorem State.setGang_turn (s : State) (n : Nat) (x : Gang) : (s.setGang n x).turn = s.turn := rfl
@[simp] theorem State.setGang_cur (s : State) (n : Nat) (x : Gang) : (s.setGang n x).cur = s.cur := rfl
@[simp] theorem State.setGang_sel (s : State) (n : Nat) (x : Gang) : (s.setGang n x).sel = s.sel := rfl
@[simp] theorem State.setGang_next (s : State) (n : Nat) (x : Gang) : (s.setGang n x).next = s.next := rfl
@[simp] theorem State.setGang_frees (s : State) (n : Nat) (x : Gang) : (s.setGang n x).frees = s.frees := rfl

@[simp] theorem State.setCmd_cores (s : State) (c : Cmd) : (s.setCmd c).cores = s.cores := rfl
@[simp] theorem State.setCmd_trays (s : State) (c : Cmd) : (s.setCmd c).trays = s.trays := rfl
@[simp] theorem State.setCmd_parts (s : State) (c : Cmd) : (s.setCmd c).parts = s.parts := rfl
@[simp] theorem State.setCmd_gangs (s : State) (c : Cmd) : (s.setCmd c).gangs = s.gangs := rfl
@[simp] theorem State.setCmd_mem (s : State) (c : Cmd) : (s.setCmd c).mem = s.mem := rfl
@[simp] theorem State.setCmd_full (s : State) (c : Cmd) : (s.setCmd c).full = s.full := rfl
@[simp] theorem State.setCmd_flags (s : State) (c : Cmd) : (s.setCmd c).flags = s.flags := rfl
@[simp] theorem State.setCmd_poison (s : State) (c : Cmd) : (s.setCmd c).poison = s.poison := rfl
@[simp] theorem State.setCmd_icache (s : State) (c : Cmd) : (s.setCmd c).icache = s.icache := rfl
@[simp] theorem State.setCmd_owners (s : State) (c : Cmd) : (s.setCmd c).owners = s.owners := rfl
@[simp] theorem State.setCmd_ents (s : State) (c : Cmd) : (s.setCmd c).ents = s.ents := rfl
@[simp] theorem State.setCmd_mgmt (s : State) (c : Cmd) : (s.setCmd c).mgmt = s.mgmt := rfl
@[simp] theorem State.setCmd_links (s : State) (c : Cmd) : (s.setCmd c).links = s.links := rfl
@[simp] theorem State.setCmd_time (s : State) (c : Cmd) : (s.setCmd c).time = s.time := rfl
@[simp] theorem State.setCmd_agenda (s : State) (c : Cmd) : (s.setCmd c).agenda = s.agenda := rfl
@[simp] theorem State.setCmd_pos (s : State) (c : Cmd) : (s.setCmd c).pos = s.pos := rfl
@[simp] theorem State.setCmd_turn (s : State) (c : Cmd) : (s.setCmd c).turn = s.turn := rfl
@[simp] theorem State.setCmd_cur (s : State) (c : Cmd) : (s.setCmd c).cur = s.cur := rfl
@[simp] theorem State.setCmd_sel (s : State) (c : Cmd) : (s.setCmd c).sel = s.sel := rfl
@[simp] theorem State.setCmd_next (s : State) (c : Cmd) : (s.setCmd c).next = s.next := rfl
@[simp] theorem State.setCmd_frees (s : State) (c : Cmd) : (s.setCmd c).frees = s.frees := rfl

@[simp] theorem State.writeLoc_cores (s : State) (l : Nat) (b : Byte) : (s.writeLoc l b).cores = s.cores := rfl
@[simp] theorem State.writeLoc_trays (s : State) (l : Nat) (b : Byte) : (s.writeLoc l b).trays = s.trays := rfl
@[simp] theorem State.writeLoc_parts (s : State) (l : Nat) (b : Byte) : (s.writeLoc l b).parts = s.parts := rfl
@[simp] theorem State.writeLoc_gangs (s : State) (l : Nat) (b : Byte) : (s.writeLoc l b).gangs = s.gangs := rfl
@[simp] theorem State.writeLoc_full (s : State) (l : Nat) (b : Byte) : (s.writeLoc l b).full = s.full := rfl
@[simp] theorem State.writeLoc_flags (s : State) (l : Nat) (b : Byte) : (s.writeLoc l b).flags = s.flags := rfl
@[simp] theorem State.writeLoc_poison (s : State) (l : Nat) (b : Byte) : (s.writeLoc l b).poison = s.poison := rfl
@[simp] theorem State.writeLoc_icache (s : State) (l : Nat) (b : Byte) : (s.writeLoc l b).icache = s.icache := rfl
@[simp] theorem State.writeLoc_owners (s : State) (l : Nat) (b : Byte) : (s.writeLoc l b).owners = s.owners := rfl
@[simp] theorem State.writeLoc_ents (s : State) (l : Nat) (b : Byte) : (s.writeLoc l b).ents = s.ents := rfl
@[simp] theorem State.writeLoc_cmds (s : State) (l : Nat) (b : Byte) : (s.writeLoc l b).cmds = s.cmds := rfl
@[simp] theorem State.writeLoc_mgmt (s : State) (l : Nat) (b : Byte) : (s.writeLoc l b).mgmt = s.mgmt := rfl
@[simp] theorem State.writeLoc_links (s : State) (l : Nat) (b : Byte) : (s.writeLoc l b).links = s.links := rfl
@[simp] theorem State.writeLoc_time (s : State) (l : Nat) (b : Byte) : (s.writeLoc l b).time = s.time := rfl
@[simp] theorem State.writeLoc_agenda (s : State) (l : Nat) (b : Byte) : (s.writeLoc l b).agenda = s.agenda := rfl
@[simp] theorem State.writeLoc_pos (s : State) (l : Nat) (b : Byte) : (s.writeLoc l b).pos = s.pos := rfl
@[simp] theorem State.writeLoc_turn (s : State) (l : Nat) (b : Byte) : (s.writeLoc l b).turn = s.turn := rfl
@[simp] theorem State.writeLoc_cur (s : State) (l : Nat) (b : Byte) : (s.writeLoc l b).cur = s.cur := rfl
@[simp] theorem State.writeLoc_sel (s : State) (l : Nat) (b : Byte) : (s.writeLoc l b).sel = s.sel := rfl
@[simp] theorem State.writeLoc_next (s : State) (l : Nat) (b : Byte) : (s.writeLoc l b).next = s.next := rfl
@[simp] theorem State.writeLoc_frees (s : State) (l : Nat) (b : Byte) : (s.writeLoc l b).frees = s.frees := rfl

@[simp] theorem State.writeLocs_cores (s : State) (l : Nat) (b : List Byte) : (s.writeLocs l b).cores = s.cores := rfl
@[simp] theorem State.writeLocs_trays (s : State) (l : Nat) (b : List Byte) : (s.writeLocs l b).trays = s.trays := rfl
@[simp] theorem State.writeLocs_parts (s : State) (l : Nat) (b : List Byte) : (s.writeLocs l b).parts = s.parts := rfl
@[simp] theorem State.writeLocs_gangs (s : State) (l : Nat) (b : List Byte) : (s.writeLocs l b).gangs = s.gangs := rfl
@[simp] theorem State.writeLocs_full (s : State) (l : Nat) (b : List Byte) : (s.writeLocs l b).full = s.full := rfl
@[simp] theorem State.writeLocs_flags (s : State) (l : Nat) (b : List Byte) : (s.writeLocs l b).flags = s.flags := rfl
@[simp] theorem State.writeLocs_poison (s : State) (l : Nat) (b : List Byte) : (s.writeLocs l b).poison = s.poison := rfl
@[simp] theorem State.writeLocs_icache (s : State) (l : Nat) (b : List Byte) : (s.writeLocs l b).icache = s.icache := rfl
@[simp] theorem State.writeLocs_owners (s : State) (l : Nat) (b : List Byte) : (s.writeLocs l b).owners = s.owners := rfl
@[simp] theorem State.writeLocs_ents (s : State) (l : Nat) (b : List Byte) : (s.writeLocs l b).ents = s.ents := rfl
@[simp] theorem State.writeLocs_cmds (s : State) (l : Nat) (b : List Byte) : (s.writeLocs l b).cmds = s.cmds := rfl
@[simp] theorem State.writeLocs_mgmt (s : State) (l : Nat) (b : List Byte) : (s.writeLocs l b).mgmt = s.mgmt := rfl
@[simp] theorem State.writeLocs_links (s : State) (l : Nat) (b : List Byte) : (s.writeLocs l b).links = s.links := rfl
@[simp] theorem State.writeLocs_time (s : State) (l : Nat) (b : List Byte) : (s.writeLocs l b).time = s.time := rfl
@[simp] theorem State.writeLocs_agenda (s : State) (l : Nat) (b : List Byte) : (s.writeLocs l b).agenda = s.agenda := rfl
@[simp] theorem State.writeLocs_pos (s : State) (l : Nat) (b : List Byte) : (s.writeLocs l b).pos = s.pos := rfl
@[simp] theorem State.writeLocs_turn (s : State) (l : Nat) (b : List Byte) : (s.writeLocs l b).turn = s.turn := rfl
@[simp] theorem State.writeLocs_cur (s : State) (l : Nat) (b : List Byte) : (s.writeLocs l b).cur = s.cur := rfl
@[simp] theorem State.writeLocs_sel (s : State) (l : Nat) (b : List Byte) : (s.writeLocs l b).sel = s.sel := rfl
@[simp] theorem State.writeLocs_next (s : State) (l : Nat) (b : List Byte) : (s.writeLocs l b).next = s.next := rfl
@[simp] theorem State.writeLocs_frees (s : State) (l : Nat) (b : List Byte) : (s.writeLocs l b).frees = s.frees := rfl

@[simp] theorem State.writeNat_cores (s : State) (l n x : Nat) : (s.writeNat l n x).cores = s.cores := rfl
@[simp] theorem State.writeNat_trays (s : State) (l n x : Nat) : (s.writeNat l n x).trays = s.trays := rfl
@[simp] theorem State.writeNat_parts (s : State) (l n x : Nat) : (s.writeNat l n x).parts = s.parts := rfl
@[simp] theorem State.writeNat_gangs (s : State) (l n x : Nat) : (s.writeNat l n x).gangs = s.gangs := rfl
@[simp] theorem State.writeNat_full (s : State) (l n x : Nat) : (s.writeNat l n x).full = s.full := rfl
@[simp] theorem State.writeNat_flags (s : State) (l n x : Nat) : (s.writeNat l n x).flags = s.flags := rfl
@[simp] theorem State.writeNat_poison (s : State) (l n x : Nat) : (s.writeNat l n x).poison = s.poison := rfl
@[simp] theorem State.writeNat_icache (s : State) (l n x : Nat) : (s.writeNat l n x).icache = s.icache := rfl
@[simp] theorem State.writeNat_owners (s : State) (l n x : Nat) : (s.writeNat l n x).owners = s.owners := rfl
@[simp] theorem State.writeNat_ents (s : State) (l n x : Nat) : (s.writeNat l n x).ents = s.ents := rfl
@[simp] theorem State.writeNat_cmds (s : State) (l n x : Nat) : (s.writeNat l n x).cmds = s.cmds := rfl
@[simp] theorem State.writeNat_mgmt (s : State) (l n x : Nat) : (s.writeNat l n x).mgmt = s.mgmt := rfl
@[simp] theorem State.writeNat_links (s : State) (l n x : Nat) : (s.writeNat l n x).links = s.links := rfl
@[simp] theorem State.writeNat_time (s : State) (l n x : Nat) : (s.writeNat l n x).time = s.time := rfl
@[simp] theorem State.writeNat_agenda (s : State) (l n x : Nat) : (s.writeNat l n x).agenda = s.agenda := rfl
@[simp] theorem State.writeNat_pos (s : State) (l n x : Nat) : (s.writeNat l n x).pos = s.pos := rfl
@[simp] theorem State.writeNat_turn (s : State) (l n x : Nat) : (s.writeNat l n x).turn = s.turn := rfl
@[simp] theorem State.writeNat_cur (s : State) (l n x : Nat) : (s.writeNat l n x).cur = s.cur := rfl
@[simp] theorem State.writeNat_sel (s : State) (l n x : Nat) : (s.writeNat l n x).sel = s.sel := rfl
@[simp] theorem State.writeNat_next (s : State) (l n x : Nat) : (s.writeNat l n x).next = s.next := rfl
@[simp] theorem State.writeNat_frees (s : State) (l n x : Nat) : (s.writeNat l n x).frees = s.frees := rfl

@[simp] theorem State.setFull_cores (s : State) (l : Nat) (b : Bool) : (s.setFull l b).cores = s.cores := rfl
@[simp] theorem State.setFull_trays (s : State) (l : Nat) (b : Bool) : (s.setFull l b).trays = s.trays := rfl
@[simp] theorem State.setFull_parts (s : State) (l : Nat) (b : Bool) : (s.setFull l b).parts = s.parts := rfl
@[simp] theorem State.setFull_gangs (s : State) (l : Nat) (b : Bool) : (s.setFull l b).gangs = s.gangs := rfl
@[simp] theorem State.setFull_mem (s : State) (l : Nat) (b : Bool) : (s.setFull l b).mem = s.mem := rfl
@[simp] theorem State.setFull_flags (s : State) (l : Nat) (b : Bool) : (s.setFull l b).flags = s.flags := rfl
@[simp] theorem State.setFull_poison (s : State) (l : Nat) (b : Bool) : (s.setFull l b).poison = s.poison := rfl
@[simp] theorem State.setFull_icache (s : State) (l : Nat) (b : Bool) : (s.setFull l b).icache = s.icache := rfl
@[simp] theorem State.setFull_owners (s : State) (l : Nat) (b : Bool) : (s.setFull l b).owners = s.owners := rfl
@[simp] theorem State.setFull_ents (s : State) (l : Nat) (b : Bool) : (s.setFull l b).ents = s.ents := rfl
@[simp] theorem State.setFull_cmds (s : State) (l : Nat) (b : Bool) : (s.setFull l b).cmds = s.cmds := rfl
@[simp] theorem State.setFull_mgmt (s : State) (l : Nat) (b : Bool) : (s.setFull l b).mgmt = s.mgmt := rfl
@[simp] theorem State.setFull_links (s : State) (l : Nat) (b : Bool) : (s.setFull l b).links = s.links := rfl
@[simp] theorem State.setFull_time (s : State) (l : Nat) (b : Bool) : (s.setFull l b).time = s.time := rfl
@[simp] theorem State.setFull_agenda (s : State) (l : Nat) (b : Bool) : (s.setFull l b).agenda = s.agenda := rfl
@[simp] theorem State.setFull_pos (s : State) (l : Nat) (b : Bool) : (s.setFull l b).pos = s.pos := rfl
@[simp] theorem State.setFull_turn (s : State) (l : Nat) (b : Bool) : (s.setFull l b).turn = s.turn := rfl
@[simp] theorem State.setFull_cur (s : State) (l : Nat) (b : Bool) : (s.setFull l b).cur = s.cur := rfl
@[simp] theorem State.setFull_sel (s : State) (l : Nat) (b : Bool) : (s.setFull l b).sel = s.sel := rfl
@[simp] theorem State.setFull_next (s : State) (l : Nat) (b : Bool) : (s.setFull l b).next = s.next := rfl
@[simp] theorem State.setFull_frees (s : State) (l : Nat) (b : Bool) : (s.setFull l b).frees = s.frees := rfl

@[simp] theorem State.setFlag_cores (s : State) (l : Nat) (w : Word) : (s.setFlag l w).cores = s.cores := rfl
@[simp] theorem State.setFlag_trays (s : State) (l : Nat) (w : Word) : (s.setFlag l w).trays = s.trays := rfl
@[simp] theorem State.setFlag_parts (s : State) (l : Nat) (w : Word) : (s.setFlag l w).parts = s.parts := rfl
@[simp] theorem State.setFlag_gangs (s : State) (l : Nat) (w : Word) : (s.setFlag l w).gangs = s.gangs := rfl
@[simp] theorem State.setFlag_mem (s : State) (l : Nat) (w : Word) : (s.setFlag l w).mem = s.mem := rfl
@[simp] theorem State.setFlag_full (s : State) (l : Nat) (w : Word) : (s.setFlag l w).full = s.full := rfl
@[simp] theorem State.setFlag_poison (s : State) (l : Nat) (w : Word) : (s.setFlag l w).poison = s.poison := rfl
@[simp] theorem State.setFlag_icache (s : State) (l : Nat) (w : Word) : (s.setFlag l w).icache = s.icache := rfl
@[simp] theorem State.setFlag_owners (s : State) (l : Nat) (w : Word) : (s.setFlag l w).owners = s.owners := rfl
@[simp] theorem State.setFlag_ents (s : State) (l : Nat) (w : Word) : (s.setFlag l w).ents = s.ents := rfl
@[simp] theorem State.setFlag_cmds (s : State) (l : Nat) (w : Word) : (s.setFlag l w).cmds = s.cmds := rfl
@[simp] theorem State.setFlag_mgmt (s : State) (l : Nat) (w : Word) : (s.setFlag l w).mgmt = s.mgmt := rfl
@[simp] theorem State.setFlag_links (s : State) (l : Nat) (w : Word) : (s.setFlag l w).links = s.links := rfl
@[simp] theorem State.setFlag_time (s : State) (l : Nat) (w : Word) : (s.setFlag l w).time = s.time := rfl
@[simp] theorem State.setFlag_agenda (s : State) (l : Nat) (w : Word) : (s.setFlag l w).agenda = s.agenda := rfl
@[simp] theorem State.setFlag_pos (s : State) (l : Nat) (w : Word) : (s.setFlag l w).pos = s.pos := rfl
@[simp] theorem State.setFlag_turn (s : State) (l : Nat) (w : Word) : (s.setFlag l w).turn = s.turn := rfl
@[simp] theorem State.setFlag_cur (s : State) (l : Nat) (w : Word) : (s.setFlag l w).cur = s.cur := rfl
@[simp] theorem State.setFlag_sel (s : State) (l : Nat) (w : Word) : (s.setFlag l w).sel = s.sel := rfl
@[simp] theorem State.setFlag_next (s : State) (l : Nat) (w : Word) : (s.setFlag l w).next = s.next := rfl
@[simp] theorem State.setFlag_frees (s : State) (l : Nat) (w : Word) : (s.setFlag l w).frees = s.frees := rfl

/-! ## A thread's update -/

@[simp] theorem State.setCtx_trays (s : State) (t : Thr) (x : Ctx) : (s.setCtx t x).trays = s.trays := by cases t <;> rfl
@[simp] theorem State.setCtx_parts (s : State) (t : Thr) (x : Ctx) : (s.setCtx t x).parts = s.parts := by cases t <;> rfl
@[simp] theorem State.setCtx_gangs (s : State) (t : Thr) (x : Ctx) : (s.setCtx t x).gangs = s.gangs := by cases t <;> rfl
@[simp] theorem State.setCtx_mem (s : State) (t : Thr) (x : Ctx) : (s.setCtx t x).mem = s.mem := by cases t <;> rfl
@[simp] theorem State.setCtx_full (s : State) (t : Thr) (x : Ctx) : (s.setCtx t x).full = s.full := by cases t <;> rfl
@[simp] theorem State.setCtx_flags (s : State) (t : Thr) (x : Ctx) : (s.setCtx t x).flags = s.flags := by cases t <;> rfl
@[simp] theorem State.setCtx_poison (s : State) (t : Thr) (x : Ctx) : (s.setCtx t x).poison = s.poison := by cases t <;> rfl
@[simp] theorem State.setCtx_icache (s : State) (t : Thr) (x : Ctx) : (s.setCtx t x).icache = s.icache := by cases t <;> rfl
@[simp] theorem State.setCtx_owners (s : State) (t : Thr) (x : Ctx) : (s.setCtx t x).owners = s.owners := by cases t <;> rfl
@[simp] theorem State.setCtx_ents (s : State) (t : Thr) (x : Ctx) : (s.setCtx t x).ents = s.ents := by cases t <;> rfl
@[simp] theorem State.setCtx_cmds (s : State) (t : Thr) (x : Ctx) : (s.setCtx t x).cmds = s.cmds := by cases t <;> rfl
@[simp] theorem State.setCtx_mgmt (s : State) (t : Thr) (x : Ctx) : (s.setCtx t x).mgmt = s.mgmt := by cases t <;> rfl
@[simp] theorem State.setCtx_links (s : State) (t : Thr) (x : Ctx) : (s.setCtx t x).links = s.links := by cases t <;> rfl
@[simp] theorem State.setCtx_time (s : State) (t : Thr) (x : Ctx) : (s.setCtx t x).time = s.time := by cases t <;> rfl
@[simp] theorem State.setCtx_agenda (s : State) (t : Thr) (x : Ctx) : (s.setCtx t x).agenda = s.agenda := by cases t <;> rfl
@[simp] theorem State.setCtx_pos (s : State) (t : Thr) (x : Ctx) : (s.setCtx t x).pos = s.pos := by cases t <;> rfl
@[simp] theorem State.setCtx_turn (s : State) (t : Thr) (x : Ctx) : (s.setCtx t x).turn = s.turn := by cases t <;> rfl
@[simp] theorem State.setCtx_cur (s : State) (t : Thr) (x : Ctx) : (s.setCtx t x).cur = s.cur := by cases t <;> rfl
@[simp] theorem State.setCtx_sel (s : State) (t : Thr) (x : Ctx) : (s.setCtx t x).sel = s.sel := by cases t <;> rfl
@[simp] theorem State.setCtx_next (s : State) (t : Thr) (x : Ctx) : (s.setCtx t x).next = s.next := by cases t <;> rfl
@[simp] theorem State.setCtx_frees (s : State) (t : Thr) (x : Ctx) : (s.setCtx t x).frees = s.frees := by cases t <;> rfl

/-! ## Fields of a core under a context's update and a count -/

@[simp] theorem Core.setCtx_gang (c : Core) (i : Nat) (x : Ctx) : (c.setCtx i x).gang = c.gang := rfl
@[simp] theorem Core.setCtx_gnum (c : Core) (i : Nat) (x : Ctx) : (c.setCtx i x).gnum = c.gnum := rfl
@[simp] theorem Core.setCtx_ginc (c : Core) (i : Nat) (x : Ctx) : (c.setCtx i x).ginc = c.ginc := rfl
@[simp] theorem Core.setCtx_ceil (c : Core) (i : Nat) (x : Ctx) : (c.setCtx i x).ceil = c.ceil := rfl
@[simp] theorem Core.setCtx_slots (c : Core) (i : Nat) (x : Ctx) : (c.setCtx i x).slots = c.slots := rfl
@[simp] theorem Core.setCtx_secure (c : Core) (i : Nat) (x : Ctx) : (c.setCtx i x).secure = c.secure := rfl
@[simp] theorem Core.setCtx_asid (c : Core) (i : Nat) (x : Ctx) : (c.setCtx i x).asid = c.asid := rfl
@[simp] theorem Core.setCtx_tvec (c : Core) (i : Nat) (x : Ctx) : (c.setCtx i x).tvec = c.tvec := rfl
@[simp] theorem Core.setCtx_rqlimit (c : Core) (i : Nat) (x : Ctx) : (c.setCtx i x).rqlimit = c.rqlimit := rfl
@[simp] theorem Core.setCtx_rnrbase (c : Core) (i : Nat) (x : Ctx) : (c.setCtx i x).rnrbase = c.rnrbase := rfl
@[simp] theorem Core.setCtx_rnrlimit (c : Core) (i : Nat) (x : Ctx) : (c.setCtx i x).rnrlimit = c.rnrlimit := rfl
@[simp] theorem Core.setCtx_regions (c : Core) (i : Nat) (x : Ctx) : (c.setCtx i x).regions = c.regions := rfl
@[simp] theorem Core.setCtx_xdone (c : Core) (i : Nat) (x : Ctx) : (c.setCtx i x).xdone = c.xdone := rfl
@[simp] theorem Core.setCtx_nextid (c : Core) (i : Nat) (x : Ctx) : (c.setCtx i x).nextid = c.nextid := rfl
@[simp] theorem Core.setCtx_lease (c : Core) (i : Nat) (x : Ctx) : (c.setCtx i x).lease = c.lease := rfl
@[simp] theorem Core.setCtx_blendSize (c : Core) (i : Nat) (x : Ctx) : (c.setCtx i x).blendSize = c.blendSize := rfl
@[simp] theorem Core.setCtx_blendRank (c : Core) (i : Nat) (x : Ctx) : (c.setCtx i x).blendRank = c.blendRank := rfl
@[simp] theorem Core.setCtx_blend (c : Core) (i : Nat) (x : Ctx) : (c.setCtx i x).blend = c.blend := rfl
@[simp] theorem Core.setCtx_handles (c : Core) (i : Nat) (x : Ctx) : (c.setCtx i x).handles = c.handles := rfl
@[simp] theorem Core.setCtx_tiles (c : Core) (i : Nat) (x : Ctx) : (c.setCtx i x).tiles = c.tiles := rfl
@[simp] theorem Core.setCtx_holders (c : Core) (i : Nat) (x : Ctx) : (c.setCtx i x).holders = c.holders := rfl
@[simp] theorem Core.setCtx_alatch (c : Core) (i : Nat) (x : Ctx) : (c.setCtx i x).alatch = c.alatch := rfl
@[simp] theorem Core.setCtx_bl0 (c : Core) (i : Nat) (x : Ctx) : (c.setCtx i x).bl0 = c.bl0 := rfl
@[simp] theorem Core.setCtx_bl1 (c : Core) (i : Nat) (x : Ctx) : (c.setCtx i x).bl1 = c.bl1 := rfl
@[simp] theorem Core.setCtx_bl0Full (c : Core) (i : Nat) (x : Ctx) : (c.setCtx i x).bl0Full = c.bl0Full := rfl
@[simp] theorem Core.setCtx_bl1Full (c : Core) (i : Nat) (x : Ctx) : (c.setCtx i x).bl1Full = c.bl1Full := rfl
@[simp] theorem Core.setCtx_twin (c : Core) (i : Nat) (x : Ctx) : (c.setCtx i x).twin = c.twin := rfl
@[simp] theorem Core.setCtx_vq (c : Core) (i : Nat) (x : Ctx) : (c.setCtx i x).vq = c.vq := rfl
@[simp] theorem Core.setCtx_flight (c : Core) (i : Nat) (x : Ctx) : (c.setCtx i x).flight = c.flight := rfl
@[simp] theorem Core.setCtx_vlast (c : Core) (i : Nat) (x : Ctx) : (c.setCtx i x).vlast = c.vlast := rfl
@[simp] theorem Core.setCtx_vnext (c : Core) (i : Nat) (x : Ctx) : (c.setCtx i x).vnext = c.vnext := rfl
@[simp] theorem Core.setCtx_mq (c : Core) (i : Nat) (x : Ctx) : (c.setCtx i x).mq = c.mq := rfl
@[simp] theorem Core.setCtx_stream (c : Core) (i : Nat) (x : Ctx) : (c.setCtx i x).stream = c.stream := rfl
@[simp] theorem Core.setCtx_mlast (c : Core) (i : Nat) (x : Ctx) : (c.setCtx i x).mlast = c.mlast := rfl
@[simp] theorem Core.setCtx_xq (c : Core) (i : Nat) (x : Ctx) : (c.setCtx i x).xq = c.xq := rfl
@[simp] theorem Core.setCtx_channels (c : Core) (i : Nat) (x : Ctx) : (c.setCtx i x).channels = c.channels := rfl
@[simp] theorem Core.setCtx_tq (c : Core) (i : Nat) (x : Ctx) : (c.setCtx i x).tq = c.tq := rfl
@[simp] theorem Core.setCtx_mb (c : Core) (i : Nat) (x : Ctx) : (c.setCtx i x).mb = c.mb := rfl
@[simp] theorem Core.setCtx_mbNextDown (c : Core) (i : Nat) (x : Ctx) : (c.setCtx i x).mbNextDown = c.mbNextDown := rfl
@[simp] theorem Core.setCtx_mbNextUp (c : Core) (i : Nat) (x : Ctx) : (c.setCtx i x).mbNextUp = c.mbNextUp := rfl
@[simp] theorem Core.setCtx_rq (c : Core) (i : Nat) (x : Ctx) : (c.setCtx i x).rq = c.rq := rfl
@[simp] theorem Core.setCtx_acks (c : Core) (i : Nat) (x : Ctx) : (c.setCtx i x).acks = c.acks := rfl
@[simp] theorem Core.setCtx_sendq (c : Core) (i : Nat) (x : Ctx) : (c.setCtx i x).sendq = c.sendq := rfl
@[simp] theorem Core.setCtx_orphans (c : Core) (i : Nat) (x : Ctx) : (c.setCtx i x).orphans = c.orphans := rfl
@[simp] theorem Core.setCtx_ctr (c : Core) (i : Nat) (x : Ctx) : (c.setCtx i x).ctr = c.ctr := rfl
@[simp] theorem Core.setCtx_rotIssued (c : Core) (i : Nat) (x : Ctx) : (c.setCtx i x).rotIssued = c.rotIssued := rfl
@[simp] theorem Core.setCtx_posClass (c : Core) (i : Nat) (x : Ctx) : (c.setCtx i x).posClass = c.posClass := rfl
@[simp] theorem Core.setCtx_draw (c : Core) (i : Nat) (x : Ctx) : (c.setCtx i x).draw = c.draw := rfl
@[simp] theorem Core.setCtx_brew (c : Core) (i : Nat) (x : Ctx) : (c.setCtx i x).brew = c.brew := rfl
@[simp] theorem Core.setCtx_drawq (c : Core) (i : Nat) (x : Ctx) : (c.setCtx i x).drawq = c.drawq := rfl
@[simp] theorem Core.setCtx_pourq (c : Core) (i : Nat) (x : Ctx) : (c.setCtx i x).pourq = c.pourq := rfl
@[simp] theorem Core.setCtx_prevWorld (c : Core) (i : Nat) (x : Ctx) : (c.setCtx i x).prevWorld = c.prevWorld := rfl
@[simp] theorem Core.setCtx_gangCount (c : Core) (i : Nat) (x : Ctx) : (c.setCtx i x).gangCount = c.gangCount := rfl
@[simp] theorem Core.count_ctxs (c : Core) (n : Nat) : (c.count n).ctxs = c.ctxs := rfl
@[simp] theorem Core.count_gang (c : Core) (n : Nat) : (c.count n).gang = c.gang := rfl
@[simp] theorem Core.count_gnum (c : Core) (n : Nat) : (c.count n).gnum = c.gnum := rfl
@[simp] theorem Core.count_ginc (c : Core) (n : Nat) : (c.count n).ginc = c.ginc := rfl
@[simp] theorem Core.count_ceil (c : Core) (n : Nat) : (c.count n).ceil = c.ceil := rfl
@[simp] theorem Core.count_slots (c : Core) (n : Nat) : (c.count n).slots = c.slots := rfl
@[simp] theorem Core.count_secure (c : Core) (n : Nat) : (c.count n).secure = c.secure := rfl
@[simp] theorem Core.count_asid (c : Core) (n : Nat) : (c.count n).asid = c.asid := rfl
@[simp] theorem Core.count_tvec (c : Core) (n : Nat) : (c.count n).tvec = c.tvec := rfl
@[simp] theorem Core.count_rqlimit (c : Core) (n : Nat) : (c.count n).rqlimit = c.rqlimit := rfl
@[simp] theorem Core.count_rnrbase (c : Core) (n : Nat) : (c.count n).rnrbase = c.rnrbase := rfl
@[simp] theorem Core.count_rnrlimit (c : Core) (n : Nat) : (c.count n).rnrlimit = c.rnrlimit := rfl
@[simp] theorem Core.count_regions (c : Core) (n : Nat) : (c.count n).regions = c.regions := rfl
@[simp] theorem Core.count_xdone (c : Core) (n : Nat) : (c.count n).xdone = c.xdone := rfl
@[simp] theorem Core.count_nextid (c : Core) (n : Nat) : (c.count n).nextid = c.nextid := rfl
@[simp] theorem Core.count_lease (c : Core) (n : Nat) : (c.count n).lease = c.lease := rfl
@[simp] theorem Core.count_blendSize (c : Core) (n : Nat) : (c.count n).blendSize = c.blendSize := rfl
@[simp] theorem Core.count_blendRank (c : Core) (n : Nat) : (c.count n).blendRank = c.blendRank := rfl
@[simp] theorem Core.count_blend (c : Core) (n : Nat) : (c.count n).blend = c.blend := rfl
@[simp] theorem Core.count_handles (c : Core) (n : Nat) : (c.count n).handles = c.handles := rfl
@[simp] theorem Core.count_tiles (c : Core) (n : Nat) : (c.count n).tiles = c.tiles := rfl
@[simp] theorem Core.count_holders (c : Core) (n : Nat) : (c.count n).holders = c.holders := rfl
@[simp] theorem Core.count_alatch (c : Core) (n : Nat) : (c.count n).alatch = c.alatch := rfl
@[simp] theorem Core.count_bl0 (c : Core) (n : Nat) : (c.count n).bl0 = c.bl0 := rfl
@[simp] theorem Core.count_bl1 (c : Core) (n : Nat) : (c.count n).bl1 = c.bl1 := rfl
@[simp] theorem Core.count_bl0Full (c : Core) (n : Nat) : (c.count n).bl0Full = c.bl0Full := rfl
@[simp] theorem Core.count_bl1Full (c : Core) (n : Nat) : (c.count n).bl1Full = c.bl1Full := rfl
@[simp] theorem Core.count_twin (c : Core) (n : Nat) : (c.count n).twin = c.twin := rfl
@[simp] theorem Core.count_vq (c : Core) (n : Nat) : (c.count n).vq = c.vq := rfl
@[simp] theorem Core.count_flight (c : Core) (n : Nat) : (c.count n).flight = c.flight := rfl
@[simp] theorem Core.count_vlast (c : Core) (n : Nat) : (c.count n).vlast = c.vlast := rfl
@[simp] theorem Core.count_vnext (c : Core) (n : Nat) : (c.count n).vnext = c.vnext := rfl
@[simp] theorem Core.count_mq (c : Core) (n : Nat) : (c.count n).mq = c.mq := rfl
@[simp] theorem Core.count_stream (c : Core) (n : Nat) : (c.count n).stream = c.stream := rfl
@[simp] theorem Core.count_mlast (c : Core) (n : Nat) : (c.count n).mlast = c.mlast := rfl
@[simp] theorem Core.count_xq (c : Core) (n : Nat) : (c.count n).xq = c.xq := rfl
@[simp] theorem Core.count_channels (c : Core) (n : Nat) : (c.count n).channels = c.channels := rfl
@[simp] theorem Core.count_tq (c : Core) (n : Nat) : (c.count n).tq = c.tq := rfl
@[simp] theorem Core.count_mb (c : Core) (n : Nat) : (c.count n).mb = c.mb := rfl
@[simp] theorem Core.count_mbNextDown (c : Core) (n : Nat) : (c.count n).mbNextDown = c.mbNextDown := rfl
@[simp] theorem Core.count_mbNextUp (c : Core) (n : Nat) : (c.count n).mbNextUp = c.mbNextUp := rfl
@[simp] theorem Core.count_rq (c : Core) (n : Nat) : (c.count n).rq = c.rq := rfl
@[simp] theorem Core.count_acks (c : Core) (n : Nat) : (c.count n).acks = c.acks := rfl
@[simp] theorem Core.count_sendq (c : Core) (n : Nat) : (c.count n).sendq = c.sendq := rfl
@[simp] theorem Core.count_orphans (c : Core) (n : Nat) : (c.count n).orphans = c.orphans := rfl
@[simp] theorem Core.count_rotIssued (c : Core) (n : Nat) : (c.count n).rotIssued = c.rotIssued := rfl
@[simp] theorem Core.count_posClass (c : Core) (n : Nat) : (c.count n).posClass = c.posClass := rfl
@[simp] theorem Core.count_draw (c : Core) (n : Nat) : (c.count n).draw = c.draw := rfl
@[simp] theorem Core.count_brew (c : Core) (n : Nat) : (c.count n).brew = c.brew := rfl
@[simp] theorem Core.count_drawq (c : Core) (n : Nat) : (c.count n).drawq = c.drawq := rfl
@[simp] theorem Core.count_pourq (c : Core) (n : Nat) : (c.count n).pourq = c.pourq := rfl
@[simp] theorem Core.count_prevWorld (c : Core) (n : Nat) : (c.count n).prevWorld = c.prevWorld := rfl
@[simp] theorem Core.count_gangCount (c : Core) (n : Nat) : (c.count n).gangCount = c.gangCount := rfl

/-! ## Fields of a thread under a register's update -/

@[simp] theorem Ctx.setG_st (c : Ctx) (r : Nat) (x : Word) : (c.setG r x).st = c.st := by unfold Ctx.setG; split <;> rfl
@[simp] theorem Ctx.setG_pc (c : Ctx) (r : Nat) (x : Word) : (c.setG r x).pc = c.pc := by unfold Ctx.setG; split <;> rfl
@[simp] theorem Ctx.setG_blk (c : Ctx) (r : Nat) (x : Word) : (c.setG r x).blk = c.blk := by unfold Ctx.setG; split <;> rfl
@[simp] theorem Ctx.setG_enter (c : Ctx) (r : Nat) (x : Word) : (c.setG r x).enter = c.enter := by unfold Ctx.setG; split <;> rfl
@[simp] theorem Ctx.setG_v (c : Ctx) (r : Nat) (x : Word) : (c.setG r x).v = c.v := by unfold Ctx.setG; split <;> rfl
@[simp] theorem Ctx.setG_k (c : Ctx) (r : Nat) (x : Word) : (c.setG r x).k = c.k := by unfold Ctx.setG; split <;> rfl
@[simp] theorem Ctx.setG_pend (c : Ctx) (r : Nat) (x : Word) : (c.setG r x).pend = c.pend := by unfold Ctx.setG; split <;> rfl
@[simp] theorem Ctx.setG_fails (c : Ctx) (r : Nat) (x : Word) : (c.setG r x).fails = c.fails := by unfold Ctx.setG; split <;> rfl
@[simp] theorem Ctx.setG_windows (c : Ctx) (r : Nat) (x : Word) : (c.setG r x).windows = c.windows := by unfold Ctx.setG; split <;> rfl
@[simp] theorem Ctx.setG_susp (c : Ctx) (r : Nat) (x : Word) : (c.setG r x).susp = c.susp := by unfold Ctx.setG; split <;> rfl
@[simp] theorem Ctx.setG_before (c : Ctx) (r : Nat) (x : Word) : (c.setG r x).before = c.before := by unfold Ctx.setG; split <;> rfl
@[simp] theorem Ctx.setG_since (c : Ctx) (r : Nat) (x : Word) : (c.setG r x).since = c.since := by unfold Ctx.setG; split <;> rfl
@[simp] theorem Ctx.setG_woken (c : Ctx) (r : Nat) (x : Word) : (c.setG r x).woken = c.woken := by unfold Ctx.setG; split <;> rfl
@[simp] theorem Ctx.setG_suspBlk (c : Ctx) (r : Nat) (x : Word) : (c.setG r x).suspBlk = c.suspBlk := by unfold Ctx.setG; split <;> rfl
@[simp] theorem Ctx.setG_held (c : Ctx) (r : Nat) (x : Word) : (c.setG r x).held = c.held := by unfold Ctx.setG; split <;> rfl
@[simp] theorem Ctx.setG_fflags (c : Ctx) (r : Nat) (x : Word) : (c.setG r x).fflags = c.fflags := by unfold Ctx.setG; split <;> rfl
@[simp] theorem Ctx.setG_prio (c : Ctx) (r : Nat) (x : Word) : (c.setG r x).prio = c.prio := by unfold Ctx.setG; split <;> rfl
@[simp] theorem Ctx.setG_sup (c : Ctx) (r : Nat) (x : Word) : (c.setG r x).sup = c.sup := by unfold Ctx.setG; split <;> rfl
@[simp] theorem Ctx.setG_cause (c : Ctx) (r : Nat) (x : Word) : (c.setG r x).cause = c.cause := by unfold Ctx.setG; split <;> rfl
@[simp] theorem Ctx.setG_epc (c : Ctx) (r : Nat) (x : Word) : (c.setG r x).epc = c.epc := by unfold Ctx.setG; split <;> rfl
@[simp] theorem Ctx.setG_vaddr (c : Ctx) (r : Nat) (x : Word) : (c.setG r x).vaddr = c.vaddr := by unfold Ctx.setG; split <;> rfl
@[simp] theorem Ctx.setG_wait (c : Ctx) (r : Nat) (x : Word) : (c.setG r x).wait = c.wait := by unfold Ctx.setG; split <;> rfl
@[simp] theorem Ctx.setG_stamp (c : Ctx) (r : Nat) (x : Word) : (c.setG r x).stamp = c.stamp := by unfold Ctx.setG; split <;> rfl
@[simp] theorem Ctx.setG_aged (c : Ctx) (r : Nat) (x : Word) : (c.setG r x).aged = c.aged := by unfold Ctx.setG; split <;> rfl
@[simp] theorem Ctx.setG_stopped (c : Ctx) (r : Nat) (x : Word) : (c.setG r x).stopped = c.stopped := by unfold Ctx.setG; split <;> rfl
@[simp] theorem Ctx.setG_stopReq (c : Ctx) (r : Nat) (x : Word) : (c.setG r x).stopReq = c.stopReq := by unfold Ctx.setG; split <;> rfl
@[simp] theorem Ctx.setG_spilled (c : Ctx) (r : Nat) (x : Word) : (c.setG r x).spilled = c.spilled := by unfold Ctx.setG; split <;> rfl
@[simp] theorem Ctx.setG_busy (c : Ctx) (r : Nat) (x : Word) : (c.setG r x).busy = c.busy := by unfold Ctx.setG; split <;> rfl
@[simp] theorem Ctx.setG_trap (c : Ctx) (r : Nat) (x : Word) : (c.setG r x).trap = c.trap := by unfold Ctx.setG; split <;> rfl
@[simp] theorem Ctx.setG_name (c : Ctx) (r : Nat) (x : Word) : (c.setG r x).name = c.name := by unfold Ctx.setG; split <;> rfl
@[simp] theorem Ctx.setG_fresh (c : Ctx) (r : Nat) (x : Word) : (c.setG r x).fresh = c.fresh := by unfold Ctx.setG; split <;> rfl
@[simp] theorem Ctx.setG_bad (c : Ctx) (r : Nat) (x : Word) : (c.setG r x).bad = c.bad := by unfold Ctx.setG; split <;> rfl
@[simp] theorem Ctx.setG_hops (c : Ctx) (r : Nat) (x : Word) : (c.setG r x).hops = c.hops := by unfold Ctx.setG; split <;> rfl
@[simp] theorem Ctx.setG_tb (c : Ctx) (r : Nat) (x : Word) : (c.setG r x).tb = c.tb := by unfold Ctx.setG; split <;> rfl
@[simp] theorem Ctx.setG_iq (c : Ctx) (r : Nat) (x : Word) : (c.setG r x).iq = c.iq := by unfold Ctx.setG; split <;> rfl
@[simp] theorem Ctx.setV_st (c : Ctx) (r : Nat) (x : VWord) : (c.setV r x).st = c.st := rfl
@[simp] theorem Ctx.setV_pc (c : Ctx) (r : Nat) (x : VWord) : (c.setV r x).pc = c.pc := rfl
@[simp] theorem Ctx.setV_blk (c : Ctx) (r : Nat) (x : VWord) : (c.setV r x).blk = c.blk := rfl
@[simp] theorem Ctx.setV_enter (c : Ctx) (r : Nat) (x : VWord) : (c.setV r x).enter = c.enter := rfl
@[simp] theorem Ctx.setV_g (c : Ctx) (r : Nat) (x : VWord) : (c.setV r x).g = c.g := rfl
@[simp] theorem Ctx.setV_k (c : Ctx) (r : Nat) (x : VWord) : (c.setV r x).k = c.k := rfl
@[simp] theorem Ctx.setV_pend (c : Ctx) (r : Nat) (x : VWord) : (c.setV r x).pend = c.pend := rfl
@[simp] theorem Ctx.setV_fails (c : Ctx) (r : Nat) (x : VWord) : (c.setV r x).fails = c.fails := rfl
@[simp] theorem Ctx.setV_windows (c : Ctx) (r : Nat) (x : VWord) : (c.setV r x).windows = c.windows := rfl
@[simp] theorem Ctx.setV_susp (c : Ctx) (r : Nat) (x : VWord) : (c.setV r x).susp = c.susp := rfl
@[simp] theorem Ctx.setV_before (c : Ctx) (r : Nat) (x : VWord) : (c.setV r x).before = c.before := rfl
@[simp] theorem Ctx.setV_since (c : Ctx) (r : Nat) (x : VWord) : (c.setV r x).since = c.since := rfl
@[simp] theorem Ctx.setV_woken (c : Ctx) (r : Nat) (x : VWord) : (c.setV r x).woken = c.woken := rfl
@[simp] theorem Ctx.setV_suspBlk (c : Ctx) (r : Nat) (x : VWord) : (c.setV r x).suspBlk = c.suspBlk := rfl
@[simp] theorem Ctx.setV_hpend (c : Ctx) (r : Nat) (x : VWord) : (c.setV r x).hpend = c.hpend := rfl
@[simp] theorem Ctx.setV_held (c : Ctx) (r : Nat) (x : VWord) : (c.setV r x).held = c.held := rfl
@[simp] theorem Ctx.setV_fflags (c : Ctx) (r : Nat) (x : VWord) : (c.setV r x).fflags = c.fflags := rfl
@[simp] theorem Ctx.setV_prio (c : Ctx) (r : Nat) (x : VWord) : (c.setV r x).prio = c.prio := rfl
@[simp] theorem Ctx.setV_sup (c : Ctx) (r : Nat) (x : VWord) : (c.setV r x).sup = c.sup := rfl
@[simp] theorem Ctx.setV_cause (c : Ctx) (r : Nat) (x : VWord) : (c.setV r x).cause = c.cause := rfl
@[simp] theorem Ctx.setV_epc (c : Ctx) (r : Nat) (x : VWord) : (c.setV r x).epc = c.epc := rfl
@[simp] theorem Ctx.setV_vaddr (c : Ctx) (r : Nat) (x : VWord) : (c.setV r x).vaddr = c.vaddr := rfl
@[simp] theorem Ctx.setV_wait (c : Ctx) (r : Nat) (x : VWord) : (c.setV r x).wait = c.wait := rfl
@[simp] theorem Ctx.setV_stamp (c : Ctx) (r : Nat) (x : VWord) : (c.setV r x).stamp = c.stamp := rfl
@[simp] theorem Ctx.setV_aged (c : Ctx) (r : Nat) (x : VWord) : (c.setV r x).aged = c.aged := rfl
@[simp] theorem Ctx.setV_stopped (c : Ctx) (r : Nat) (x : VWord) : (c.setV r x).stopped = c.stopped := rfl
@[simp] theorem Ctx.setV_stopReq (c : Ctx) (r : Nat) (x : VWord) : (c.setV r x).stopReq = c.stopReq := rfl
@[simp] theorem Ctx.setV_spilled (c : Ctx) (r : Nat) (x : VWord) : (c.setV r x).spilled = c.spilled := rfl
@[simp] theorem Ctx.setV_busy (c : Ctx) (r : Nat) (x : VWord) : (c.setV r x).busy = c.busy := rfl
@[simp] theorem Ctx.setV_trap (c : Ctx) (r : Nat) (x : VWord) : (c.setV r x).trap = c.trap := rfl
@[simp] theorem Ctx.setV_name (c : Ctx) (r : Nat) (x : VWord) : (c.setV r x).name = c.name := rfl
@[simp] theorem Ctx.setV_fresh (c : Ctx) (r : Nat) (x : VWord) : (c.setV r x).fresh = c.fresh := rfl
@[simp] theorem Ctx.setV_bad (c : Ctx) (r : Nat) (x : VWord) : (c.setV r x).bad = c.bad.minus (RegSet.ofV r) := rfl
@[simp] theorem Ctx.setV_hops (c : Ctx) (r : Nat) (x : VWord) : (c.setV r x).hops = c.hops := rfl
@[simp] theorem Ctx.setV_tb (c : Ctx) (r : Nat) (x : VWord) : (c.setV r x).tb = c.tb := rfl
@[simp] theorem Ctx.setV_iq (c : Ctx) (r : Nat) (x : VWord) : (c.setV r x).iq = c.iq := rfl
@[simp] theorem Ctx.setK_st (c : Ctx) (r : Nat) (x : Word) : (c.setK r x).st = c.st := by unfold Ctx.setK; split <;> rfl
@[simp] theorem Ctx.setK_pc (c : Ctx) (r : Nat) (x : Word) : (c.setK r x).pc = c.pc := by unfold Ctx.setK; split <;> rfl
@[simp] theorem Ctx.setK_blk (c : Ctx) (r : Nat) (x : Word) : (c.setK r x).blk = c.blk := by unfold Ctx.setK; split <;> rfl
@[simp] theorem Ctx.setK_enter (c : Ctx) (r : Nat) (x : Word) : (c.setK r x).enter = c.enter := by unfold Ctx.setK; split <;> rfl
@[simp] theorem Ctx.setK_g (c : Ctx) (r : Nat) (x : Word) : (c.setK r x).g = c.g := by unfold Ctx.setK; split <;> rfl
@[simp] theorem Ctx.setK_v (c : Ctx) (r : Nat) (x : Word) : (c.setK r x).v = c.v := by unfold Ctx.setK; split <;> rfl
@[simp] theorem Ctx.setK_pend (c : Ctx) (r : Nat) (x : Word) : (c.setK r x).pend = c.pend := by unfold Ctx.setK; split <;> rfl
@[simp] theorem Ctx.setK_fails (c : Ctx) (r : Nat) (x : Word) : (c.setK r x).fails = c.fails := by unfold Ctx.setK; split <;> rfl
@[simp] theorem Ctx.setK_windows (c : Ctx) (r : Nat) (x : Word) : (c.setK r x).windows = c.windows := by unfold Ctx.setK; split <;> rfl
@[simp] theorem Ctx.setK_susp (c : Ctx) (r : Nat) (x : Word) : (c.setK r x).susp = c.susp := by unfold Ctx.setK; split <;> rfl
@[simp] theorem Ctx.setK_before (c : Ctx) (r : Nat) (x : Word) : (c.setK r x).before = c.before := by unfold Ctx.setK; split <;> rfl
@[simp] theorem Ctx.setK_since (c : Ctx) (r : Nat) (x : Word) : (c.setK r x).since = c.since := by unfold Ctx.setK; split <;> rfl
@[simp] theorem Ctx.setK_woken (c : Ctx) (r : Nat) (x : Word) : (c.setK r x).woken = c.woken := by unfold Ctx.setK; split <;> rfl
@[simp] theorem Ctx.setK_suspBlk (c : Ctx) (r : Nat) (x : Word) : (c.setK r x).suspBlk = c.suspBlk := by unfold Ctx.setK; split <;> rfl
@[simp] theorem Ctx.setK_hpend (c : Ctx) (r : Nat) (x : Word) : (c.setK r x).hpend = c.hpend := by unfold Ctx.setK; split <;> rfl
@[simp] theorem Ctx.setK_held (c : Ctx) (r : Nat) (x : Word) : (c.setK r x).held = c.held := by unfold Ctx.setK; split <;> rfl
@[simp] theorem Ctx.setK_fflags (c : Ctx) (r : Nat) (x : Word) : (c.setK r x).fflags = c.fflags := by unfold Ctx.setK; split <;> rfl
@[simp] theorem Ctx.setK_prio (c : Ctx) (r : Nat) (x : Word) : (c.setK r x).prio = c.prio := by unfold Ctx.setK; split <;> rfl
@[simp] theorem Ctx.setK_sup (c : Ctx) (r : Nat) (x : Word) : (c.setK r x).sup = c.sup := by unfold Ctx.setK; split <;> rfl
@[simp] theorem Ctx.setK_cause (c : Ctx) (r : Nat) (x : Word) : (c.setK r x).cause = c.cause := by unfold Ctx.setK; split <;> rfl
@[simp] theorem Ctx.setK_epc (c : Ctx) (r : Nat) (x : Word) : (c.setK r x).epc = c.epc := by unfold Ctx.setK; split <;> rfl
@[simp] theorem Ctx.setK_vaddr (c : Ctx) (r : Nat) (x : Word) : (c.setK r x).vaddr = c.vaddr := by unfold Ctx.setK; split <;> rfl
@[simp] theorem Ctx.setK_wait (c : Ctx) (r : Nat) (x : Word) : (c.setK r x).wait = c.wait := by unfold Ctx.setK; split <;> rfl
@[simp] theorem Ctx.setK_stamp (c : Ctx) (r : Nat) (x : Word) : (c.setK r x).stamp = c.stamp := by unfold Ctx.setK; split <;> rfl
@[simp] theorem Ctx.setK_aged (c : Ctx) (r : Nat) (x : Word) : (c.setK r x).aged = c.aged := by unfold Ctx.setK; split <;> rfl
@[simp] theorem Ctx.setK_stopped (c : Ctx) (r : Nat) (x : Word) : (c.setK r x).stopped = c.stopped := by unfold Ctx.setK; split <;> rfl
@[simp] theorem Ctx.setK_stopReq (c : Ctx) (r : Nat) (x : Word) : (c.setK r x).stopReq = c.stopReq := by unfold Ctx.setK; split <;> rfl
@[simp] theorem Ctx.setK_spilled (c : Ctx) (r : Nat) (x : Word) : (c.setK r x).spilled = c.spilled := by unfold Ctx.setK; split <;> rfl
@[simp] theorem Ctx.setK_busy (c : Ctx) (r : Nat) (x : Word) : (c.setK r x).busy = c.busy := by unfold Ctx.setK; split <;> rfl
@[simp] theorem Ctx.setK_trap (c : Ctx) (r : Nat) (x : Word) : (c.setK r x).trap = c.trap := by unfold Ctx.setK; split <;> rfl
@[simp] theorem Ctx.setK_name (c : Ctx) (r : Nat) (x : Word) : (c.setK r x).name = c.name := by unfold Ctx.setK; split <;> rfl
@[simp] theorem Ctx.setK_fresh (c : Ctx) (r : Nat) (x : Word) : (c.setK r x).fresh = c.fresh := by unfold Ctx.setK; split <;> rfl
@[simp] theorem Ctx.setK_bad (c : Ctx) (r : Nat) (x : Word) : (c.setK r x).bad = if r = 0 then c.bad else c.bad.minus (RegSet.ofK r) := by unfold Ctx.setK; split <;> rfl
@[simp] theorem Ctx.setK_hops (c : Ctx) (r : Nat) (x : Word) : (c.setK r x).hops = c.hops := by unfold Ctx.setK; split <;> rfl
@[simp] theorem Ctx.setK_tb (c : Ctx) (r : Nat) (x : Word) : (c.setK r x).tb = c.tb := by unfold Ctx.setK; split <;> rfl
@[simp] theorem Ctx.setK_iq (c : Ctx) (r : Nat) (x : Word) : (c.setK r x).iq = c.iq := by unfold Ctx.setK; split <;> rfl

/-! ## Accessors under updates -/

@[simp] theorem State.core_setCore (s : State) (n m : Nat) (c : Core) : (s.setCore n c).core m = if n = m then c else s.core m := by
  simp [State.core, State.setCore]

theorem State.core_setCore_self (s : State) (n : Nat) (c : Core) : (s.setCore n c).core n = c := by simp

theorem State.core_setCore_of_ne (s : State) {n m : Nat} (c : Core) (h : n ≠ m) : (s.setCore n c).core m = s.core m := by simp [h]

@[simp] theorem State.tray_setTray (s : State) (n m : Nat) (x : Tray) : (s.setTray n x).tray m = if n = m then x else s.tray m := by
  simp [State.tray, State.setTray]

@[simp] theorem State.part_setPart (s : State) (n m : Nat) (x : Part) : (s.setPart n x).part m = if n = m then x else s.part m := by
  simp [State.part, State.setPart]

@[simp] theorem State.owner_setOwner (s : State) (n m : Nat) (x : Owner) : (s.setOwner n x).owner m = if n = m then x else s.owner m := by
  simp [State.owner, State.setOwner]

@[simp] theorem State.find_setGang (s : State) (n m : Nat) (x : Gang) : SMap.find (s.setGang n x).gangs m = if n = m then some x else SMap.find s.gangs m := by
  simp [State.setGang]

@[simp] theorem State.find_setCmd (s : State) (c : Cmd) (m : Nat) : SMap.find (s.setCmd c).cmds m = if c.id = m then some c else SMap.find s.cmds m := by
  simp [State.setCmd]

@[simp] theorem Core.get_setCtx (c : Core) (i j : Nat) (x : Ctx) : SMap.get {} (c.setCtx i x).ctxs j = if i = j then x else SMap.get {} c.ctxs j := by
  simp [Core.setCtx]

/-- A thread's update reaches that thread alone. -/
@[simp] theorem State.ctx_setCtx (s : State) (t u : Thr) (x : Ctx) : (s.setCtx t x).ctx u = if t = u then x else s.ctx u := by
  cases t with
  | ctx n i =>
    cases u with
    | ctx m j =>
      simp only [State.ctx, State.setCtx, State.core_setCore]
      by_cases h : n = m
      · subst h; rw [if_pos rfl, Core.get_setCtx]; by_cases hj : i = j <;> simp [hj]
      · rw [if_neg h, if_neg (by simp [h])]
    | draw m => by_cases h : n = m <;> simp [State.ctx, State.setCtx, h]
    | brew m => by_cases h : n = m <;> simp [State.ctx, State.setCtx, h]
  | draw n => cases u <;> simp only [State.ctx, State.setCtx, State.core_setCore] <;> split <;> simp_all
  | brew n => cases u <;> simp only [State.ctx, State.setCtx, State.core_setCore] <;> split <;> simp_all

theorem State.ctx_setCtx_self (s : State) (t : Thr) (x : Ctx) : (s.setCtx t x).ctx t = x := by simp

/-- A core's update leaves the threads of the other cores. -/
theorem State.ctx_setCore_of_ne (s : State) {n : Nat} (c : Core) {t : Thr} (h : n ≠ t.core) : (s.setCore n c).ctx t = s.ctx t := by
  cases t <;> simp_all [State.ctx, Thr.core]

/-- A core's update that keeps its threads leaves every thread. -/
theorem State.ctx_setCore (s : State) (n : Nat) (c : Core) (h1 : c.ctxs = (s.core n).ctxs) (h2 : c.draw = (s.core n).draw) (h3 : c.brew = (s.core n).brew)
    (t : Thr) : (s.setCore n c).ctx t = s.ctx t := by
  cases t <;> simp only [State.ctx, State.core_setCore] <;> split <;> simp_all

/-- What a thread's update leaves of the cores. -/
theorem State.core_setCtx_of_ne (s : State) {n : Nat} {t : Thr} (x : Ctx) (h : t.core ≠ n) : (s.setCtx t x).core n = s.core n := by
  cases t <;> simp_all [State.setCtx, Thr.core]

@[simp] theorem Ctx.gr_setG (c : Ctx) (r q : Nat) (x : Word) : (c.setG r x).gr q = if r = q ∧ r ≠ 0 then x else c.gr q := by
  unfold Ctx.setG Ctx.gr
  by_cases h : r = 0 <;> by_cases hq : q = 0 <;> by_cases hr : r = q <;> simp_all

@[simp] theorem Ctx.vr_setV (c : Ctx) (r q : Nat) (x : VWord) : (c.setV r x).vr q = if r = q then x else c.vr q := by simp [Ctx.setV, Ctx.vr]

@[simp] theorem Ctx.kr_setK (c : Ctx) (r q : Nat) (x : Word) : (c.setK r x).kr q = if r = q ∧ r ≠ 0 then x else c.kr q := by
  unfold Ctx.setK Ctx.kr
  by_cases h : r = 0 <;> by_cases hq : q = 0 <;> by_cases hr : r = q <;> simp_all

/-- The hard-wired registers read as R77 says, whatever the state. -/
@[simp] theorem Ctx.gr_zero (c : Ctx) : c.gr 0 = 0 := rfl
@[simp] theorem Ctx.kr_zero (c : Ctx) : c.kr 0 = BitVec.allOnes 64 := rfl

@[simp] theorem State.flag_setFlag (s : State) (l m : Nat) (w : Word) : (s.setFlag l w).flag m = if l / 8 = m / 8 then w else s.flag m := by
  simp [State.flag, State.setFlag]

@[simp] theorem State.isFull_setFull (s : State) (l m : Nat) (b : Bool) : (s.setFull l b).isFull m = if l / 16 = m / 16 then b else s.isFull m := by
  simp [State.isFull, State.setFull]

@[simp] theorem State.get_writeLoc (s : State) (l m : Nat) (b : Byte) :
    SMap.get Memory.unlisted (s.writeLoc l b).mem m = if l = m then b else SMap.get Memory.unlisted s.mem m := by simp [State.writeLoc]

@[simp] theorem State.get_writeLocs (s : State) (l m : Nat) (b : List Byte) :
    SMap.get Memory.unlisted (s.writeLocs l b).mem m = if l ≤ m ∧ m < l + b.length then (b[m - l]?).getD Memory.unlisted else SMap.get Memory.unlisted s.mem m := by
  simp [State.writeLocs]

/-- A byte of plain memory reads what its location holds. -/
theorem State.readLoc_plain (s : State) {l : Nat} (h : ¬ (locOwner l < 32 ∧ ctlBase ≤ locOff l)) : s.readLoc l = SMap.get Memory.unlisted s.mem l := by
  simp [State.readLoc, h]

/-- Memory reads as before where data bytes, flag words and full bits are as before. -/
theorem State.memoryKept_of_eq {s t : State} (h1 : t.mem = s.mem) (h2 : t.flags = s.flags) (h3 : t.full = s.full) : s.memoryKept t := by
  obtain ⟨_, _, _, _, m, f, g⟩ := s
  obtain ⟨_, _, _, _, m', f', g'⟩ := t
  subst h1 h2 h3
  exact ⟨fun _ => rfl, fun _ => rfl, fun _ => rfl⟩

end Sys2Proof.Machine
end

