-- ==== Sys2Proof/Laws/Memory.lean ====
section
/-! SUPPORT. Memory, full bits, flag words and the marks of uncorrectable data keep their canonical form under every operation that writes them, and an operation that writes none of them leaves every byte, flag and full bit as it was. -/

namespace Sys2Proof.Machine

/-- What memory is made of: data bytes, full bits, flag words and uncorrectable granules. -/
def State.bytes (s : State) : SMap Byte × SMap Bool × SMap Word × SMap Bool := (s.mem, s.full, s.flags, s.poison)

/-- Equal memories are canonical together. -/
theorem memoryWf_of_bytes {s t : State} (h : t.bytes = s.bytes) (hs : s.memoryWf) : t.memoryWf := by
  simp only [State.bytes, Prod.mk.injEq] at h
  obtain ⟨h1, h2, h3, h4⟩ := h
  unfold State.memoryWf at *
  rw [h1, h2, h3, h4]
  exact hs

/-- Equal memories read alike. -/
theorem memoryKept_of_bytes {s t : State} (h : t.bytes = s.bytes) : s.memoryKept t := by
  simp only [State.bytes, Prod.mk.injEq] at h
  obtain ⟨h1, h2, h3, -⟩ := h
  exact State.memoryKept_of_eq h1 h3 h2

/-- Reset lists no byte. -/
theorem State.reset_mem_wf : Memory.wf State.reset.mem := by decide

/-! ## The operations that write memory -/

theorem State.writeLoc_memoryWf {s : State} (h : s.memoryWf) (l : Nat) (b : Byte) : (s.writeLoc l b).memoryWf :=
  ⟨SMap.wf_put _ _ h.1, h.2⟩

theorem State.writeLocs_memoryWf {s : State} (h : s.memoryWf) (l : Nat) (bs : List Byte) : (s.writeLocs l bs).memoryWf :=
  ⟨SMap.wf_setRange _ _ h.1, h.2⟩

theorem State.writeNat_memoryWf {s : State} (h : s.memoryWf) (l n x : Nat) : (s.writeNat l n x).memoryWf := by
  unfold State.writeNat
  exact State.writeLocs_memoryWf h _ _

theorem State.setFull_memoryWf {s : State} (h : s.memoryWf) (l : Nat) (b : Bool) : (s.setFull l b).memoryWf :=
  ⟨h.1, SMap.wf_put _ _ h.2.1, h.2.2⟩

theorem State.setFlag_memoryWf {s : State} (h : s.memoryWf) (l : Nat) (w : Word) : (s.setFlag l w).memoryWf :=
  ⟨h.1, h.2.1, SMap.wf_put _ _ h.2.2.1, h.2.2.2⟩

theorem State.sysWrite_memoryWf {s : State} (h : s.memoryWf) (e : Env) (a : Word) (bs : List Byte) : (s.sysWrite e a bs).memoryWf := by
  unfold State.sysWrite
  generalize s.sysLoc e a = x
  cases x with
  | none => exact h
  | some l => exact State.writeLocs_memoryWf h l bs

theorem State.clearedPad_memoryWf {s : State} (h : s.memoryWf) (n : Nat) (w : Bool) : (s.clearedPad n w).memoryWf := by
  refine ⟨?_, SMap.wf_clearRange _ _ h.2.1, SMap.wf_clearRange _ _ h.2.2.1, ?_⟩ <;> simp only [State.clearedPad] <;> split
  · exact SMap.wf_clearRange _ _ h.1
  · exact h.1
  · exact SMap.wf_clearRange _ _ h.2.2.2
  · exact h.2.2.2

theorem State.copyBytes_memoryWf {s : State} (h : s.memoryWf) (a b n : Nat) : (s.copyBytes a b n).memoryWf :=
  ⟨SMap.wf_overlay _ _ h.1 (SMap.wf_slice _ _ h.1), h.2.1, h.2.2.1, SMap.wf_overlay _ _ h.2.2.2 (SMap.wf_slice _ _ h.2.2.2)⟩

/-- A fold of steps that each keep the canonical form keeps it. -/
theorem foldl_memoryWf {α : Type} {f : State → α → State} (hf : ∀ s x, s.memoryWf → (f s x).memoryWf) (l : List α) {s : State} (h : s.memoryWf) :
    (l.foldl f s).memoryWf := by
  induction l generalizing s with
  | nil => exact h
  | cons x t ih => exact ih (hf s x h)

theorem State.copyPoison_memoryWf {s : State} (h : s.memoryWf) (a b n : Nat) : (s.copyPoison a b n).memoryWf :=
  ⟨h.1, h.2.1, h.2.2.1, SMap.wf_overlay _ _ h.2.2.2 (SMap.wf_slice _ _ h.2.2.2)⟩

theorem State.savedMarks_memoryWf {s : State} (h : s.memoryWf) (e : Env) (start n : Nat) (a : Word) (back : Bool) : (s.savedMarks e start n a back).memoryWf := by
  unfold State.savedMarks
  refine foldl_memoryWf (fun u i hu => ?_) _ h
  dsimp only
  split
  · exact State.copyPoison_memoryWf hu _ _ _
  · exact State.copyPoison_memoryWf hu _ _ _
  · exact ⟨hu.1, hu.2.1, hu.2.2.1, SMap.wf_clearRange _ _ hu.2.2.2⟩
  · exact hu

theorem State.putImage_memoryWf {s : State} (h : s.memoryWf) (cluster j : Nat) (b : List Byte) : (s.putImage cluster j b).memoryWf :=
  have w := State.writeLocs_memoryWf h (areaLoc cluster j) b
  ⟨w.1, w.2.1, w.2.2.1, SMap.wf_clearRange _ _ w.2.2.2⟩

theorem State.respill_memoryWf {s : State} (h : s.memoryWf) (core i : Nat) : (s.respill core i).memoryWf := by
  unfold State.respill
  dsimp only
  split
  · exact State.putImage_memoryWf h _ _ _
  · exact h

/-- A freeze and a host write of the management block touch no memory. -/
theorem State.freeze_bytes (s : State) (cause : Nat) : (s.freeze cause).bytes = s.bytes := by
  unfold State.freeze
  split <;> rfl

theorem State.hostWrite_bytes (s : State) (off : Nat) (x : Word) : (s.hostWrite off x).bytes = s.bytes := by
  unfold State.hostWrite State.attest State.freezeWrite
  split
  · split
    · split <;> rfl
    · rfl
  · split
    · split
      · exact State.freeze_bytes _ _
      · rfl
    · rfl

/-- A fold of steps that each leave memory alone leaves it alone. -/
theorem foldl_bytes {α : Type} {f : State → α → State} (hf : ∀ s x, (f s x).bytes = s.bytes) (l : List α) (s : State) : (l.foldl f s).bytes = s.bytes := by
  induction l generalizing s with
  | nil => rfl
  | cons x t ih => exact (ih (f s x)).trans (hf s x)

/-- Bytes written to data locations read back. -/
theorem State.readLocs_writeLocs (s : State) (l : Nat) (bs : List Byte) (h : ∀ i, i < bs.length → ¬ (locOwner (l + i) < 32 ∧ ctlBase ≤ locOff (l + i))) :
    (s.writeLocs l bs).readLocs l bs.length = bs := by
  refine List.ext_getElem? (fun i => ?_)
  unfold State.readLocs
  rw [List.getElem?_map, getElem?_rangeFrom]
  by_cases hi : i < bs.length
  · rw [if_pos hi, Option.map_some, State.readLoc, if_neg (h i hi)]
    simp [State.writeLocs, hi]
  · rw [if_neg hi, List.getElem?_eq_none (by omega), Option.map_none]

/-- A context image has 4,608 bytes (R88). -/
theorem Ctx.length_image (c : Ctx) : c.image.length = 4608 := by
  have h8 (l : List Nat) : (l.flatMap (leBytes 8)).length = 8 * l.length := by
    induction l with
    | nil => rfl
    | cons x l ih => rw [List.flatMap_cons, List.length_append, ih, length_leBytes, List.length_cons]; omega
  have hv (l : List Nat) : (l.flatMap (fun r => VWord.bytes (c.vr r))).length = 256 * l.length := by
    induction l with
    | nil => rfl
    | cons x l ih => rw [List.flatMap_cons, List.length_append, ih, VWord.bytes, length_leBytes, List.length_cons]; omega
  unfold Ctx.image
  rw [List.length_append, h8, hv]
  simp

end Sys2Proof.Machine
end

