-- ==== Sys2Proof/Laws/Ops.lean ====
section
/-! SUPPORT. What the shared operations of the instructions come to: an instruction with nothing in its way, each of the ways in which one is settled, each of the checks of its gate, and the operand forms. -/

namespace Sys2Proof.Machine

/-! ## The issue of an instruction -/

/-- With nothing in its way an instruction is settled with the outcome of its body. -/
theorem issue_clear {s : State} {u : Use} (h : s.clear u = true) (f : State → Ctx → Act) :
    issue s u f = .next (s.settle s.cur u (f s (s.ctx s.cur))) := by
  simp only [State.clear, Option.isNone_iff_eq_none] at h
  simp only [issue, h]

/-- Otherwise it is settled with what stands in its way. -/
theorem issue_gate {s : State} {u : Use} {a : Act} (h : s.gate u = some a) (f : State → Ctx → Act) : issue s u f = .next (s.settle s.cur u a) := by
  simp only [issue, h]

/-- An instruction of a thread ends in a next state. -/
theorem issue_next (s : State) (u : Use) (f : State → Ctx → Act) : ∃ a, issue s u f = .next (s.settle s.cur u a) ∧ (a = f s (s.ctx s.cur) ∨ s.gate u = some a) := by
  unfold issue
  cases h : s.gate u with
  | none => exact ⟨_, rfl, .inl rfl⟩
  | some a => exact ⟨a, rfl, .inr rfl⟩

@[simp] theorem settle_go (s s' : State) (t : Thr) (u : Use) : s.settle t u (.go s') = s'.behind t u true := rfl
@[simp] theorem settle_goNow (s s' : State) (t : Thr) (u : Use) : s.settle t u (.goNow s') = s'.behind t u false := rfl
@[simp] theorem settle_stay (s s' : State) (t : Thr) (u : Use) (k : Cls4) (b : Sub) : s.settle t u (.stay s' k b) = s'.position t k b := rfl
@[simp] theorem settle_block (s s' : State) (t : Thr) (u : Use) (ev : Word) (k : Cls4) (b : Sub) :
    s.settle t u (.block s' ev k b) = (s'.setCtx t { s'.ctx t with wait := ev }).position t k b := rfl
@[simp] theorem settle_trap (s : State) (t : Thr) (u : Use) (code sub : Nat) (va : Word) :
    s.settle t u (.trap code sub va) = (s.position t .vacant .trap).raiseAt t code sub va := rfl
@[simp] theorem settle_trapIn (s s' : State) (t : Thr) (u : Use) (tr : Trap) : s.settle t u (.trapIn s' tr) = (s'.position t .vacant .trap).raise t tr := rfl
@[simp] theorem settle_fell (s s' : State) (t : Thr) (u : Use) : s.settle t u (.fell s') = s'.position t .vacant .trap := rfl
@[simp] theorem settle_jump (s s' : State) (t : Thr) (u : Use) : s.settle t u (.jump s') = s'.position t .issued .none := rfl

/-! ## The gate, in its order (R151, R53, R82) -/

/-- A deferred fault comes first. -/
theorem gate_fail {s : State} {u : Use} {f : Fail} (h : s.dueAt s.cur (u.src.union u.dst) u.all = some f) :
    s.gate u = some (.fell (s.takeFail s.cur f)) := by
  simp only [State.gate, h]

/-- Then PRIV in user mode. -/
theorem gate_priv {s : State} {u : Use} (h : s.dueAt s.cur (u.src.union u.dst) u.all = none) (hp : u.priv = true)
    (hm : (s.ctx s.cur).sup = false) : s.gate u = some (.trap cPRIV 0 0) := by
  simp [State.gate, h, hp, hm]

/-- Then HAZARD. -/
theorem gate_hazard {s : State} {u : Use} (h : s.dueAt s.cur (u.src.union u.dst) u.all = none) (hp : u.priv = true → (s.ctx s.cur).sup = true)
    (hz : (s.ctx s.cur).hazard u = true) : s.gate u = some (.trap cHAZARD 0 0) := by
  have : (u.priv && !(s.ctx s.cur).sup) = false := by cases h1 : u.priv <;> simp_all
  simp [State.gate, h, this, hz]

/-- ECC_UNCORR for a register that holds an uncorrectable error comes last. -/
theorem gate_bad {s : State} {u : Use} (h : s.dueAt s.cur (u.src.union u.dst) u.all = none) (hp : u.priv = true → (s.ctx s.cur).sup = true)
    (hz : (s.ctx s.cur).hazard u = false) (hr : u.bare = false → s.readHandles s.cur ((s.ctx s.cur).handleReads u) = none)
    (ha : u.all = true → (s.ctx s.cur).pend.empty = true) (hm : (s.ctx s.cur).pend.meets (u.src.union u.dst) = false)
    (hb : (s.ctx s.cur).bad.meets u.src = true) : s.gate u = some (.trap cECC_UNCORR 0 0) := by
  have h1 : (u.priv && !(s.ctx s.cur).sup) = false := by cases h1 : u.priv <;> simp_all
  have h2 : (u.all && !(s.ctx s.cur).pend.empty) = false := by cases h2 : u.all <;> simp_all
  cases h3 : u.bare <;> simp only [State.gate, h, h1, h2, hz, hm, hb, h3, hr] <;> simp_all

/-- What `clear` says: no deferred fault is due, no PRIV, no HAZARD, no handle to wait for or to report, no register pending, none read that holds an uncorrectable error. -/
theorem clear_iff (s : State) (u : Use) : s.clear u = true ↔
    s.dueAt s.cur (u.src.union u.dst) u.all = none ∧ (u.priv = true → (s.ctx s.cur).sup = true) ∧ (s.ctx s.cur).hazard u = false
      ∧ (u.bare = false → s.readHandles s.cur ((s.ctx s.cur).handleReads u) = none)
      ∧ (u.all = true → (s.ctx s.cur).pend.empty = true) ∧ (s.ctx s.cur).pend.meets (u.src.union u.dst) = false
      ∧ (s.ctx s.cur).bad.meets u.src = false := by
  simp only [State.clear, State.gate]
  generalize s.dueAt s.cur (u.src.union u.dst) u.all = x
  generalize s.readHandles s.cur ((s.ctx s.cur).handleReads u) = y
  generalize (s.ctx s.cur).hazard u = z
  generalize (s.ctx s.cur).pend.meets (u.src.union u.dst) = m
  generalize (s.ctx s.cur).bad.meets u.src = b
  cases x with
  | some f => simp
  | none =>
    cases u.priv <;> cases (s.ctx s.cur).sup <;> cases z <;> cases u.bare <;> cases y <;> cases u.all <;> cases (s.ctx s.cur).pend.empty <;> cases m <;> cases b <;> simp

/-- With no register of it handle-pending an instruction reads no handle. -/
theorem readHandles_nil (s : State) (t : Thr) : s.readHandles t [] = none := rfl

/-! ## The operand forms -/

theorem aluRRR_clear {s : State} {rd ra rb : GReg} (h : s.clear (useRRR rd ra rb) = true) (f : Word → Word → Word) :
    aluRRR s rd ra rb f = .next ((s.putG rd (f ((s.ctx s.cur).gr ra) ((s.ctx s.cur).gr rb))).behind s.cur (useRRR rd ra rb) true) := issue_clear h _

theorem aluRR_clear {s : State} {rd ra : GReg} (h : s.clear (useRR rd ra) = true) (f : Word → Word) :
    aluRR s rd ra f = .next ((s.putG rd (f ((s.ctx s.cur).gr ra))).behind s.cur (useRR rd ra) true) := issue_clear h _

theorem aluRRRd_clear {s : State} {rd ra rb : GReg} (h : s.clear (useRRRd rd ra rb) = true) (f : Word → Word → Word → Word) :
    aluRRRd s rd ra rb f
      = .next ((s.putG rd (f ((s.ctx s.cur).gr rd) ((s.ctx s.cur).gr ra) ((s.ctx s.cur).gr rb))).behind s.cur (useRRRd rd ra rb) true) := issue_clear h _

theorem fpRRR_clear {s : State} {rd ra rb : GReg} (h : s.clear (useRRR rd ra rb) = true) (f : Lane → Lane → Lane × FFlags) :
    fpRRR s rd ra rb f = .next ((s.putF rd (zext32 (f (lo32 ((s.ctx s.cur).gr ra)) (lo32 ((s.ctx s.cur).gr rb))).1)
      (f (lo32 ((s.ctx s.cur).gr ra)) (lo32 ((s.ctx s.cur).gr rb))).2).behind s.cur (useRRR rd ra rb) true) := issue_clear h _

theorem fpCmp_clear {s : State} {rd ra rb : GReg} (h : s.clear (useRRR rd ra rb) = true) (f : Lane → Lane → Bool × FFlags) :
    fpCmp s rd ra rb f = .next ((s.putF rd (boolWord (f (lo32 ((s.ctx s.cur).gr ra)) (lo32 ((s.ctx s.cur).gr rb))).1)
      (f (lo32 ((s.ctx s.cur).gr ra)) (lo32 ((s.ctx s.cur).gr rb))).2).behind s.cur (useRRR rd ra rb) true) := issue_clear h _

theorem fpRR_clear {s : State} {rd ra : GReg} (h : s.clear (useRR rd ra) = true) (f : Word → Word × FFlags) :
    fpRR s rd ra f = .next ((s.putF rd (f ((s.ctx s.cur).gr ra)).1 (f ((s.ctx s.cur).gr ra)).2).behind s.cur (useRR rd ra) true) := issue_clear h _

theorem longRRR_clear {s : State} {delay : Nat} {rd ra rb : GReg} {la : La} (h : s.clear ((useRRR rd ra rb).long la) = true)
    (f : Word → Word → Word × FFlags) :
    let u := (useRRR rd ra rb).long la
    let r := f ((s.ctx s.cur).gr ra) ((s.ctx s.cur).gr rb)
    let w : Writes := { g := [(rd.val, r.1)], flags := r.2 }
    longRRR s delay rd ra rb la f
      = .next (((s.flagsNow u.dst w).fly s.cur delay u.dst (w.flagsLater u.dst)).behind s.cur u true) := by
  unfold longRRR
  exact issue_clear h _

/-! ## Checks of an access -/

/-- An effect behind checks that admit it. -/
theorem checked_ok {s : State} {p : Perm} {l : List (Word × Nat)} (h : s.checkAccess s.cur.core p l = none) (k : State → Act) : checked s p l k = k s := by
  simp [checked, h]

/-- An effect behind checks that fail. -/
theorem checked_fault {s : State} {p : Perm} {l : List (Word × Nat)} {code : Nat} {va : Word} (h : s.checkAccess s.cur.core p l = some (code, va))
    (k : State → Act) : checked s p l k = .trap code 0 va := by
  simp [checked, h]

/-! ## Fences (R224) -/

/-- A fence with nothing to wait for is over at once. -/
theorem fenced_idle {s : State} {wide : Bool} (hb : (s.ctx s.cur).busy ≠ .fence) (he : s.egEmpty s.cur = true) (ht : wide = true → (s.ctx s.cur).tb = [])
    (done : State → Act) : s.fenced wide done = done s := by
  unfold State.fenced
  rw [if_neg hb, if_pos]
  cases wide <;> simp_all

/-- A fence under way ends once the egress is empty and, above .core, every probe is answered. -/
theorem fenced_ends {s : State} {wide : Bool} (hb : (s.ctx s.cur).busy = .fence) (he : s.egEmpty s.cur = true)
    (hp : wide = true → s.probing s.cur = false) (done : State → Act) :
    s.fenced wide done = done (s.setCtx s.cur { s.ctx s.cur with busy := .none }) := by
  cases wide <;> simp_all [State.fenced]

/-- Until then it holds its thread. -/
theorem fenced_holds {s : State} {wide : Bool} (hb : (s.ctx s.cur).busy = .fence)
    (h : s.egEmpty s.cur = false ∨ (wide = true ∧ s.probing s.cur = true)) (done : State → Act) : s.fenced wide done = .stay s .memory .none := by
  unfold State.fenced
  rw [if_pos hb, if_neg]
  rcases h with h | ⟨h, h'⟩ <;> simp [*]

end Sys2Proof.Machine
end

