-- ==== Sys2Proof/Laws/PerInstr.lean ====
section
/-! SUPPORT. For every instruction: the word that encodes it, where there is one, decodes to it again (R33-R50). -/

namespace Sys2Proof.Laws

/-- The word of a well-formed instruction decodes to that instruction. -/
def RoundTrip.Statement (i : Instr) : Prop := ∀ w : Lane, wf i = true → encode i = some w → decode w = .ok i

/-- A step that has no encoding. -/
theorem statement_of_no_word {i : Instr} (h : encodeNat i = none) : RoundTrip.Statement i := by
  intro w _ he
  simp [encode, h] at he

/-! A word as its fields from the low end, each a number and a width. -/

/-- The word of the fields. -/
def wordOf : List (Nat × Nat) → Nat
  | [] => 0
  | (x, w) :: t => x + 2 ^ w * wordOf t

/-- Every field's number is below 2 to its width. -/
def Fits : List (Nat × Nat) → Prop
  | [] => True
  | (x, w) :: t => x < 2 ^ w ∧ Fits t

/-- The lowest bit of a field. -/
def lowOf : List (Nat × Nat) → Nat → Nat
  | [], _ => 0
  | _ :: _, 0 => 0
  | (_, w) :: t, k + 1 => w + lowOf t k

/-- The width of a field. -/
def widthOf : List (Nat × Nat) → Nat → Nat
  | [], _ => 0
  | (_, w) :: _, 0 => w
  | _ :: t, k + 1 => widthOf t k

/-- The number in a field. -/
def valueOf : List (Nat × Nat) → Nat → Nat
  | [], _ => 0
  | (x, _) :: _, 0 => x
  | _ :: t, k + 1 => valueOf t k

/-- The number of bits of all fields. -/
def sizeOf : List (Nat × Nat) → Nat
  | [] => 0
  | (_, w) :: t => w + sizeOf t

/-- A field is read back from its bits. -/
theorem bits_field (l : List (Nat × Nat)) (k : Nat) (h : Fits l) : bits (wordOf l) (lowOf l k) (widthOf l k) = valueOf l k := by
  induction l generalizing k with
  | nil => simp [bits, wordOf, lowOf, widthOf, valueOf]
  | cons f t ih =>
    obtain ⟨x, w⟩ := f
    cases k with
    | zero => simp [bits, wordOf, lowOf, widthOf, valueOf, Nat.add_mul_mod_self_left, Nat.mod_eq_of_lt h.1]
    | succ k =>
      have := ih k h.2
      unfold bits at this ⊢
      simp only [wordOf, lowOf, widthOf, valueOf]
      rw [Nat.pow_add, ← Nat.div_div_eq_div_mul, Nat.add_mul_div_left _ _ (Nat.two_pow_pos w), Nat.div_eq_of_lt h.1, Nat.zero_add]
      exact this

/-- The word is no wider than its fields. -/
theorem wordOf_lt (l : List (Nat × Nat)) (h : Fits l) : wordOf l < 2 ^ sizeOf l := by
  induction l with
  | nil => simp [wordOf, sizeOf]
  | cons f t ih =>
    obtain ⟨x, w⟩ := f
    have h1 := h.1
    have h2 := Nat.mul_le_mul_left (2 ^ w) (ih h.2)
    simp only [wordOf, sizeOf, Nat.pow_add]
    rw [Nat.mul_succ] at h2
    omega

/-- A range of two fields. -/
theorem bits_join (x lo a b : Nat) : bits x lo (a + b) = bits x lo a + 2 ^ a * bits x (lo + a) b := by
  unfold bits
  rw [Nat.pow_add, Nat.mod_mul, Nat.pow_add, Nat.div_div_eq_div_mul]

/-- An instruction whose word is made of the fields `l`, and which the decoder makes of a word with those fields. -/
theorem statement_of {i : Instr} {m : Nat} {l : List (Nat × Nat)} (h : encodeNat i = some m) (hm : m = wordOf l) (hl : Fits l) (hs : sizeOf l = 32)
    (hd : ∀ n, (∀ k, bits n (lowOf l k) (widthOf l k) = valueOf l k) → decodeRaw n = some i) : RoundTrip.Statement i := by
  have hd := hd m (hm ▸ fun k => bits_field l k hl)
  have hn : m < 2 ^ 32 := hs ▸ hm ▸ wordOf_lt l hl
  intro w hw he
  simp only [encode, h, Option.map_some, Option.some.injEq] at he
  subst he
  have ht : (BitVec.ofNat 32 m).toNat = m := by simp; omega
  unfold decode
  rw [ht, hd]
  simp [hw]

theorem rm_lt (m : Rm) : m.code < 2 ^ 2 := by cases m <;> decide
theorem scope_lt (m : Scope) : m.code < 2 ^ 3 := by cases m <;> decide
theorem width_lt (m : Width) : m.code < 2 ^ 2 := by cases m <;> decide
theorem type_lt (m : CmpType) : m.code < 2 ^ 2 := by cases m <;> decide
theorem cond_lt (m : Cond) : m.code < 2 ^ 5 := by cases m <;> decide
theorem flag_lt (b : Bool) : b.toNat < 2 ^ 1 := by cases b <;> decide

theorem back_rm (m : Rm) : Rm.ofCode m.code = m := by cases m <;> rfl
theorem back_scope (m : Scope) : Scope.ofCode? m.code = some m := by cases m <;> rfl
theorem back_width (m : Width) : Width.ofCode? m.code = some m := by cases m <;> rfl
theorem back_type (m : CmpType) : CmpType.ofCode? m.code = some m := by cases m <;> rfl
theorem back_cond (m : Cond) : Cond.ofCode? m.code = some m := by cases m <;> rfl
theorem back_flag (b : Bool) : decide (b.toNat = 1) = b := by cases b <;> rfl
theorem back_fin {n : Nat} [NeZero n] (x : Fin n) : Fin.ofNat n x.val = x := by ext; simp [Fin.ofNat, Nat.mod_eq_of_lt x.isLt]
theorem back_bits {n : Nat} (x : BitVec n) : BitVec.ofNat n x.toNat = x := by simp

/-- The decoder of a word's major opcode (R44). -/
theorem raw {n k : Nat} (h : bits n 26 6 = k) : decodeRaw n = decodeOp k n := congrArg (fun o => decodeOp o n) h

/-- A field that holds another value. -/
theorem differ {a b c : Nat} (h : a = b) (hn : b ≠ c) : ¬ a = c := fun e => hn (h.symm.trans e)

theorem RoundTrip.add rd ra rb : RoundTrip.Statement (.add rd ra rb) := by
  refine statement_of (l := [(0, 11), (rb.val, 5), (ra.val, 5), (rd.val, 5), (4, 6)]) rfl (by simp only [enc, wordOf]; omega) ⟨(by decide), rb.isLt, ra.isLt, rd.isLt, (by decide), trivial⟩ rfl fun N at_ => ?_
  have p0 : bits N 0 11 = 0 := at_ 0
  have p1 : bits N 11 5 = rb.val := at_ 1
  have p2 : bits N 16 5 = ra.val := at_ 2
  have p3 : bits N 21 5 = rd.val := at_ 3
  have p4 : bits N 26 6 = 4 := at_ 4
  exact (raw p4).trans (show decodeOp04 N = _ from ((if_pos p0).trans (by simp only [p3, p2, p1, back_fin])))

theorem RoundTrip.sub rd ra rb : RoundTrip.Statement (.sub rd ra rb) := by
  refine statement_of (l := [(1, 11), (rb.val, 5), (ra.val, 5), (rd.val, 5), (4, 6)]) rfl (by simp only [enc, wordOf]; omega) ⟨(by decide), rb.isLt, ra.isLt, rd.isLt, (by decide), trivial⟩ rfl fun N at_ => ?_
  have p0 : bits N 0 11 = 1 := at_ 0
  have p1 : bits N 11 5 = rb.val := at_ 1
  have p2 : bits N 16 5 = ra.val := at_ 2
  have p3 : bits N 21 5 = rd.val := at_ 3
  have p4 : bits N 26 6 = 4 := at_ 4
  exact (raw p4).trans (show decodeOp04 N = _ from ((if_neg (differ p0 (by decide))).trans ((if_pos p0).trans (by simp only [p3, p2, p1, back_fin]))))

theorem RoundTrip.addw rd ra rb : RoundTrip.Statement (.addw rd ra rb) := by
  refine statement_of (l := [(2, 11), (rb.val, 5), (ra.val, 5), (rd.val, 5), (4, 6)]) rfl (by simp only [enc, wordOf]; omega) ⟨(by decide), rb.isLt, ra.isLt, rd.isLt, (by decide), trivial⟩ rfl fun N at_ => ?_
  have p0 : bits N 0 11 = 2 := at_ 0
  have p1 : bits N 11 5 = rb.val := at_ 1
  have p2 : bits N 16 5 = ra.val := at_ 2
  have p3 : bits N 21 5 = rd.val := at_ 3
  have p4 : bits N 26 6 = 4 := at_ 4
  exact (raw p4).trans (show decodeOp04 N = _ from ((if_neg (differ p0 (by decide))).trans ((if_neg (differ p0 (by decide))).trans ((if_pos p0).trans (by simp only [p3, p2, p1, back_fin])))))

theorem RoundTrip.subw rd ra rb : RoundTrip.Statement (.subw rd ra rb) := by
  refine statement_of (l := [(3, 11), (rb.val, 5), (ra.val, 5), (rd.val, 5), (4, 6)]) rfl (by simp only [enc, wordOf]; omega) ⟨(by decide), rb.isLt, ra.isLt, rd.isLt, (by decide), trivial⟩ rfl fun N at_ => ?_
  have p0 : bits N 0 11 = 3 := at_ 0
  have p1 : bits N 11 5 = rb.val := at_ 1
  have p2 : bits N 16 5 = ra.val := at_ 2
  have p3 : bits N 21 5 = rd.val := at_ 3
  have p4 : bits N 26 6 = 4 := at_ 4
  exact (raw p4).trans (show decodeOp04 N = _ from ((if_neg (differ p0 (by decide))).trans ((if_neg (differ p0 (by decide))).trans ((if_neg (differ p0 (by decide))).trans ((if_pos p0).trans (by simp only [p3, p2, p1, back_fin]))))))

theorem RoundTrip.and rd ra rb : RoundTrip.Statement (.and rd ra rb) := by
  refine statement_of (l := [(4, 11), (rb.val, 5), (ra.val, 5), (rd.val, 5), (4, 6)]) rfl (by simp only [enc, wordOf]; omega) ⟨(by decide), rb.isLt, ra.isLt, rd.isLt, (by decide), trivial⟩ rfl fun N at_ => ?_
  have p0 : bits N 0 11 = 4 := at_ 0
  have p1 : bits N 11 5 = rb.val := at_ 1
  have p2 : bits N 16 5 = ra.val := at_ 2
  have p3 : bits N 21 5 = rd.val := at_ 3
  have p4 : bits N 26 6 = 4 := at_ 4
  exact (raw p4).trans (show decodeOp04 N = _ from ((if_neg (differ p0 (by decide))).trans ((if_neg (differ p0 (by decide))).trans ((if_neg (differ p0 (by decide))).trans ((if_neg (differ p0 (by decide))).trans ((if_pos p0).trans (by simp only [p3, p2, p1, back_fin])))))))

theorem RoundTrip.or rd ra rb : RoundTrip.Statement (.or rd ra rb) := by
  refine statement_of (l := [(5, 11), (rb.val, 5), (ra.val, 5), (rd.val, 5), (4, 6)]) rfl (by simp only [enc, wordOf]; omega) ⟨(by decide), rb.isLt, ra.isLt, rd.isLt, (by decide), trivial⟩ rfl fun N at_ => ?_
  have p0 : bits N 0 11 = 5 := at_ 0
  have p1 : bits N 11 5 = rb.val := at_ 1
  have p2 : bits N 16 5 = ra.val := at_ 2
  have p3 : bits N 21 5 = rd.val := at_ 3
  have p4 : bits N 26 6 = 4 := at_ 4
  exact (raw p4).trans (show decodeOp04 N = _ from ((if_neg (differ p0 (by decide))).trans ((if_neg (differ p0 (by decide))).trans ((if_neg (differ p0 (by decide))).trans ((if_neg (differ p0 (by decide))).trans ((if_neg (differ p0 (by decide))).trans ((if_pos p0).trans (by simp only [p3, p2, p1, back_fin]))))))))

theorem RoundTrip.xor rd ra rb : RoundTrip.Statement (.xor rd ra rb) := by
  refine statement_of (l := [(6, 11), (rb.val, 5), (ra.val, 5), (rd.val, 5), (4, 6)]) rfl (by simp only [enc, wordOf]; omega) ⟨(by decide), rb.isLt, ra.isLt, rd.isLt, (by decide), trivial⟩ rfl fun N at_ => ?_
  have p0 : bits N 0 11 = 6 := at_ 0
  have p1 : bits N 11 5 = rb.val := at_ 1
  have p2 : bits N 16 5 = ra.val := at_ 2
  have p3 : bits N 21 5 = rd.val := at_ 3
  have p4 : bits N 26 6 = 4 := at_ 4
  exact (raw p4).trans (show decodeOp04 N = _ from ((if_neg (differ p0 (by decide))).trans ((if_neg (differ p0 (by decide))).trans ((if_neg (differ p0 (by decide))).trans ((if_neg (differ p0 (by decide))).trans ((if_neg (differ p0 (by decide))).trans ((if_neg (differ p0 (by decide))).trans ((if_pos p0).trans (by simp only [p3, p2, p1, back_fin])))))))))

theorem RoundTrip.andn rd ra rb : RoundTrip.Statement (.andn rd ra rb) := by
  refine statement_of (l := [(7, 11), (rb.val, 5), (ra.val, 5), (rd.val, 5), (4, 6)]) rfl (by simp only [enc, wordOf]; omega) ⟨(by decide), rb.isLt, ra.isLt, rd.isLt, (by decide), trivial⟩ rfl fun N at_ => ?_
  have p0 : bits N 0 11 = 7 := at_ 0
  have p1 : bits N 11 5 = rb.val := at_ 1
  have p2 : bits N 16 5 = ra.val := at_ 2
  have p3 : bits N 21 5 = rd.val := at_ 3
  have p4 : bits N 26 6 = 4 := at_ 4
  exact (raw p4).trans (show decodeOp04 N = _ from ((if_neg (differ p0 (by decide))).trans ((if_neg (differ p0 (by decide))).trans ((if_neg (differ p0 (by decide))).trans ((if_neg (differ p0 (by decide))).trans ((if_neg (differ p0 (by decide))).trans ((if_neg (differ p0 (by decide))).trans ((if_neg (differ p0 (by decide))).trans ((if_pos p0).trans (by simp only [p3, p2, p1, back_fin]))))))))))

theorem RoundTrip.orn rd ra rb : RoundTrip.Statement (.orn rd ra rb) := by
  refine statement_of (l := [(8, 11), (rb.val, 5), (ra.val, 5), (rd.val, 5), (4, 6)]) rfl (by simp only [enc, wordOf]; omega) ⟨(by decide), rb.isLt, ra.isLt, rd.isLt, (by decide), trivial⟩ rfl fun N at_ => ?_
  have p0 : bits N 0 11 = 8 := at_ 0
  have p1 : bits N 11 5 = rb.val := at_ 1
  have p2 : bits N 16 5 = ra.val := at_ 2
  have p3 : bits N 21 5 = rd.val := at_ 3
  have p4 : bits N 26 6 = 4 := at_ 4
  exact (raw p4).trans (show decodeOp04 N = _ from ((if_neg (differ p0 (by decide))).trans ((if_neg (differ p0 (by decide))).trans ((if_neg (differ p0 (by decide))).trans ((if_neg (differ p0 (by decide))).trans ((if_neg (differ p0 (by decide))).trans ((if_neg (differ p0 (by decide))).trans ((if_neg (differ p0 (by decide))).trans ((if_neg (differ p0 (by decide))).trans ((if_pos p0).trans (by simp only [p3, p2, p1, back_fin])))))))))))

theorem RoundTrip.xnor rd ra rb : RoundTrip.Statement (.xnor rd ra rb) := by
  refine statement_of (l := [(9, 11), (rb.val, 5), (ra.val, 5), (rd.val, 5), (4, 6)]) rfl (by simp only [enc, wordOf]; omega) ⟨(by decide), rb.isLt, ra.isLt, rd.isLt, (by decide), trivial⟩ rfl fun N at_ => ?_
  have p0 : bits N 0 11 = 9 := at_ 0
  have p1 : bits N 11 5 = rb.val := at_ 1
  have p2 : bits N 16 5 = ra.val := at_ 2
  have p3 : bits N 21 5 = rd.val := at_ 3
  have p4 : bits N 26 6 = 4 := at_ 4
  exact (raw p4).trans (show decodeOp04 N = _ from ((if_neg (differ p0 (by decide))).trans ((if_neg (differ p0 (by decide))).trans ((if_neg (differ p0 (by decide))).trans ((if_neg (differ p0 (by decide))).trans ((if_neg (differ p0 (by decide))).trans ((if_neg (differ p0 (by decide))).trans ((if_neg (differ p0 (by decide))).trans ((if_neg (differ p0 (by decide))).trans ((if_neg (differ p0 (by decide))).trans ((if_pos p0).trans (by simp only [p3, p2, p1, back_fin]))))))))))))

theorem RoundTrip.shl rd ra rb : RoundTrip.Statement (.shl rd ra rb) := by
  refine statement_of (l := [(10, 11), (rb.val, 5), (ra.val, 5), (rd.val, 5), (4, 6)]) rfl (by simp only [enc, wordOf]; omega) ⟨(by decide), rb.isLt, ra.isLt, rd.isLt, (by decide), trivial⟩ rfl fun N at_ => ?_
  have p0 : bits N 0 11 = 10 := at_ 0
  have p1 : bits N 11 5 = rb.val := at_ 1
  have p2 : bits N 16 5 = ra.val := at_ 2
  have p3 : bits N 21 5 = rd.val := at_ 3
  have p4 : bits N 26 6 = 4 := at_ 4
  exact (raw p4).trans (show decodeOp04 N = _ from ((if_neg (differ p0 (by decide))).trans ((if_neg (differ p0 (by decide))).trans ((if_neg (differ p0 (by decide))).trans ((if_neg (differ p0 (by decide))).trans ((if_neg (differ p0 (by decide))).trans ((if_neg (differ p0 (by decide))).trans ((if_neg (differ p0 (by decide))).trans ((if_neg (differ p0 (by decide))).trans ((if_neg (differ p0 (by decide))).trans ((if_neg (differ p0 (by decide))).trans ((if_pos p0).trans (by simp only [p3, p2, p1, back_fin])))))))))))))

theorem RoundTrip.shr rd ra rb : RoundTrip.Statement (.shr rd ra rb) := by
  refine statement_of (l := [(11, 11), (rb.val, 5), (ra.val, 5), (rd.val, 5), (4, 6)]) rfl (by simp only [enc, wordOf]; omega) ⟨(by decide), rb.isLt, ra.isLt, rd.isLt, (by decide), trivial⟩ rfl fun N at_ => ?_
  have p0 : bits N 0 11 = 11 := at_ 0
  have p1 : bits N 11 5 = rb.val := at_ 1
  have p2 : bits N 16 5 = ra.val := at_ 2
  have p3 : bits N 21 5 = rd.val := at_ 3
  have p4 : bits N 26 6 = 4 := at_ 4
  exact (raw p4).trans (show decodeOp04 N = _ from ((if_neg (differ p0 (by decide))).trans ((if_neg (differ p0 (by decide))).trans ((if_neg (differ p0 (by decide))).trans ((if_neg (differ p0 (by decide))).trans ((if_neg (differ p0 (by decide))).trans ((if_neg (differ p0 (by decide))).trans ((if_neg (differ p0 (by decide))).trans ((if_neg (differ p0 (by decide))).trans ((if_neg (differ p0 (by decide))).trans ((if_neg (differ p0 (by decide))).trans ((if_neg (differ p0 (by decide))).trans ((if_pos p0).trans (by simp only [p3, p2, p1, back_fin]))))))))))))))

theorem RoundTrip.sra rd ra rb : RoundTrip.Statement (.sra rd ra rb) := by
  refine statement_of (l := [(12, 11), (rb.val, 5), (ra.val, 5), (rd.val, 5), (4, 6)]) rfl (by simp only [enc, wordOf]; omega) ⟨(by decide), rb.isLt, ra.isLt, rd.isLt, (by decide), trivial⟩ rfl fun N at_ => ?_
  have p0 : bits N 0 11 = 12 := at_ 0
  have p1 : bits N 11 5 = rb.val := at_ 1
  have p2 : bits N 16 5 = ra.val := at_ 2
  have p3 : bits N 21 5 = rd.val := at_ 3
  have p4 : bits N 26 6 = 4 := at_ 4
  exact (raw p4).trans (show decodeOp04 N = _ from ((if_neg (differ p0 (by decide))).trans ((if_neg (differ p0 (by decide))).trans ((if_neg (differ p0 (by decide))).trans ((if_neg (differ p0 (by decide))).trans ((if_neg (differ p0 (by decide))).trans ((if_neg (differ p0 (by decide))).trans ((if_neg (differ p0 (by decide))).trans ((if_neg (differ p0 (by decide))).trans ((if_neg (differ p0 (by decide))).trans ((if_neg (differ p0 (by decide))).trans ((if_neg (differ p0 (by decide))).trans ((if_neg (differ p0 (by decide))).trans ((if_pos p0).trans (by simp only [p3, p2, p1, back_fin])))))))))))))))

theorem RoundTrip.rol rd ra rb : RoundTrip.Statement (.rol rd ra rb) := by
  refine statement_of (l := [(13, 11), (rb.val, 5), (ra.val, 5), (rd.val, 5), (4, 6)]) rfl (by simp only [enc, wordOf]; omega) ⟨(by decide), rb.isLt, ra.isLt, rd.isLt, (by decide), trivial⟩ rfl fun N at_ => ?_
  have p0 : bits N 0 11 = 13 := at_ 0
  have p1 : bits N 11 5 = rb.val := at_ 1
  have p2 : bits N 16 5 = ra.val := at_ 2
  have p3 : bits N 21 5 = rd.val := at_ 3
  have p4 : bits N 26 6 = 4 := at_ 4
  exact (raw p4).trans (show decodeOp04 N = _ from ((if_neg (differ p0 (by decide))).trans ((if_neg (differ p0 (by decide))).trans ((if_neg (differ p0 (by decide))).trans ((if_neg (differ p0 (by decide))).trans ((if_neg (differ p0 (by decide))).trans ((if_neg (differ p0 (by decide))).trans ((if_neg (differ p0 (by decide))).trans ((if_neg (differ p0 (by decide))).trans ((if_neg (differ p0 (by decide))).trans ((if_neg (differ p0 (by decide))).trans ((if_neg (differ p0 (by decide))).trans ((if_neg (differ p0 (by decide))).trans ((if_neg (differ p0 (by decide))).trans ((if_pos p0).trans (by simp only [p3, p2, p1, back_fin]))))))))))))))))

theorem RoundTrip.ror rd ra rb : RoundTrip.Statement (.ror rd ra rb) := by
  refine statement_of (l := [(14, 11), (rb.val, 5), (ra.val, 5), (rd.val, 5), (4, 6)]) rfl (by simp only [enc, wordOf]; omega) ⟨(by decide), rb.isLt, ra.isLt, rd.isLt, (by decide), trivial⟩ rfl fun N at_ => ?_
  have p0 : bits N 0 11 = 14 := at_ 0
  have p1 : bits N 11 5 = rb.val := at_ 1
  have p2 : bits N 16 5 = ra.val := at_ 2
  have p3 : bits N 21 5 = rd.val := at_ 3
  have p4 : bits N 26 6 = 4 := at_ 4
  exact (raw p4).trans (show decodeOp04 N = _ from ((if_neg (differ p0 (by decide))).trans ((if_neg (differ p0 (by decide))).trans ((if_neg (differ p0 (by decide))).trans ((if_neg (differ p0 (by decide))).trans ((if_neg (differ p0 (by decide))).trans ((if_neg (differ p0 (by decide))).trans ((if_neg (differ p0 (by decide))).trans ((if_neg (differ p0 (by decide))).trans ((if_neg (differ p0 (by decide))).trans ((if_neg (differ p0 (by decide))).trans ((if_neg (differ p0 (by decide))).trans ((if_neg (differ p0 (by decide))).trans ((if_neg (differ p0 (by decide))).trans ((if_neg (differ p0 (by decide))).trans ((if_pos p0).trans (by simp only [p3, p2, p1, back_fin])))))))))))))))))

theorem RoundTrip.slt rd ra rb : RoundTrip.Statement (.slt rd ra rb) := by
  refine statement_of (l := [(16, 11), (rb.val, 5), (ra.val, 5), (rd.val, 5), (4, 6)]) rfl (by simp only [enc, wordOf]; omega) ⟨(by decide), rb.isLt, ra.isLt, rd.isLt, (by decide), trivial⟩ rfl fun N at_ => ?_
  have p0 : bits N 0 11 = 16 := at_ 0
  have p1 : bits N 11 5 = rb.val := at_ 1
  have p2 : bits N 16 5 = ra.val := at_ 2
  have p3 : bits N 21 5 = rd.val := at_ 3
  have p4 : bits N 26 6 = 4 := at_ 4
  exact (raw p4).trans (show decodeOp04 N = _ from ((if_neg (differ p0 (by decide))).trans ((if_neg (differ p0 (by decide))).trans ((if_neg (differ p0 (by decide))).trans ((if_neg (differ p0 (by decide))).trans ((if_neg (differ p0 (by decide))).trans ((if_neg (differ p0 (by decide))).trans ((if_neg (differ p0 (by decide))).trans ((if_neg (differ p0 (by decide))).trans ((if_neg (differ p0 (by decide))).trans ((if_neg (differ p0 (by decide))).trans ((if_neg (differ p0 (by decide))).trans ((if_neg (differ p0 (by decide))).trans ((if_neg (differ p0 (by decide))).trans ((if_neg (differ p0 (by decide))).trans ((if_neg (differ p0 (by decide))).trans ((if_pos p0).trans (by simp only [p3, p2, p1, back_fin]))))))))))))))))))

theorem RoundTrip.sltu rd ra rb : RoundTrip.Statement (.sltu rd ra rb) := by
  refine statement_of (l := [(17, 11), (rb.val, 5), (ra.val, 5), (rd.val, 5), (4, 6)]) rfl (by simp only [enc, wordOf]; omega) ⟨(by decide), rb.isLt, ra.isLt, rd.isLt, (by decide), trivial⟩ rfl fun N at_ => ?_
  have p0 : bits N 0 11 = 17 := at_ 0
  have p1 : bits N 11 5 = rb.val := at_ 1
  have p2 : bits N 16 5 = ra.val := at_ 2
  have p3 : bits N 21 5 = rd.val := at_ 3
  have p4 : bits N 26 6 = 4 := at_ 4
  exact (raw p4).trans (show decodeOp04 N = _ from ((if_neg (differ p0 (by decide))).trans ((if_neg (differ p0 (by decide))).trans ((if_neg (differ p0 (by decide))).trans ((if_neg (differ p0 (by decide))).trans ((if_neg (differ p0 (by decide))).trans ((if_neg (differ p0 (by decide))).trans ((if_neg (differ p0 (by decide))).trans ((if_neg (differ p0 (by decide))).trans ((if_neg (differ p0 (by decide))).trans ((if_neg (differ p0 (by decide))).trans ((if_neg (differ p0 (by decide))).trans ((if_neg (differ p0 (by decide))).trans ((if_neg (differ p0 (by decide))).trans ((if_neg (differ p0 (by decide))).trans ((if_neg (differ p0 (by decide))).trans ((if_neg (differ p0 (by decide))).trans ((if_pos p0).trans (by simp only [p3, p2, p1, back_fin])))))))))))))))))))

theorem RoundTrip.seq rd ra rb : RoundTrip.Statement (.seq rd ra rb) := by
  refine statement_of (l := [(18, 11), (rb.val, 5), (ra.val, 5), (rd.val, 5), (4, 6)]) rfl (by simp only [enc, wordOf]; omega) ⟨(by decide), rb.isLt, ra.isLt, rd.isLt, (by decide), trivial⟩ rfl fun N at_ => ?_
  have p0 : bits N 0 11 = 18 := at_ 0
  have p1 : bits N 11 5 = rb.val := at_ 1
  have p2 : bits N 16 5 = ra.val := at_ 2
  have p3 : bits N 21 5 = rd.val := at_ 3
  have p4 : bits N 26 6 = 4 := at_ 4
  exact (raw p4).trans (show decodeOp04 N = _ from ((if_neg (differ p0 (by decide))).trans ((if_neg (differ p0 (by decide))).trans ((if_neg (differ p0 (by decide))).trans ((if_neg (differ p0 (by decide))).trans ((if_neg (differ p0 (by decide))).trans ((if_neg (differ p0 (by decide))).trans ((if_neg (differ p0 (by decide))).trans ((if_neg (differ p0 (by decide))).trans ((if_neg (differ p0 (by decide))).trans ((if_neg (differ p0 (by decide))).trans ((if_neg (differ p0 (by decide))).trans ((if_neg (differ p0 (by decide))).trans ((if_neg (differ p0 (by decide))).trans ((if_neg (differ p0 (by decide))).trans ((if_neg (differ p0 (by decide))).trans ((if_neg (differ p0 (by decide))).trans ((if_neg (differ p0 (by decide))).trans ((if_pos p0).trans (by simp only [p3, p2, p1, back_fin]))))))))))))))))))))

theorem RoundTrip.sne rd ra rb : RoundTrip.Statement (.sne rd ra rb) := by
  refine statement_of (l := [(19, 11), (rb.val, 5), (ra.val, 5), (rd.val, 5), (4, 6)]) rfl (by simp only [enc, wordOf]; omega) ⟨(by decide), rb.isLt, ra.isLt, rd.isLt, (by decide), trivial⟩ rfl fun N at_ => ?_
  have p0 : bits N 0 11 = 19 := at_ 0
  have p1 : bits N 11 5 = rb.val := at_ 1
  have p2 : bits N 16 5 = ra.val := at_ 2
  have p3 : bits N 21 5 = rd.val := at_ 3
  have p4 : bits N 26 6 = 4 := at_ 4
  exact (raw p4).trans (show decodeOp04 N = _ from ((if_neg (differ p0 (by decide))).trans ((if_neg (differ p0 (by decide))).trans ((if_neg (differ p0 (by decide))).trans ((if_neg (differ p0 (by decide))).trans ((if_neg (differ p0 (by decide))).trans ((if_neg (differ p0 (by decide))).trans ((if_neg (differ p0 (by decide))).trans ((if_neg (differ p0 (by decide))).trans ((if_neg (differ p0 (by decide))).trans ((if_neg (differ p0 (by decide))).trans ((if_neg (differ p0 (by decide))).trans ((if_neg (differ p0 (by decide))).trans ((if_neg (differ p0 (by decide))).trans ((if_neg (differ p0 (by decide))).trans ((if_neg (differ p0 (by decide))).trans ((if_neg (differ p0 (by decide))).trans ((if_neg (differ p0 (by decide))).trans ((if_neg (differ p0 (by decide))).trans ((if_pos p0).trans (by simp only [p3, p2, p1, back_fin])))))))))))))))))))))

theorem RoundTrip.min rd ra rb : RoundTrip.Statement (.min rd ra rb) := by
  refine statement_of (l := [(20, 11), (rb.val, 5), (ra.val, 5), (rd.val, 5), (4, 6)]) rfl (by simp only [enc, wordOf]; omega) ⟨(by decide), rb.isLt, ra.isLt, rd.isLt, (by decide), trivial⟩ rfl fun N at_ => ?_
  have p0 : bits N 0 11 = 20 := at_ 0
  have p1 : bits N 11 5 = rb.val := at_ 1
  have p2 : bits N 16 5 = ra.val := at_ 2
  have p3 : bits N 21 5 = rd.val := at_ 3
  have p4 : bits N 26 6 = 4 := at_ 4
  exact (raw p4).trans (show decodeOp04 N = _ from ((if_neg (differ p0 (by decide))).trans ((if_neg (differ p0 (by decide))).trans ((if_neg (differ p0 (by decide))).trans ((if_neg (differ p0 (by decide))).trans ((if_neg (differ p0 (by decide))).trans ((if_neg (differ p0 (by decide))).trans ((if_neg (differ p0 (by decide))).trans ((if_neg (differ p0 (by decide))).trans ((if_neg (differ p0 (by decide))).trans ((if_neg (differ p0 (by decide))).trans ((if_neg (differ p0 (by decide))).trans ((if_neg (differ p0 (by decide))).trans ((if_neg (differ p0 (by decide))).trans ((if_neg (differ p0 (by decide))).trans ((if_neg (differ p0 (by decide))).trans ((if_neg (differ p0 (by decide))).trans ((if_neg (differ p0 (by decide))).trans ((if_neg (differ p0 (by decide))).trans ((if_neg (differ p0 (by decide))).trans ((if_pos p0).trans (by simp only [p3, p2, p1, back_fin]))))))))))))))))))))))

theorem RoundTrip.max rd ra rb : RoundTrip.Statement (.max rd ra rb) := by
  refine statement_of (l := [(21, 11), (rb.val, 5), (ra.val, 5), (rd.val, 5), (4, 6)]) rfl (by simp only [enc, wordOf]; omega) ⟨(by decide), rb.isLt, ra.isLt, rd.isLt, (by decide), trivial⟩ rfl fun N at_ => ?_
  have p0 : bits N 0 11 = 21 := at_ 0
  have p1 : bits N 11 5 = rb.val := at_ 1
  have p2 : bits N 16 5 = ra.val := at_ 2
  have p3 : bits N 21 5 = rd.val := at_ 3
  have p4 : bits N 26 6 = 4 := at_ 4
  exact (raw p4).trans (show decodeOp04 N = _ from ((if_neg (differ p0 (by decide))).trans ((if_neg (differ p0 (by decide))).trans ((if_neg (differ p0 (by decide))).trans ((if_neg (differ p0 (by decide))).trans ((if_neg (differ p0 (by decide))).trans ((if_neg (differ p0 (by decide))).trans ((if_neg (differ p0 (by decide))).trans ((if_neg (differ p0 (by decide))).trans ((if_neg (differ p0 (by decide))).trans ((if_neg (differ p0 (by decide))).trans ((if_neg (differ p0 (by decide))).trans ((if_neg (differ p0 (by decide))).trans ((if_neg (differ p0 (by decide))).trans ((if_neg (differ p0 (by decide))).trans ((if_neg (differ p0 (by decide))).trans ((if_neg (differ p0 (by decide))).trans ((if_neg (differ p0 (by decide))).trans ((if_neg (differ p0 (by decide))).trans ((if_neg (differ p0 (by decide))).trans ((if_neg (differ p0 (by decide))).trans ((if_pos p0).trans (by simp only [p3, p2, p1, back_fin])))))))))))))))))))))))

theorem RoundTrip.minu rd ra rb : RoundTrip.Statement (.minu rd ra rb) := by
  refine statement_of (l := [(22, 11), (rb.val, 5), (ra.val, 5), (rd.val, 5), (4, 6)]) rfl (by simp only [enc, wordOf]; omega) ⟨(by decide), rb.isLt, ra.isLt, rd.isLt, (by decide), trivial⟩ rfl fun N at_ => ?_
  have p0 : bits N 0 11 = 22 := at_ 0
  have p1 : bits N 11 5 = rb.val := at_ 1
  have p2 : bits N 16 5 = ra.val := at_ 2
  have p3 : bits N 21 5 = rd.val := at_ 3
  have p4 : bits N 26 6 = 4 := at_ 4
  exact (raw p4).trans (show decodeOp04 N = _ from ((if_neg (differ p0 (by decide))).trans ((if_neg (differ p0 (by decide))).trans ((if_neg (differ p0 (by decide))).trans ((if_neg (differ p0 (by decide))).trans ((if_neg (differ p0 (by decide))).trans ((if_neg (differ p0 (by decide))).trans ((if_neg (differ p0 (by decide))).trans ((if_neg (differ p0 (by decide))).trans ((if_neg (differ p0 (by decide))).trans ((if_neg (differ p0 (by decide))).trans ((if_neg (differ p0 (by decide))).trans ((if_neg (differ p0 (by decide))).trans ((if_neg (differ p0 (by decide))).trans ((if_neg (differ p0 (by decide))).trans ((if_neg (differ p0 (by decide))).trans ((if_neg (differ p0 (by decide))).trans ((if_neg (differ p0 (by decide))).trans ((if_neg (differ p0 (by decide))).trans ((if_neg (differ p0 (by decide))).trans ((if_neg (differ p0 (by decide))).trans ((if_neg (differ p0 (by decide))).trans ((if_pos p0).trans (by simp only [p3, p2, p1, back_fin]))))))))))))))))))))))))

theorem RoundTrip.maxu rd ra rb : RoundTrip.Statement (.maxu rd ra rb) := by
  refine statement_of (l := [(23, 11), (rb.val, 5), (ra.val, 5), (rd.val, 5), (4, 6)]) rfl (by simp only [enc, wordOf]; omega) ⟨(by decide), rb.isLt, ra.isLt, rd.isLt, (by decide), trivial⟩ rfl fun N at_ => ?_
  have p0 : bits N 0 11 = 23 := at_ 0
  have p1 : bits N 11 5 = rb.val := at_ 1
  have p2 : bits N 16 5 = ra.val := at_ 2
  have p3 : bits N 21 5 = rd.val := at_ 3
  have p4 : bits N 26 6 = 4 := at_ 4
  exact (raw p4).trans (show decodeOp04 N = _ from ((if_neg (differ p0 (by decide))).trans ((if_neg (differ p0 (by decide))).trans ((if_neg (differ p0 (by decide))).trans ((if_neg (differ p0 (by decide))).trans ((if_neg (differ p0 (by decide))).trans ((if_neg (differ p0 (by decide))).trans ((if_neg (differ p0 (by decide))).trans ((if_neg (differ p0 (by decide))).trans ((if_neg (differ p0 (by decide))).trans ((if_neg (differ p0 (by decide))).trans ((if_neg (differ p0 (by decide))).trans ((if_neg (differ p0 (by decide))).trans ((if_neg (differ p0 (by decide))).trans ((if_neg (differ p0 (by decide))).trans ((if_neg (differ p0 (by decide))).trans ((if_neg (differ p0 (by decide))).trans ((if_neg (differ p0 (by decide))).trans ((if_neg (differ p0 (by decide))).trans ((if_neg (differ p0 (by decide))).trans ((if_neg (differ p0 (by decide))).trans ((if_neg (differ p0 (by decide))).trans ((if_neg (differ p0 (by decide))).trans ((if_pos p0).trans (by simp only [p3, p2, p1, back_fin])))))))))))))))))))))))))

theorem RoundTrip.selnz rd ra rb : RoundTrip.Statement (.selnz rd ra rb) := by
  refine statement_of (l := [(24, 11), (rb.val, 5), (ra.val, 5), (rd.val, 5), (4, 6)]) rfl (by simp only [enc, wordOf]; omega) ⟨(by decide), rb.isLt, ra.isLt, rd.isLt, (by decide), trivial⟩ rfl fun N at_ => ?_
  have p0 : bits N 0 11 = 24 := at_ 0
  have p1 : bits N 11 5 = rb.val := at_ 1
  have p2 : bits N 16 5 = ra.val := at_ 2
  have p3 : bits N 21 5 = rd.val := at_ 3
  have p4 : bits N 26 6 = 4 := at_ 4
  exact (raw p4).trans (show decodeOp04 N = _ from ((if_neg (differ p0 (by decide))).trans ((if_neg (differ p0 (by decide))).trans ((if_neg (differ p0 (by decide))).trans ((if_neg (differ p0 (by decide))).trans ((if_neg (differ p0 (by decide))).trans ((if_neg (differ p0 (by decide))).trans ((if_neg (differ p0 (by decide))).trans ((if_neg (differ p0 (by decide))).trans ((if_neg (differ p0 (by decide))).trans ((if_neg (differ p0 (by decide))).trans ((if_neg (differ p0 (by decide))).trans ((if_neg (differ p0 (by decide))).trans ((if_neg (differ p0 (by decide))).trans ((if_neg (differ p0 (by decide))).trans ((if_neg (differ p0 (by decide))).trans ((if_neg (differ p0 (by decide))).trans ((if_neg (differ p0 (by decide))).trans ((if_neg (differ p0 (by decide))).trans ((if_neg (differ p0 (by decide))).trans ((if_neg (differ p0 (by decide))).trans ((if_neg (differ p0 (by decide))).trans ((if_neg (differ p0 (by decide))).trans ((if_neg (differ p0 (by decide))).trans ((if_pos p0).trans (by simp only [p3, p2, p1, back_fin]))))))))))))))))))))))))))

theorem RoundTrip.selz rd ra rb : RoundTrip.Statement (.selz rd ra rb) := by
  refine statement_of (l := [(25, 11), (rb.val, 5), (ra.val, 5), (rd.val, 5), (4, 6)]) rfl (by simp only [enc, wordOf]; omega) ⟨(by decide), rb.isLt, ra.isLt, rd.isLt, (by decide), trivial⟩ rfl fun N at_ => ?_
  have p0 : bits N 0 11 = 25 := at_ 0
  have p1 : bits N 11 5 = rb.val := at_ 1
  have p2 : bits N 16 5 = ra.val := at_ 2
  have p3 : bits N 21 5 = rd.val := at_ 3
  have p4 : bits N 26 6 = 4 := at_ 4
  exact (raw p4).trans (show decodeOp04 N = _ from ((if_neg (differ p0 (by decide))).trans ((if_neg (differ p0 (by decide))).trans ((if_neg (differ p0 (by decide))).trans ((if_neg (differ p0 (by decide))).trans ((if_neg (differ p0 (by decide))).trans ((if_neg (differ p0 (by decide))).trans ((if_neg (differ p0 (by decide))).trans ((if_neg (differ p0 (by decide))).trans ((if_neg (differ p0 (by decide))).trans ((if_neg (differ p0 (by decide))).trans ((if_neg (differ p0 (by decide))).trans ((if_neg (differ p0 (by decide))).trans ((if_neg (differ p0 (by decide))).trans ((if_neg (differ p0 (by decide))).trans ((if_neg (differ p0 (by decide))).trans ((if_neg (differ p0 (by decide))).trans ((if_neg (differ p0 (by decide))).trans ((if_neg (differ p0 (by decide))).trans ((if_neg (differ p0 (by decide))).trans ((if_neg (differ p0 (by decide))).trans ((if_neg (differ p0 (by decide))).trans ((if_neg (differ p0 (by decide))).trans ((if_neg (differ p0 (by decide))).trans ((if_neg (differ p0 (by decide))).trans ((if_pos p0).trans (by simp only [p3, p2, p1, back_fin])))))))))))))))))))))))))))

theorem RoundTrip.shadd1 rd ra rb : RoundTrip.Statement (.shadd1 rd ra rb) := by
  refine statement_of (l := [(26, 11), (rb.val, 5), (ra.val, 5), (rd.val, 5), (4, 6)]) rfl (by simp only [enc, wordOf]; omega) ⟨(by decide), rb.isLt, ra.isLt, rd.isLt, (by decide), trivial⟩ rfl fun N at_ => ?_
  have p0 : bits N 0 11 = 26 := at_ 0
  have p1 : bits N 11 5 = rb.val := at_ 1
  have p2 : bits N 16 5 = ra.val := at_ 2
  have p3 : bits N 21 5 = rd.val := at_ 3
  have p4 : bits N 26 6 = 4 := at_ 4
  exact (raw p4).trans (show decodeOp04 N = _ from ((if_neg (differ p0 (by decide))).trans ((if_neg (differ p0 (by decide))).trans ((if_neg (differ p0 (by decide))).trans ((if_neg (differ p0 (by decide))).trans ((if_neg (differ p0 (by decide))).trans ((if_neg (differ p0 (by decide))).trans ((if_neg (differ p0 (by decide))).trans ((if_neg (differ p0 (by decide))).trans ((if_neg (differ p0 (by decide))).trans ((if_neg (differ p0 (by decide))).trans ((if_neg (differ p0 (by decide))).trans ((if_neg (differ p0 (by decide))).trans ((if_neg (differ p0 (by decide))).trans ((if_neg (differ p0 (by decide))).trans ((if_neg (differ p0 (by decide))).trans ((if_neg (differ p0 (by decide))).trans ((if_neg (differ p0 (by decide))).trans ((if_neg (differ p0 (by decide))).trans ((if_neg (differ p0 (by decide))).trans ((if_neg (differ p0 (by decide))).trans ((if_neg (differ p0 (by decide))).trans ((if_neg (differ p0 (by decide))).trans ((if_neg (differ p0 (by decide))).trans ((if_neg (differ p0 (by decide))).trans ((if_neg (differ p0 (by decide))).trans ((if_pos p0).trans (by simp only [p3, p2, p1, back_fin]))))))))))))))))))))))))))))

theorem RoundTrip.shadd2 rd ra rb : RoundTrip.Statement (.shadd2 rd ra rb) := by
  refine statement_of (l := [(27, 11), (rb.val, 5), (ra.val, 5), (rd.val, 5), (4, 6)]) rfl (by simp only [enc, wordOf]; omega) ⟨(by decide), rb.isLt, ra.isLt, rd.isLt, (by decide), trivial⟩ rfl fun N at_ => ?_
  have p0 : bits N 0 11 = 27 := at_ 0
  have p1 : bits N 11 5 = rb.val := at_ 1
  have p2 : bits N 16 5 = ra.val := at_ 2
  have p3 : bits N 21 5 = rd.val := at_ 3
  have p4 : bits N 26 6 = 4 := at_ 4
  exact (raw p4).trans (show decodeOp04 N = _ from ((if_neg (differ p0 (by decide))).trans ((if_neg (differ p0 (by decide))).trans ((if_neg (differ p0 (by decide))).trans ((if_neg (differ p0 (by decide))).trans ((if_neg (differ p0 (by decide))).trans ((if_neg (differ p0 (by decide))).trans ((if_neg (differ p0 (by decide))).trans ((if_neg (differ p0 (by decide))).trans ((if_neg (differ p0 (by decide))).trans ((if_neg (differ p0 (by decide))).trans ((if_neg (differ p0 (by decide))).trans ((if_neg (differ p0 (by decide))).trans ((if_neg (differ p0 (by decide))).trans ((if_neg (differ p0 (by decide))).trans ((if_neg (differ p0 (by decide))).trans ((if_neg (differ p0 (by decide))).trans ((if_neg (differ p0 (by decide))).trans ((if_neg (differ p0 (by decide))).trans ((if_neg (differ p0 (by decide))).trans ((if_neg (differ p0 (by decide))).trans ((if_neg (differ p0 (by decide))).trans ((if_neg (differ p0 (by decide))).trans ((if_neg (differ p0 (by decide))).trans ((if_neg (differ p0 (by decide))).trans ((if_neg (differ p0 (by decide))).trans ((if_neg (differ p0 (by decide))).trans ((if_pos p0).trans (by simp only [p3, p2, p1, back_fin])))))))))))))))))))))))))))))

theorem RoundTrip.shadd3 rd ra rb : RoundTrip.Statement (.shadd3 rd ra rb) := by
  refine statement_of (l := [(28, 11), (rb.val, 5), (ra.val, 5), (rd.val, 5), (4, 6)]) rfl (by simp only [enc, wordOf]; omega) ⟨(by decide), rb.isLt, ra.isLt, rd.isLt, (by decide), trivial⟩ rfl fun N at_ => ?_
  have p0 : bits N 0 11 = 28 := at_ 0
  have p1 : bits N 11 5 = rb.val := at_ 1
  have p2 : bits N 16 5 = ra.val := at_ 2
  have p3 : bits N 21 5 = rd.val := at_ 3
  have p4 : bits N 26 6 = 4 := at_ 4
  exact (raw p4).trans (show decodeOp04 N = _ from ((if_neg (differ p0 (by decide))).trans ((if_neg (differ p0 (by decide))).trans ((if_neg (differ p0 (by decide))).trans ((if_neg (differ p0 (by decide))).trans ((if_neg (differ p0 (by decide))).trans ((if_neg (differ p0 (by decide))).trans ((if_neg (differ p0 (by decide))).trans ((if_neg (differ p0 (by decide))).trans ((if_neg (differ p0 (by decide))).trans ((if_neg (differ p0 (by decide))).trans ((if_neg (differ p0 (by decide))).trans ((if_neg (differ p0 (by decide))).trans ((if_neg (differ p0 (by decide))).trans ((if_neg (differ p0 (by decide))).trans ((if_neg (differ p0 (by decide))).trans ((if_neg (differ p0 (by decide))).trans ((if_neg (differ p0 (by decide))).trans ((if_neg (differ p0 (by decide))).trans ((if_neg (differ p0 (by decide))).trans ((if_neg (differ p0 (by decide))).trans ((if_neg (differ p0 (by decide))).trans ((if_neg (differ p0 (by decide))).trans ((if_neg (differ p0 (by decide))).trans ((if_neg (differ p0 (by decide))).trans ((if_neg (differ p0 (by decide))).trans ((if_neg (differ p0 (by decide))).trans ((if_neg (differ p0 (by decide))).trans ((if_pos p0).trans (by simp only [p3, p2, p1, back_fin]))))))))))))))))))))))))))))))

theorem RoundTrip.shadd4 rd ra rb : RoundTrip.Statement (.shadd4 rd ra rb) := by
  refine statement_of (l := [(29, 11), (rb.val, 5), (ra.val, 5), (rd.val, 5), (4, 6)]) rfl (by simp only [enc, wordOf]; omega) ⟨(by decide), rb.isLt, ra.isLt, rd.isLt, (by decide), trivial⟩ rfl fun N at_ => ?_
  have p0 : bits N 0 11 = 29 := at_ 0
  have p1 : bits N 11 5 = rb.val := at_ 1
  have p2 : bits N 16 5 = ra.val := at_ 2
  have p3 : bits N 21 5 = rd.val := at_ 3
  have p4 : bits N 26 6 = 4 := at_ 4
  exact (raw p4).trans (show decodeOp04 N = _ from ((if_neg (differ p0 (by decide))).trans ((if_neg (differ p0 (by decide))).trans ((if_neg (differ p0 (by decide))).trans ((if_neg (differ p0 (by decide))).trans ((if_neg (differ p0 (by decide))).trans ((if_neg (differ p0 (by decide))).trans ((if_neg (differ p0 (by decide))).trans ((if_neg (differ p0 (by decide))).trans ((if_neg (differ p0 (by decide))).trans ((if_neg (differ p0 (by decide))).trans ((if_neg (differ p0 (by decide))).trans ((if_neg (differ p0 (by decide))).trans ((if_neg (differ p0 (by decide))).trans ((if_neg (differ p0 (by decide))).trans ((if_neg (differ p0 (by decide))).trans ((if_neg (differ p0 (by decide))).trans ((if_neg (differ p0 (by decide))).trans ((if_neg (differ p0 (by decide))).trans ((if_neg (differ p0 (by decide))).trans ((if_neg (differ p0 (by decide))).trans ((if_neg (differ p0 (by decide))).trans ((if_neg (differ p0 (by decide))).trans ((if_neg (differ p0 (by decide))).trans ((if_neg (differ p0 (by decide))).trans ((if_neg (differ p0 (by decide))).trans ((if_neg (differ p0 (by decide))).trans ((if_neg (differ p0 (by decide))).trans ((if_neg (differ p0 (by decide))).trans ((if_pos p0).trans (by simp only [p3, p2, p1, back_fin])))))))))))))))))))))))))))))))

theorem RoundTrip.mul rd ra rb : RoundTrip.Statement (.mul rd ra rb) := by
  refine statement_of (l := [(32, 11), (rb.val, 5), (ra.val, 5), (rd.val, 5), (4, 6)]) rfl (by simp only [enc, wordOf]; omega) ⟨(by decide), rb.isLt, ra.isLt, rd.isLt, (by decide), trivial⟩ rfl fun N at_ => ?_
  have p0 : bits N 0 11 = 32 := at_ 0
  have p1 : bits N 11 5 = rb.val := at_ 1
  have p2 : bits N 16 5 = ra.val := at_ 2
  have p3 : bits N 21 5 = rd.val := at_ 3
  have p4 : bits N 26 6 = 4 := at_ 4
  exact (raw p4).trans (show decodeOp04 N = _ from ((if_neg (differ p0 (by decide))).trans ((if_neg (differ p0 (by decide))).trans ((if_neg (differ p0 (by decide))).trans ((if_neg (differ p0 (by decide))).trans ((if_neg (differ p0 (by decide))).trans ((if_neg (differ p0 (by decide))).trans ((if_neg (differ p0 (by decide))).trans ((if_neg (differ p0 (by decide))).trans ((if_neg (differ p0 (by decide))).trans ((if_neg (differ p0 (by decide))).trans ((if_neg (differ p0 (by decide))).trans ((if_neg (differ p0 (by decide))).trans ((if_neg (differ p0 (by decide))).trans ((if_neg (differ p0 (by decide))).trans ((if_neg (differ p0 (by decide))).trans ((if_neg (differ p0 (by decide))).trans ((if_neg (differ p0 (by decide))).trans ((if_neg (differ p0 (by decide))).trans ((if_neg (differ p0 (by decide))).trans ((if_neg (differ p0 (by decide))).trans ((if_neg (differ p0 (by decide))).trans ((if_neg (differ p0 (by decide))).trans ((if_neg (differ p0 (by decide))).trans ((if_neg (differ p0 (by decide))).trans ((if_neg (differ p0 (by decide))).trans ((if_neg (differ p0 (by decide))).trans ((if_neg (differ p0 (by decide))).trans ((if_neg (differ p0 (by decide))).trans ((if_neg (differ p0 (by decide))).trans ((if_pos p0).trans (by simp only [p3, p2, p1, back_fin]))))))))))))))))))))))))))))))))

theorem RoundTrip.mulh rd ra rb : RoundTrip.Statement (.mulh rd ra rb) := by
  refine statement_of (l := [(33, 11), (rb.val, 5), (ra.val, 5), (rd.val, 5), (4, 6)]) rfl (by simp only [enc, wordOf]; omega) ⟨(by decide), rb.isLt, ra.isLt, rd.isLt, (by decide), trivial⟩ rfl fun N at_ => ?_
  have p0 : bits N 0 11 = 33 := at_ 0
  have p1 : bits N 11 5 = rb.val := at_ 1
  have p2 : bits N 16 5 = ra.val := at_ 2
  have p3 : bits N 21 5 = rd.val := at_ 3
  have p4 : bits N 26 6 = 4 := at_ 4
  exact (raw p4).trans (show decodeOp04 N = _ from ((if_neg (differ p0 (by decide))).trans ((if_neg (differ p0 (by decide))).trans ((if_neg (differ p0 (by decide))).trans ((if_neg (differ p0 (by decide))).trans ((if_neg (differ p0 (by decide))).trans ((if_neg (differ p0 (by decide))).trans ((if_neg (differ p0 (by decide))).trans ((if_neg (differ p0 (by decide))).trans ((if_neg (differ p0 (by decide))).trans ((if_neg (differ p0 (by decide))).trans ((if_neg (differ p0 (by decide))).trans ((if_neg (differ p0 (by decide))).trans ((if_neg (differ p0 (by decide))).trans ((if_neg (differ p0 (by decide))).trans ((if_neg (differ p0 (by decide))).trans ((if_neg (differ p0 (by decide))).trans ((if_neg (differ p0 (by decide))).trans ((if_neg (differ p0 (by decide))).trans ((if_neg (differ p0 (by decide))).trans ((if_neg (differ p0 (by decide))).trans ((if_neg (differ p0 (by decide))).trans ((if_neg (differ p0 (by decide))).trans ((if_neg (differ p0 (by decide))).trans ((if_neg (differ p0 (by decide))).trans ((if_neg (differ p0 (by decide))).trans ((if_neg (differ p0 (by decide))).trans ((if_neg (differ p0 (by decide))).trans ((if_neg (differ p0 (by decide))).trans ((if_neg (differ p0 (by decide))).trans ((if_neg (differ p0 (by decide))).trans ((if_pos p0).trans (by simp only [p3, p2, p1, back_fin])))))))))))))))))))))))))))))))))

theorem RoundTrip.mulhu rd ra rb : RoundTrip.Statement (.mulhu rd ra rb) := by
  refine statement_of (l := [(34, 11), (rb.val, 5), (ra.val, 5), (rd.val, 5), (4, 6)]) rfl (by simp only [enc, wordOf]; omega) ⟨(by decide), rb.isLt, ra.isLt, rd.isLt, (by decide), trivial⟩ rfl fun N at_ => ?_
  have p0 : bits N 0 11 = 34 := at_ 0
  have p1 : bits N 11 5 = rb.val := at_ 1
  have p2 : bits N 16 5 = ra.val := at_ 2
  have p3 : bits N 21 5 = rd.val := at_ 3
  have p4 : bits N 26 6 = 4 := at_ 4
  exact (raw p4).trans (show decodeOp04 N = _ from ((if_neg (differ p0 (by decide))).trans ((if_neg (differ p0 (by decide))).trans ((if_neg (differ p0 (by decide))).trans ((if_neg (differ p0 (by decide))).trans ((if_neg (differ p0 (by decide))).trans ((if_neg (differ p0 (by decide))).trans ((if_neg (differ p0 (by decide))).trans ((if_neg (differ p0 (by decide))).trans ((if_neg (differ p0 (by decide))).trans ((if_neg (differ p0 (by decide))).trans ((if_neg (differ p0 (by decide))).trans ((if_neg (differ p0 (by decide))).trans ((if_neg (differ p0 (by decide))).trans ((if_neg (differ p0 (by decide))).trans ((if_neg (differ p0 (by decide))).trans ((if_neg (differ p0 (by decide))).trans ((if_neg (differ p0 (by decide))).trans ((if_neg (differ p0 (by decide))).trans ((if_neg (differ p0 (by decide))).trans ((if_neg (differ p0 (by decide))).trans ((if_neg (differ p0 (by decide))).trans ((if_neg (differ p0 (by decide))).trans ((if_neg (differ p0 (by decide))).trans ((if_neg (differ p0 (by decide))).trans ((if_neg (differ p0 (by decide))).trans ((if_neg (differ p0 (by decide))).trans ((if_neg (differ p0 (by decide))).trans ((if_neg (differ p0 (by decide))).trans ((if_neg (differ p0 (by decide))).trans ((if_neg (differ p0 (by decide))).trans ((if_neg (differ p0 (by decide))).trans ((if_pos p0).trans (by simp only [p3, p2, p1, back_fin]))))))))))))))))))))))))))))))))))

theorem RoundTrip.mulw rd ra rb : RoundTrip.Statement (.mulw rd ra rb) := by
  refine statement_of (l := [(35, 11), (rb.val, 5), (ra.val, 5), (rd.val, 5), (4, 6)]) rfl (by simp only [enc, wordOf]; omega) ⟨(by decide), rb.isLt, ra.isLt, rd.isLt, (by decide), trivial⟩ rfl fun N at_ => ?_
  have p0 : bits N 0 11 = 35 := at_ 0
  have p1 : bits N 11 5 = rb.val := at_ 1
  have p2 : bits N 16 5 = ra.val := at_ 2
  have p3 : bits N 21 5 = rd.val := at_ 3
  have p4 : bits N 26 6 = 4 := at_ 4
  exact (raw p4).trans (show decodeOp04 N = _ from ((if_neg (differ p0 (by decide))).trans ((if_neg (differ p0 (by decide))).trans ((if_neg (differ p0 (by decide))).trans ((if_neg (differ p0 (by decide))).trans ((if_neg (differ p0 (by decide))).trans ((if_neg (differ p0 (by decide))).trans ((if_neg (differ p0 (by decide))).trans ((if_neg (differ p0 (by decide))).trans ((if_neg (differ p0 (by decide))).trans ((if_neg (differ p0 (by decide))).trans ((if_neg (differ p0 (by decide))).trans ((if_neg (differ p0 (by decide))).trans ((if_neg (differ p0 (by decide))).trans ((if_neg (differ p0 (by decide))).trans ((if_neg (differ p0 (by decide))).trans ((if_neg (differ p0 (by decide))).trans ((if_neg (differ p0 (by decide))).trans ((if_neg (differ p0 (by decide))).trans ((if_neg (differ p0 (by decide))).trans ((if_neg (differ p0 (by decide))).trans ((if_neg (differ p0 (by decide))).trans ((if_neg (differ p0 (by decide))).trans ((if_neg (differ p0 (by decide))).trans ((if_neg (differ p0 (by decide))).trans ((if_neg (differ p0 (by decide))).trans ((if_neg (differ p0 (by decide))).trans ((if_neg (differ p0 (by decide))).trans ((if_neg (differ p0 (by decide))).trans ((if_neg (differ p0 (by decide))).trans ((if_neg (differ p0 (by decide))).trans ((if_neg (differ p0 (by decide))).trans ((if_neg (differ p0 (by decide))).trans ((if_pos p0).trans (by simp only [p3, p2, p1, back_fin])))))))))))))))))))))))))))))))))))

theorem RoundTrip.div rd ra rb la : RoundTrip.Statement (.div rd ra rb la) := by
  refine statement_of (l := [(40, 7), (la.val, 4), (rb.val, 5), (ra.val, 5), (rd.val, 5), (4, 6)]) rfl (by simp only [enc, wordOf]; omega) ⟨(by decide), la.isLt, rb.isLt, ra.isLt, rd.isLt, (by decide), trivial⟩ rfl fun N at_ => ?_
  have p0 : bits N 0 7 = 40 := at_ 0
  have p1 : bits N 7 4 = la.val := at_ 1
  have p2 : bits N 11 5 = rb.val := at_ 2
  have p3 : bits N 16 5 = ra.val := at_ 3
  have p4 : bits N 21 5 = rd.val := at_ 4
  have p5 : bits N 26 6 = 4 := at_ 5
  have h0 : bits N 0 11 ≠ 0 := by rw [bits_join N 0 7 4, p0, p1]; omega
  have h1 : bits N 0 11 ≠ 1 := by rw [bits_join N 0 7 4, p0, p1]; omega
  have h2 : bits N 0 11 ≠ 2 := by rw [bits_join N 0 7 4, p0, p1]; omega
  have h3 : bits N 0 11 ≠ 3 := by rw [bits_join N 0 7 4, p0, p1]; omega
  have h4 : bits N 0 11 ≠ 4 := by rw [bits_join N 0 7 4, p0, p1]; omega
  have h5 : bits N 0 11 ≠ 5 := by rw [bits_join N 0 7 4, p0, p1]; omega
  have h6 : bits N 0 11 ≠ 6 := by rw [bits_join N 0 7 4, p0, p1]; omega
  have h7 : bits N 0 11 ≠ 7 := by rw [bits_join N 0 7 4, p0, p1]; omega
  have h8 : bits N 0 11 ≠ 8 := by rw [bits_join N 0 7 4, p0, p1]; omega
  have h9 : bits N 0 11 ≠ 9 := by rw [bits_join N 0 7 4, p0, p1]; omega
  have h10 : bits N 0 11 ≠ 10 := by rw [bits_join N 0 7 4, p0, p1]; omega
  have h11 : bits N 0 11 ≠ 11 := by rw [bits_join N 0 7 4, p0, p1]; omega
  have h12 : bits N 0 11 ≠ 12 := by rw [bits_join N 0 7 4, p0, p1]; omega
  have h13 : bits N 0 11 ≠ 13 := by rw [bits_join N 0 7 4, p0, p1]; omega
  have h14 : bits N 0 11 ≠ 14 := by rw [bits_join N 0 7 4, p0, p1]; omega
  have h15 : bits N 0 11 ≠ 16 := by rw [bits_join N 0 7 4, p0, p1]; omega
  have h16 : bits N 0 11 ≠ 17 := by rw [bits_join N 0 7 4, p0, p1]; omega
  have h17 : bits N 0 11 ≠ 18 := by rw [bits_join N 0 7 4, p0, p1]; omega
  have h18 : bits N 0 11 ≠ 19 := by rw [bits_join N 0 7 4, p0, p1]; omega
  have h19 : bits N 0 11 ≠ 20 := by rw [bits_join N 0 7 4, p0, p1]; omega
  have h20 : bits N 0 11 ≠ 21 := by rw [bits_join N 0 7 4, p0, p1]; omega
  have h21 : bits N 0 11 ≠ 22 := by rw [bits_join N 0 7 4, p0, p1]; omega
  have h22 : bits N 0 11 ≠ 23 := by rw [bits_join N 0 7 4, p0, p1]; omega
  have h23 : bits N 0 11 ≠ 24 := by rw [bits_join N 0 7 4, p0, p1]; omega
  have h24 : bits N 0 11 ≠ 25 := by rw [bits_join N 0 7 4, p0, p1]; omega
  have h25 : bits N 0 11 ≠ 26 := by rw [bits_join N 0 7 4, p0, p1]; omega
  have h26 : bits N 0 11 ≠ 27 := by rw [bits_join N 0 7 4, p0, p1]; omega
  have h27 : bits N 0 11 ≠ 28 := by rw [bits_join N 0 7 4, p0, p1]; omega
  have h28 : bits N 0 11 ≠ 29 := by rw [bits_join N 0 7 4, p0, p1]; omega
  have h29 : bits N 0 11 ≠ 32 := by rw [bits_join N 0 7 4, p0, p1]; omega
  have h30 : bits N 0 11 ≠ 33 := by rw [bits_join N 0 7 4, p0, p1]; omega
  have h31 : bits N 0 11 ≠ 34 := by rw [bits_join N 0 7 4, p0, p1]; omega
  have h32 : bits N 0 11 ≠ 35 := by rw [bits_join N 0 7 4, p0, p1]; omega
  exact (raw p5).trans (show decodeOp04 N = _ from ((if_neg (h0)).trans ((if_neg (h1)).trans ((if_neg (h2)).trans ((if_neg (h3)).trans ((if_neg (h4)).trans ((if_neg (h5)).trans ((if_neg (h6)).trans ((if_neg (h7)).trans ((if_neg (h8)).trans ((if_neg (h9)).trans ((if_neg (h10)).trans ((if_neg (h11)).trans ((if_neg (h12)).trans ((if_neg (h13)).trans ((if_neg (h14)).trans ((if_neg (h15)).trans ((if_neg (h16)).trans ((if_neg (h17)).trans ((if_neg (h18)).trans ((if_neg (h19)).trans ((if_neg (h20)).trans ((if_neg (h21)).trans ((if_neg (h22)).trans ((if_neg (h23)).trans ((if_neg (h24)).trans ((if_neg (h25)).trans ((if_neg (h26)).trans ((if_neg (h27)).trans ((if_neg (h28)).trans ((if_neg (h29)).trans ((if_neg (h30)).trans ((if_neg (h31)).trans ((if_neg (h32)).trans ((if_pos p0).trans (by simp only [p4, p3, p2, p1, back_fin]))))))))))))))))))))))))))))))))))))

theorem RoundTrip.divu rd ra rb la : RoundTrip.Statement (.divu rd ra rb la) := by
  refine statement_of (l := [(41, 7), (la.val, 4), (rb.val, 5), (ra.val, 5), (rd.val, 5), (4, 6)]) rfl (by simp only [enc, wordOf]; omega) ⟨(by decide), la.isLt, rb.isLt, ra.isLt, rd.isLt, (by decide), trivial⟩ rfl fun N at_ => ?_
  have p0 : bits N 0 7 = 41 := at_ 0
  have p1 : bits N 7 4 = la.val := at_ 1
  have p2 : bits N 11 5 = rb.val := at_ 2
  have p3 : bits N 16 5 = ra.val := at_ 3
  have p4 : bits N 21 5 = rd.val := at_ 4
  have p5 : bits N 26 6 = 4 := at_ 5
  have h0 : bits N 0 11 ≠ 0 := by rw [bits_join N 0 7 4, p0, p1]; omega
  have h1 : bits N 0 11 ≠ 1 := by rw [bits_join N 0 7 4, p0, p1]; omega
  have h2 : bits N 0 11 ≠ 2 := by rw [bits_join N 0 7 4, p0, p1]; omega
  have h3 : bits N 0 11 ≠ 3 := by rw [bits_join N 0 7 4, p0, p1]; omega
  have h4 : bits N 0 11 ≠ 4 := by rw [bits_join N 0 7 4, p0, p1]; omega
  have h5 : bits N 0 11 ≠ 5 := by rw [bits_join N 0 7 4, p0, p1]; omega
  have h6 : bits N 0 11 ≠ 6 := by rw [bits_join N 0 7 4, p0, p1]; omega
  have h7 : bits N 0 11 ≠ 7 := by rw [bits_join N 0 7 4, p0, p1]; omega
  have h8 : bits N 0 11 ≠ 8 := by rw [bits_join N 0 7 4, p0, p1]; omega
  have h9 : bits N 0 11 ≠ 9 := by rw [bits_join N 0 7 4, p0, p1]; omega
  have h10 : bits N 0 11 ≠ 10 := by rw [bits_join N 0 7 4, p0, p1]; omega
  have h11 : bits N 0 11 ≠ 11 := by rw [bits_join N 0 7 4, p0, p1]; omega
  have h12 : bits N 0 11 ≠ 12 := by rw [bits_join N 0 7 4, p0, p1]; omega
  have h13 : bits N 0 11 ≠ 13 := by rw [bits_join N 0 7 4, p0, p1]; omega
  have h14 : bits N 0 11 ≠ 14 := by rw [bits_join N 0 7 4, p0, p1]; omega
  have h15 : bits N 0 11 ≠ 16 := by rw [bits_join N 0 7 4, p0, p1]; omega
  have h16 : bits N 0 11 ≠ 17 := by rw [bits_join N 0 7 4, p0, p1]; omega
  have h17 : bits N 0 11 ≠ 18 := by rw [bits_join N 0 7 4, p0, p1]; omega
  have h18 : bits N 0 11 ≠ 19 := by rw [bits_join N 0 7 4, p0, p1]; omega
  have h19 : bits N 0 11 ≠ 20 := by rw [bits_join N 0 7 4, p0, p1]; omega
  have h20 : bits N 0 11 ≠ 21 := by rw [bits_join N 0 7 4, p0, p1]; omega
  have h21 : bits N 0 11 ≠ 22 := by rw [bits_join N 0 7 4, p0, p1]; omega
  have h22 : bits N 0 11 ≠ 23 := by rw [bits_join N 0 7 4, p0, p1]; omega
  have h23 : bits N 0 11 ≠ 24 := by rw [bits_join N 0 7 4, p0, p1]; omega
  have h24 : bits N 0 11 ≠ 25 := by rw [bits_join N 0 7 4, p0, p1]; omega
  have h25 : bits N 0 11 ≠ 26 := by rw [bits_join N 0 7 4, p0, p1]; omega
  have h26 : bits N 0 11 ≠ 27 := by rw [bits_join N 0 7 4, p0, p1]; omega
  have h27 : bits N 0 11 ≠ 28 := by rw [bits_join N 0 7 4, p0, p1]; omega
  have h28 : bits N 0 11 ≠ 29 := by rw [bits_join N 0 7 4, p0, p1]; omega
  have h29 : bits N 0 11 ≠ 32 := by rw [bits_join N 0 7 4, p0, p1]; omega
  have h30 : bits N 0 11 ≠ 33 := by rw [bits_join N 0 7 4, p0, p1]; omega
  have h31 : bits N 0 11 ≠ 34 := by rw [bits_join N 0 7 4, p0, p1]; omega
  have h32 : bits N 0 11 ≠ 35 := by rw [bits_join N 0 7 4, p0, p1]; omega
  exact (raw p5).trans (show decodeOp04 N = _ from ((if_neg (h0)).trans ((if_neg (h1)).trans ((if_neg (h2)).trans ((if_neg (h3)).trans ((if_neg (h4)).trans ((if_neg (h5)).trans ((if_neg (h6)).trans ((if_neg (h7)).trans ((if_neg (h8)).trans ((if_neg (h9)).trans ((if_neg (h10)).trans ((if_neg (h11)).trans ((if_neg (h12)).trans ((if_neg (h13)).trans ((if_neg (h14)).trans ((if_neg (h15)).trans ((if_neg (h16)).trans ((if_neg (h17)).trans ((if_neg (h18)).trans ((if_neg (h19)).trans ((if_neg (h20)).trans ((if_neg (h21)).trans ((if_neg (h22)).trans ((if_neg (h23)).trans ((if_neg (h24)).trans ((if_neg (h25)).trans ((if_neg (h26)).trans ((if_neg (h27)).trans ((if_neg (h28)).trans ((if_neg (h29)).trans ((if_neg (h30)).trans ((if_neg (h31)).trans ((if_neg (h32)).trans ((if_neg (differ p0 (by decide))).trans ((if_pos p0).trans (by simp only [p4, p3, p2, p1, back_fin])))))))))))))))))))))))))))))))))))))

theorem RoundTrip.rem rd ra rb la : RoundTrip.Statement (.rem rd ra rb la) := by
  refine statement_of (l := [(42, 7), (la.val, 4), (rb.val, 5), (ra.val, 5), (rd.val, 5), (4, 6)]) rfl (by simp only [enc, wordOf]; omega) ⟨(by decide), la.isLt, rb.isLt, ra.isLt, rd.isLt, (by decide), trivial⟩ rfl fun N at_ => ?_
  have p0 : bits N 0 7 = 42 := at_ 0
  have p1 : bits N 7 4 = la.val := at_ 1
  have p2 : bits N 11 5 = rb.val := at_ 2
  have p3 : bits N 16 5 = ra.val := at_ 3
  have p4 : bits N 21 5 = rd.val := at_ 4
  have p5 : bits N 26 6 = 4 := at_ 5
  have h0 : bits N 0 11 ≠ 0 := by rw [bits_join N 0 7 4, p0, p1]; omega
  have h1 : bits N 0 11 ≠ 1 := by rw [bits_join N 0 7 4, p0, p1]; omega
  have h2 : bits N 0 11 ≠ 2 := by rw [bits_join N 0 7 4, p0, p1]; omega
  have h3 : bits N 0 11 ≠ 3 := by rw [bits_join N 0 7 4, p0, p1]; omega
  have h4 : bits N 0 11 ≠ 4 := by rw [bits_join N 0 7 4, p0, p1]; omega
  have h5 : bits N 0 11 ≠ 5 := by rw [bits_join N 0 7 4, p0, p1]; omega
  have h6 : bits N 0 11 ≠ 6 := by rw [bits_join N 0 7 4, p0, p1]; omega
  have h7 : bits N 0 11 ≠ 7 := by rw [bits_join N 0 7 4, p0, p1]; omega
  have h8 : bits N 0 11 ≠ 8 := by rw [bits_join N 0 7 4, p0, p1]; omega
  have h9 : bits N 0 11 ≠ 9 := by rw [bits_join N 0 7 4, p0, p1]; omega
  have h10 : bits N 0 11 ≠ 10 := by rw [bits_join N 0 7 4, p0, p1]; omega
  have h11 : bits N 0 11 ≠ 11 := by rw [bits_join N 0 7 4, p0, p1]; omega
  have h12 : bits N 0 11 ≠ 12 := by rw [bits_join N 0 7 4, p0, p1]; omega
  have h13 : bits N 0 11 ≠ 13 := by rw [bits_join N 0 7 4, p0, p1]; omega
  have h14 : bits N 0 11 ≠ 14 := by rw [bits_join N 0 7 4, p0, p1]; omega
  have h15 : bits N 0 11 ≠ 16 := by rw [bits_join N 0 7 4, p0, p1]; omega
  have h16 : bits N 0 11 ≠ 17 := by rw [bits_join N 0 7 4, p0, p1]; omega
  have h17 : bits N 0 11 ≠ 18 := by rw [bits_join N 0 7 4, p0, p1]; omega
  have h18 : bits N 0 11 ≠ 19 := by rw [bits_join N 0 7 4, p0, p1]; omega
  have h19 : bits N 0 11 ≠ 20 := by rw [bits_join N 0 7 4, p0, p1]; omega
  have h20 : bits N 0 11 ≠ 21 := by rw [bits_join N 0 7 4, p0, p1]; omega
  have h21 : bits N 0 11 ≠ 22 := by rw [bits_join N 0 7 4, p0, p1]; omega
  have h22 : bits N 0 11 ≠ 23 := by rw [bits_join N 0 7 4, p0, p1]; omega
  have h23 : bits N 0 11 ≠ 24 := by rw [bits_join N 0 7 4, p0, p1]; omega
  have h24 : bits N 0 11 ≠ 25 := by rw [bits_join N 0 7 4, p0, p1]; omega
  have h25 : bits N 0 11 ≠ 26 := by rw [bits_join N 0 7 4, p0, p1]; omega
  have h26 : bits N 0 11 ≠ 27 := by rw [bits_join N 0 7 4, p0, p1]; omega
  have h27 : bits N 0 11 ≠ 28 := by rw [bits_join N 0 7 4, p0, p1]; omega
  have h28 : bits N 0 11 ≠ 29 := by rw [bits_join N 0 7 4, p0, p1]; omega
  have h29 : bits N 0 11 ≠ 32 := by rw [bits_join N 0 7 4, p0, p1]; omega
  have h30 : bits N 0 11 ≠ 33 := by rw [bits_join N 0 7 4, p0, p1]; omega
  have h31 : bits N 0 11 ≠ 34 := by rw [bits_join N 0 7 4, p0, p1]; omega
  have h32 : bits N 0 11 ≠ 35 := by rw [bits_join N 0 7 4, p0, p1]; omega
  exact (raw p5).trans (show decodeOp04 N = _ from ((if_neg (h0)).trans ((if_neg (h1)).trans ((if_neg (h2)).trans ((if_neg (h3)).trans ((if_neg (h4)).trans ((if_neg (h5)).trans ((if_neg (h6)).trans ((if_neg (h7)).trans ((if_neg (h8)).trans ((if_neg (h9)).trans ((if_neg (h10)).trans ((if_neg (h11)).trans ((if_neg (h12)).trans ((if_neg (h13)).trans ((if_neg (h14)).trans ((if_neg (h15)).trans ((if_neg (h16)).trans ((if_neg (h17)).trans ((if_neg (h18)).trans ((if_neg (h19)).trans ((if_neg (h20)).trans ((if_neg (h21)).trans ((if_neg (h22)).trans ((if_neg (h23)).trans ((if_neg (h24)).trans ((if_neg (h25)).trans ((if_neg (h26)).trans ((if_neg (h27)).trans ((if_neg (h28)).trans ((if_neg (h29)).trans ((if_neg (h30)).trans ((if_neg (h31)).trans ((if_neg (h32)).trans ((if_neg (differ p0 (by decide))).trans ((if_neg (differ p0 (by decide))).trans ((if_pos p0).trans (by simp only [p4, p3, p2, p1, back_fin]))))))))))))))))))))))))))))))))))))))

theorem RoundTrip.remu rd ra rb la : RoundTrip.Statement (.remu rd ra rb la) := by
  refine statement_of (l := [(43, 7), (la.val, 4), (rb.val, 5), (ra.val, 5), (rd.val, 5), (4, 6)]) rfl (by simp only [enc, wordOf]; omega) ⟨(by decide), la.isLt, rb.isLt, ra.isLt, rd.isLt, (by decide), trivial⟩ rfl fun N at_ => ?_
  have p0 : bits N 0 7 = 43 := at_ 0
  have p1 : bits N 7 4 = la.val := at_ 1
  have p2 : bits N 11 5 = rb.val := at_ 2
  have p3 : bits N 16 5 = ra.val := at_ 3
  have p4 : bits N 21 5 = rd.val := at_ 4
  have p5 : bits N 26 6 = 4 := at_ 5
  have h0 : bits N 0 11 ≠ 0 := by rw [bits_join N 0 7 4, p0, p1]; omega
  have h1 : bits N 0 11 ≠ 1 := by rw [bits_join N 0 7 4, p0, p1]; omega
  have h2 : bits N 0 11 ≠ 2 := by rw [bits_join N 0 7 4, p0, p1]; omega
  have h3 : bits N 0 11 ≠ 3 := by rw [bits_join N 0 7 4, p0, p1]; omega
  have h4 : bits N 0 11 ≠ 4 := by rw [bits_join N 0 7 4, p0, p1]; omega
  have h5 : bits N 0 11 ≠ 5 := by rw [bits_join N 0 7 4, p0, p1]; omega
  have h6 : bits N 0 11 ≠ 6 := by rw [bits_join N 0 7 4, p0, p1]; omega
  have h7 : bits N 0 11 ≠ 7 := by rw [bits_join N 0 7 4, p0, p1]; omega
  have h8 : bits N 0 11 ≠ 8 := by rw [bits_join N 0 7 4, p0, p1]; omega
  have h9 : bits N 0 11 ≠ 9 := by rw [bits_join N 0 7 4, p0, p1]; omega
  have h10 : bits N 0 11 ≠ 10 := by rw [bits_join N 0 7 4, p0, p1]; omega
  have h11 : bits N 0 11 ≠ 11 := by rw [bits_join N 0 7 4, p0, p1]; omega
  have h12 : bits N 0 11 ≠ 12 := by rw [bits_join N 0 7 4, p0, p1]; omega
  have h13 : bits N 0 11 ≠ 13 := by rw [bits_join N 0 7 4, p0, p1]; omega
  have h14 : bits N 0 11 ≠ 14 := by rw [bits_join N 0 7 4, p0, p1]; omega
  have h15 : bits N 0 11 ≠ 16 := by rw [bits_join N 0 7 4, p0, p1]; omega
  have h16 : bits N 0 11 ≠ 17 := by rw [bits_join N 0 7 4, p0, p1]; omega
  have h17 : bits N 0 11 ≠ 18 := by rw [bits_join N 0 7 4, p0, p1]; omega
  have h18 : bits N 0 11 ≠ 19 := by rw [bits_join N 0 7 4, p0, p1]; omega
  have h19 : bits N 0 11 ≠ 20 := by rw [bits_join N 0 7 4, p0, p1]; omega
  have h20 : bits N 0 11 ≠ 21 := by rw [bits_join N 0 7 4, p0, p1]; omega
  have h21 : bits N 0 11 ≠ 22 := by rw [bits_join N 0 7 4, p0, p1]; omega
  have h22 : bits N 0 11 ≠ 23 := by rw [bits_join N 0 7 4, p0, p1]; omega
  have h23 : bits N 0 11 ≠ 24 := by rw [bits_join N 0 7 4, p0, p1]; omega
  have h24 : bits N 0 11 ≠ 25 := by rw [bits_join N 0 7 4, p0, p1]; omega
  have h25 : bits N 0 11 ≠ 26 := by rw [bits_join N 0 7 4, p0, p1]; omega
  have h26 : bits N 0 11 ≠ 27 := by rw [bits_join N 0 7 4, p0, p1]; omega
  have h27 : bits N 0 11 ≠ 28 := by rw [bits_join N 0 7 4, p0, p1]; omega
  have h28 : bits N 0 11 ≠ 29 := by rw [bits_join N 0 7 4, p0, p1]; omega
  have h29 : bits N 0 11 ≠ 32 := by rw [bits_join N 0 7 4, p0, p1]; omega
  have h30 : bits N 0 11 ≠ 33 := by rw [bits_join N 0 7 4, p0, p1]; omega
  have h31 : bits N 0 11 ≠ 34 := by rw [bits_join N 0 7 4, p0, p1]; omega
  have h32 : bits N 0 11 ≠ 35 := by rw [bits_join N 0 7 4, p0, p1]; omega
  exact (raw p5).trans (show decodeOp04 N = _ from ((if_neg (h0)).trans ((if_neg (h1)).trans ((if_neg (h2)).trans ((if_neg (h3)).trans ((if_neg (h4)).trans ((if_neg (h5)).trans ((if_neg (h6)).trans ((if_neg (h7)).trans ((if_neg (h8)).trans ((if_neg (h9)).trans ((if_neg (h10)).trans ((if_neg (h11)).trans ((if_neg (h12)).trans ((if_neg (h13)).trans ((if_neg (h14)).trans ((if_neg (h15)).trans ((if_neg (h16)).trans ((if_neg (h17)).trans ((if_neg (h18)).trans ((if_neg (h19)).trans ((if_neg (h20)).trans ((if_neg (h21)).trans ((if_neg (h22)).trans ((if_neg (h23)).trans ((if_neg (h24)).trans ((if_neg (h25)).trans ((if_neg (h26)).trans ((if_neg (h27)).trans ((if_neg (h28)).trans ((if_neg (h29)).trans ((if_neg (h30)).trans ((if_neg (h31)).trans ((if_neg (h32)).trans ((if_neg (differ p0 (by decide))).trans ((if_neg (differ p0 (by decide))).trans ((if_neg (differ p0 (by decide))).trans ((if_pos p0).trans (by simp only [p4, p3, p2, p1, back_fin])))))))))))))))))))))))))))))))))))))))

theorem RoundTrip.clz rd ra : RoundTrip.Statement (.clz rd ra) := by
  refine statement_of (l := [(48, 7), (0, 4), (0, 5), (ra.val, 5), (rd.val, 5), (4, 6)]) rfl (by simp only [enc, wordOf]; omega) ⟨(by decide), (by decide), (by decide), ra.isLt, rd.isLt, (by decide), trivial⟩ rfl fun N at_ => ?_
  have p0 : bits N 0 7 = 48 := at_ 0
  have p1 : bits N 7 4 = 0 := at_ 1
  have p2 : bits N 11 5 = 0 := at_ 2
  have p3 : bits N 16 5 = ra.val := at_ 3
  have p4 : bits N 21 5 = rd.val := at_ 4
  have p5 : bits N 26 6 = 4 := at_ 5
  have h0 : bits N 0 11 = 48 := by rw [bits_join N 0 7 4, p0, p1]; rfl
  have h1 : bits N 0 16 = 48 := by rw [bits_join N 0 7 9, bits_join N 7 4 5, p0, p1, p2]; rfl
  exact (raw p5).trans (show decodeOp04 N = _ from ((if_neg (differ h0 (by decide))).trans ((if_neg (differ h0 (by decide))).trans ((if_neg (differ h0 (by decide))).trans ((if_neg (differ h0 (by decide))).trans ((if_neg (differ h0 (by decide))).trans ((if_neg (differ h0 (by decide))).trans ((if_neg (differ h0 (by decide))).trans ((if_neg (differ h0 (by decide))).trans ((if_neg (differ h0 (by decide))).trans ((if_neg (differ h0 (by decide))).trans ((if_neg (differ h0 (by decide))).trans ((if_neg (differ h0 (by decide))).trans ((if_neg (differ h0 (by decide))).trans ((if_neg (differ h0 (by decide))).trans ((if_neg (differ h0 (by decide))).trans ((if_neg (differ h0 (by decide))).trans ((if_neg (differ h0 (by decide))).trans ((if_neg (differ h0 (by decide))).trans ((if_neg (differ h0 (by decide))).trans ((if_neg (differ h0 (by decide))).trans ((if_neg (differ h0 (by decide))).trans ((if_neg (differ h0 (by decide))).trans ((if_neg (differ h0 (by decide))).trans ((if_neg (differ h0 (by decide))).trans ((if_neg (differ h0 (by decide))).trans ((if_neg (differ h0 (by decide))).trans ((if_neg (differ h0 (by decide))).trans ((if_neg (differ h0 (by decide))).trans ((if_neg (differ h0 (by decide))).trans ((if_neg (differ h0 (by decide))).trans ((if_neg (differ h0 (by decide))).trans ((if_neg (differ h0 (by decide))).trans ((if_neg (differ h0 (by decide))).trans ((if_neg (differ p0 (by decide))).trans ((if_neg (differ p0 (by decide))).trans ((if_neg (differ p0 (by decide))).trans ((if_neg (differ p0 (by decide))).trans ((if_pos h1).trans (by simp only [p4, p3, back_fin]))))))))))))))))))))))))))))))))))))))))

theorem RoundTrip.ctz rd ra : RoundTrip.Statement (.ctz rd ra) := by
  refine statement_of (l := [(49, 7), (0, 4), (0, 5), (ra.val, 5), (rd.val, 5), (4, 6)]) rfl (by simp only [enc, wordOf]; omega) ⟨(by decide), (by decide), (by decide), ra.isLt, rd.isLt, (by decide), trivial⟩ rfl fun N at_ => ?_
  have p0 : bits N 0 7 = 49 := at_ 0
  have p1 : bits N 7 4 = 0 := at_ 1
  have p2 : bits N 11 5 = 0 := at_ 2
  have p3 : bits N 16 5 = ra.val := at_ 3
  have p4 : bits N 21 5 = rd.val := at_ 4
  have p5 : bits N 26 6 = 4 := at_ 5
  have h0 : bits N 0 11 = 49 := by rw [bits_join N 0 7 4, p0, p1]; rfl
  have h1 : bits N 0 16 = 49 := by rw [bits_join N 0 7 9, bits_join N 7 4 5, p0, p1, p2]; rfl
  exact (raw p5).trans (show decodeOp04 N = _ from ((if_neg (differ h0 (by decide))).trans ((if_neg (differ h0 (by decide))).trans ((if_neg (differ h0 (by decide))).trans ((if_neg (differ h0 (by decide))).trans ((if_neg (differ h0 (by decide))).trans ((if_neg (differ h0 (by decide))).trans ((if_neg (differ h0 (by decide))).trans ((if_neg (differ h0 (by decide))).trans ((if_neg (differ h0 (by decide))).trans ((if_neg (differ h0 (by decide))).trans ((if_neg (differ h0 (by decide))).trans ((if_neg (differ h0 (by decide))).trans ((if_neg (differ h0 (by decide))).trans ((if_neg (differ h0 (by decide))).trans ((if_neg (differ h0 (by decide))).trans ((if_neg (differ h0 (by decide))).trans ((if_neg (differ h0 (by decide))).trans ((if_neg (differ h0 (by decide))).trans ((if_neg (differ h0 (by decide))).trans ((if_neg (differ h0 (by decide))).trans ((if_neg (differ h0 (by decide))).trans ((if_neg (differ h0 (by decide))).trans ((if_neg (differ h0 (by decide))).trans ((if_neg (differ h0 (by decide))).trans ((if_neg (differ h0 (by decide))).trans ((if_neg (differ h0 (by decide))).trans ((if_neg (differ h0 (by decide))).trans ((if_neg (differ h0 (by decide))).trans ((if_neg (differ h0 (by decide))).trans ((if_neg (differ h0 (by decide))).trans ((if_neg (differ h0 (by decide))).trans ((if_neg (differ h0 (by decide))).trans ((if_neg (differ h0 (by decide))).trans ((if_neg (differ p0 (by decide))).trans ((if_neg (differ p0 (by decide))).trans ((if_neg (differ p0 (by decide))).trans ((if_neg (differ p0 (by decide))).trans ((if_neg (differ h1 (by decide))).trans ((if_pos h1).trans (by simp only [p4, p3, back_fin])))))))))))))))))))))))))))))))))))))))))

theorem RoundTrip.popc rd ra : RoundTrip.Statement (.popc rd ra) := by
  refine statement_of (l := [(50, 7), (0, 4), (0, 5), (ra.val, 5), (rd.val, 5), (4, 6)]) rfl (by simp only [enc, wordOf]; omega) ⟨(by decide), (by decide), (by decide), ra.isLt, rd.isLt, (by decide), trivial⟩ rfl fun N at_ => ?_
  have p0 : bits N 0 7 = 50 := at_ 0
  have p1 : bits N 7 4 = 0 := at_ 1
  have p2 : bits N 11 5 = 0 := at_ 2
  have p3 : bits N 16 5 = ra.val := at_ 3
  have p4 : bits N 21 5 = rd.val := at_ 4
  have p5 : bits N 26 6 = 4 := at_ 5
  have h0 : bits N 0 11 = 50 := by rw [bits_join N 0 7 4, p0, p1]; rfl
  have h1 : bits N 0 16 = 50 := by rw [bits_join N 0 7 9, bits_join N 7 4 5, p0, p1, p2]; rfl
  exact (raw p5).trans (show decodeOp04 N = _ from ((if_neg (differ h0 (by decide))).trans ((if_neg (differ h0 (by decide))).trans ((if_neg (differ h0 (by decide))).trans ((if_neg (differ h0 (by decide))).trans ((if_neg (differ h0 (by decide))).trans ((if_neg (differ h0 (by decide))).trans ((if_neg (differ h0 (by decide))).trans ((if_neg (differ h0 (by decide))).trans ((if_neg (differ h0 (by decide))).trans ((if_neg (differ h0 (by decide))).trans ((if_neg (differ h0 (by decide))).trans ((if_neg (differ h0 (by decide))).trans ((if_neg (differ h0 (by decide))).trans ((if_neg (differ h0 (by decide))).trans ((if_neg (differ h0 (by decide))).trans ((if_neg (differ h0 (by decide))).trans ((if_neg (differ h0 (by decide))).trans ((if_neg (differ h0 (by decide))).trans ((if_neg (differ h0 (by decide))).trans ((if_neg (differ h0 (by decide))).trans ((if_neg (differ h0 (by decide))).trans ((if_neg (differ h0 (by decide))).trans ((if_neg (differ h0 (by decide))).trans ((if_neg (differ h0 (by decide))).trans ((if_neg (differ h0 (by decide))).trans ((if_neg (differ h0 (by decide))).trans ((if_neg (differ h0 (by decide))).trans ((if_neg (differ h0 (by decide))).trans ((if_neg (differ h0 (by decide))).trans ((if_neg (differ h0 (by decide))).trans ((if_neg (differ h0 (by decide))).trans ((if_neg (differ h0 (by decide))).trans ((if_neg (differ h0 (by decide))).trans ((if_neg (differ p0 (by decide))).trans ((if_neg (differ p0 (by decide))).trans ((if_neg (differ p0 (by decide))).trans ((if_neg (differ p0 (by decide))).trans ((if_neg (differ h1 (by decide))).trans ((if_neg (differ h1 (by decide))).trans ((if_pos h1).trans (by simp only [p4, p3, back_fin]))))))))))))))))))))))))))))))))))))))))))

theorem RoundTrip.brev rd ra : RoundTrip.Statement (.brev rd ra) := by
  refine statement_of (l := [(51, 7), (0, 4), (0, 5), (ra.val, 5), (rd.val, 5), (4, 6)]) rfl (by simp only [enc, wordOf]; omega) ⟨(by decide), (by decide), (by decide), ra.isLt, rd.isLt, (by decide), trivial⟩ rfl fun N at_ => ?_
  have p0 : bits N 0 7 = 51 := at_ 0
  have p1 : bits N 7 4 = 0 := at_ 1
  have p2 : bits N 11 5 = 0 := at_ 2
  have p3 : bits N 16 5 = ra.val := at_ 3
  have p4 : bits N 21 5 = rd.val := at_ 4
  have p5 : bits N 26 6 = 4 := at_ 5
  have h0 : bits N 0 11 = 51 := by rw [bits_join N 0 7 4, p0, p1]; rfl
  have h1 : bits N 0 16 = 51 := by rw [bits_join N 0 7 9, bits_join N 7 4 5, p0, p1, p2]; rfl
  exact (raw p5).trans (show decodeOp04 N = _ from ((if_neg (differ h0 (by decide))).trans ((if_neg (differ h0 (by decide))).trans ((if_neg (differ h0 (by decide))).trans ((if_neg (differ h0 (by decide))).trans ((if_neg (differ h0 (by decide))).trans ((if_neg (differ h0 (by decide))).trans ((if_neg (differ h0 (by decide))).trans ((if_neg (differ h0 (by decide))).trans ((if_neg (differ h0 (by decide))).trans ((if_neg (differ h0 (by decide))).trans ((if_neg (differ h0 (by decide))).trans ((if_neg (differ h0 (by decide))).trans ((if_neg (differ h0 (by decide))).trans ((if_neg (differ h0 (by decide))).trans ((if_neg (differ h0 (by decide))).trans ((if_neg (differ h0 (by decide))).trans ((if_neg (differ h0 (by decide))).trans ((if_neg (differ h0 (by decide))).trans ((if_neg (differ h0 (by decide))).trans ((if_neg (differ h0 (by decide))).trans ((if_neg (differ h0 (by decide))).trans ((if_neg (differ h0 (by decide))).trans ((if_neg (differ h0 (by decide))).trans ((if_neg (differ h0 (by decide))).trans ((if_neg (differ h0 (by decide))).trans ((if_neg (differ h0 (by decide))).trans ((if_neg (differ h0 (by decide))).trans ((if_neg (differ h0 (by decide))).trans ((if_neg (differ h0 (by decide))).trans ((if_neg (differ h0 (by decide))).trans ((if_neg (differ h0 (by decide))).trans ((if_neg (differ h0 (by decide))).trans ((if_neg (differ h0 (by decide))).trans ((if_neg (differ p0 (by decide))).trans ((if_neg (differ p0 (by decide))).trans ((if_neg (differ p0 (by decide))).trans ((if_neg (differ p0 (by decide))).trans ((if_neg (differ h1 (by decide))).trans ((if_neg (differ h1 (by decide))).trans ((if_neg (differ h1 (by decide))).trans ((if_pos h1).trans (by simp only [p4, p3, back_fin])))))))))))))))))))))))))))))))))))))))))))

theorem RoundTrip.bswap rd ra : RoundTrip.Statement (.bswap rd ra) := by
  refine statement_of (l := [(52, 7), (0, 4), (0, 5), (ra.val, 5), (rd.val, 5), (4, 6)]) rfl (by simp only [enc, wordOf]; omega) ⟨(by decide), (by decide), (by decide), ra.isLt, rd.isLt, (by decide), trivial⟩ rfl fun N at_ => ?_
  have p0 : bits N 0 7 = 52 := at_ 0
  have p1 : bits N 7 4 = 0 := at_ 1
  have p2 : bits N 11 5 = 0 := at_ 2
  have p3 : bits N 16 5 = ra.val := at_ 3
  have p4 : bits N 21 5 = rd.val := at_ 4
  have p5 : bits N 26 6 = 4 := at_ 5
  have h0 : bits N 0 11 = 52 := by rw [bits_join N 0 7 4, p0, p1]; rfl
  have h1 : bits N 0 16 = 52 := by rw [bits_join N 0 7 9, bits_join N 7 4 5, p0, p1, p2]; rfl
  exact (raw p5).trans (show decodeOp04 N = _ from ((if_neg (differ h0 (by decide))).trans ((if_neg (differ h0 (by decide))).trans ((if_neg (differ h0 (by decide))).trans ((if_neg (differ h0 (by decide))).trans ((if_neg (differ h0 (by decide))).trans ((if_neg (differ h0 (by decide))).trans ((if_neg (differ h0 (by decide))).trans ((if_neg (differ h0 (by decide))).trans ((if_neg (differ h0 (by decide))).trans ((if_neg (differ h0 (by decide))).trans ((if_neg (differ h0 (by decide))).trans ((if_neg (differ h0 (by decide))).trans ((if_neg (differ h0 (by decide))).trans ((if_neg (differ h0 (by decide))).trans ((if_neg (differ h0 (by decide))).trans ((if_neg (differ h0 (by decide))).trans ((if_neg (differ h0 (by decide))).trans ((if_neg (differ h0 (by decide))).trans ((if_neg (differ h0 (by decide))).trans ((if_neg (differ h0 (by decide))).trans ((if_neg (differ h0 (by decide))).trans ((if_neg (differ h0 (by decide))).trans ((if_neg (differ h0 (by decide))).trans ((if_neg (differ h0 (by decide))).trans ((if_neg (differ h0 (by decide))).trans ((if_neg (differ h0 (by decide))).trans ((if_neg (differ h0 (by decide))).trans ((if_neg (differ h0 (by decide))).trans ((if_neg (differ h0 (by decide))).trans ((if_neg (differ h0 (by decide))).trans ((if_neg (differ h0 (by decide))).trans ((if_neg (differ h0 (by decide))).trans ((if_neg (differ h0 (by decide))).trans ((if_neg (differ p0 (by decide))).trans ((if_neg (differ p0 (by decide))).trans ((if_neg (differ p0 (by decide))).trans ((if_neg (differ p0 (by decide))).trans ((if_neg (differ h1 (by decide))).trans ((if_neg (differ h1 (by decide))).trans ((if_neg (differ h1 (by decide))).trans ((if_neg (differ h1 (by decide))).trans ((if_pos h1).trans (by simp only [p4, p3, back_fin]))))))))))))))))))))))))))))))))))))))))))))

theorem RoundTrip.sextb rd ra : RoundTrip.Statement (.sextb rd ra) := by
  refine statement_of (l := [(53, 7), (0, 4), (0, 5), (ra.val, 5), (rd.val, 5), (4, 6)]) rfl (by simp only [enc, wordOf]; omega) ⟨(by decide), (by decide), (by decide), ra.isLt, rd.isLt, (by decide), trivial⟩ rfl fun N at_ => ?_
  have p0 : bits N 0 7 = 53 := at_ 0
  have p1 : bits N 7 4 = 0 := at_ 1
  have p2 : bits N 11 5 = 0 := at_ 2
  have p3 : bits N 16 5 = ra.val := at_ 3
  have p4 : bits N 21 5 = rd.val := at_ 4
  have p5 : bits N 26 6 = 4 := at_ 5
  have h0 : bits N 0 11 = 53 := by rw [bits_join N 0 7 4, p0, p1]; rfl
  have h1 : bits N 0 16 = 53 := by rw [bits_join N 0 7 9, bits_join N 7 4 5, p0, p1, p2]; rfl
  exact (raw p5).trans (show decodeOp04 N = _ from ((if_neg (differ h0 (by decide))).trans ((if_neg (differ h0 (by decide))).trans ((if_neg (differ h0 (by decide))).trans ((if_neg (differ h0 (by decide))).trans ((if_neg (differ h0 (by decide))).trans ((if_neg (differ h0 (by decide))).trans ((if_neg (differ h0 (by decide))).trans ((if_neg (differ h0 (by decide))).trans ((if_neg (differ h0 (by decide))).trans ((if_neg (differ h0 (by decide))).trans ((if_neg (differ h0 (by decide))).trans ((if_neg (differ h0 (by decide))).trans ((if_neg (differ h0 (by decide))).trans ((if_neg (differ h0 (by decide))).trans ((if_neg (differ h0 (by decide))).trans ((if_neg (differ h0 (by decide))).trans ((if_neg (differ h0 (by decide))).trans ((if_neg (differ h0 (by decide))).trans ((if_neg (differ h0 (by decide))).trans ((if_neg (differ h0 (by decide))).trans ((if_neg (differ h0 (by decide))).trans ((if_neg (differ h0 (by decide))).trans ((if_neg (differ h0 (by decide))).trans ((if_neg (differ h0 (by decide))).trans ((if_neg (differ h0 (by decide))).trans ((if_neg (differ h0 (by decide))).trans ((if_neg (differ h0 (by decide))).trans ((if_neg (differ h0 (by decide))).trans ((if_neg (differ h0 (by decide))).trans ((if_neg (differ h0 (by decide))).trans ((if_neg (differ h0 (by decide))).trans ((if_neg (differ h0 (by decide))).trans ((if_neg (differ h0 (by decide))).trans ((if_neg (differ p0 (by decide))).trans ((if_neg (differ p0 (by decide))).trans ((if_neg (differ p0 (by decide))).trans ((if_neg (differ p0 (by decide))).trans ((if_neg (differ h1 (by decide))).trans ((if_neg (differ h1 (by decide))).trans ((if_neg (differ h1 (by decide))).trans ((if_neg (differ h1 (by decide))).trans ((if_neg (differ h1 (by decide))).trans ((if_pos h1).trans (by simp only [p4, p3, back_fin])))))))))))))))))))))))))))))))))))))))))))))

theorem RoundTrip.sexth rd ra : RoundTrip.Statement (.sexth rd ra) := by
  refine statement_of (l := [(54, 7), (0, 4), (0, 5), (ra.val, 5), (rd.val, 5), (4, 6)]) rfl (by simp only [enc, wordOf]; omega) ⟨(by decide), (by decide), (by decide), ra.isLt, rd.isLt, (by decide), trivial⟩ rfl fun N at_ => ?_
  have p0 : bits N 0 7 = 54 := at_ 0
  have p1 : bits N 7 4 = 0 := at_ 1
  have p2 : bits N 11 5 = 0 := at_ 2
  have p3 : bits N 16 5 = ra.val := at_ 3
  have p4 : bits N 21 5 = rd.val := at_ 4
  have p5 : bits N 26 6 = 4 := at_ 5
  have h0 : bits N 0 11 = 54 := by rw [bits_join N 0 7 4, p0, p1]; rfl
  have h1 : bits N 0 16 = 54 := by rw [bits_join N 0 7 9, bits_join N 7 4 5, p0, p1, p2]; rfl
  exact (raw p5).trans (show decodeOp04 N = _ from ((if_neg (differ h0 (by decide))).trans ((if_neg (differ h0 (by decide))).trans ((if_neg (differ h0 (by decide))).trans ((if_neg (differ h0 (by decide))).trans ((if_neg (differ h0 (by decide))).trans ((if_neg (differ h0 (by decide))).trans ((if_neg (differ h0 (by decide))).trans ((if_neg (differ h0 (by decide))).trans ((if_neg (differ h0 (by decide))).trans ((if_neg (differ h0 (by decide))).trans ((if_neg (differ h0 (by decide))).trans ((if_neg (differ h0 (by decide))).trans ((if_neg (differ h0 (by decide))).trans ((if_neg (differ h0 (by decide))).trans ((if_neg (differ h0 (by decide))).trans ((if_neg (differ h0 (by decide))).trans ((if_neg (differ h0 (by decide))).trans ((if_neg (differ h0 (by decide))).trans ((if_neg (differ h0 (by decide))).trans ((if_neg (differ h0 (by decide))).trans ((if_neg (differ h0 (by decide))).trans ((if_neg (differ h0 (by decide))).trans ((if_neg (differ h0 (by decide))).trans ((if_neg (differ h0 (by decide))).trans ((if_neg (differ h0 (by decide))).trans ((if_neg (differ h0 (by decide))).trans ((if_neg (differ h0 (by decide))).trans ((if_neg (differ h0 (by decide))).trans ((if_neg (differ h0 (by decide))).trans ((if_neg (differ h0 (by decide))).trans ((if_neg (differ h0 (by decide))).trans ((if_neg (differ h0 (by decide))).trans ((if_neg (differ h0 (by decide))).trans ((if_neg (differ p0 (by decide))).trans ((if_neg (differ p0 (by decide))).trans ((if_neg (differ p0 (by decide))).trans ((if_neg (differ p0 (by decide))).trans ((if_neg (differ h1 (by decide))).trans ((if_neg (differ h1 (by decide))).trans ((if_neg (differ h1 (by decide))).trans ((if_neg (differ h1 (by decide))).trans ((if_neg (differ h1 (by decide))).trans ((if_neg (differ h1 (by decide))).trans ((if_pos h1).trans (by simp only [p4, p3, back_fin]))))))))))))))))))))))))))))))))))))))))))))))

theorem RoundTrip.sextw rd ra : RoundTrip.Statement (.sextw rd ra) := by
  refine statement_of (l := [(55, 7), (0, 4), (0, 5), (ra.val, 5), (rd.val, 5), (4, 6)]) rfl (by simp only [enc, wordOf]; omega) ⟨(by decide), (by decide), (by decide), ra.isLt, rd.isLt, (by decide), trivial⟩ rfl fun N at_ => ?_
  have p0 : bits N 0 7 = 55 := at_ 0
  have p1 : bits N 7 4 = 0 := at_ 1
  have p2 : bits N 11 5 = 0 := at_ 2
  have p3 : bits N 16 5 = ra.val := at_ 3
  have p4 : bits N 21 5 = rd.val := at_ 4
  have p5 : bits N 26 6 = 4 := at_ 5
  have h0 : bits N 0 11 = 55 := by rw [bits_join N 0 7 4, p0, p1]; rfl
  have h1 : bits N 0 16 = 55 := by rw [bits_join N 0 7 9, bits_join N 7 4 5, p0, p1, p2]; rfl
  exact (raw p5).trans (show decodeOp04 N = _ from ((if_neg (differ h0 (by decide))).trans ((if_neg (differ h0 (by decide))).trans ((if_neg (differ h0 (by decide))).trans ((if_neg (differ h0 (by decide))).trans ((if_neg (differ h0 (by decide))).trans ((if_neg (differ h0 (by decide))).trans ((if_neg (differ h0 (by decide))).trans ((if_neg (differ h0 (by decide))).trans ((if_neg (differ h0 (by decide))).trans ((if_neg (differ h0 (by decide))).trans ((if_neg (differ h0 (by decide))).trans ((if_neg (differ h0 (by decide))).trans ((if_neg (differ h0 (by decide))).trans ((if_neg (differ h0 (by decide))).trans ((if_neg (differ h0 (by decide))).trans ((if_neg (differ h0 (by decide))).trans ((if_neg (differ h0 (by decide))).trans ((if_neg (differ h0 (by decide))).trans ((if_neg (differ h0 (by decide))).trans ((if_neg (differ h0 (by decide))).trans ((if_neg (differ h0 (by decide))).trans ((if_neg (differ h0 (by decide))).trans ((if_neg (differ h0 (by decide))).trans ((if_neg (differ h0 (by decide))).trans ((if_neg (differ h0 (by decide))).trans ((if_neg (differ h0 (by decide))).trans ((if_neg (differ h0 (by decide))).trans ((if_neg (differ h0 (by decide))).trans ((if_neg (differ h0 (by decide))).trans ((if_neg (differ h0 (by decide))).trans ((if_neg (differ h0 (by decide))).trans ((if_neg (differ h0 (by decide))).trans ((if_neg (differ h0 (by decide))).trans ((if_neg (differ p0 (by decide))).trans ((if_neg (differ p0 (by decide))).trans ((if_neg (differ p0 (by decide))).trans ((if_neg (differ p0 (by decide))).trans ((if_neg (differ h1 (by decide))).trans ((if_neg (differ h1 (by decide))).trans ((if_neg (differ h1 (by decide))).trans ((if_neg (differ h1 (by decide))).trans ((if_neg (differ h1 (by decide))).trans ((if_neg (differ h1 (by decide))).trans ((if_neg (differ h1 (by decide))).trans ((if_pos h1).trans (by simp only [p4, p3, back_fin])))))))))))))))))))))))))))))))))))))))))))))))

theorem RoundTrip.zextw rd ra : RoundTrip.Statement (.zextw rd ra) := by
  refine statement_of (l := [(56, 7), (0, 4), (0, 5), (ra.val, 5), (rd.val, 5), (4, 6)]) rfl (by simp only [enc, wordOf]; omega) ⟨(by decide), (by decide), (by decide), ra.isLt, rd.isLt, (by decide), trivial⟩ rfl fun N at_ => ?_
  have p0 : bits N 0 7 = 56 := at_ 0
  have p1 : bits N 7 4 = 0 := at_ 1
  have p2 : bits N 11 5 = 0 := at_ 2
  have p3 : bits N 16 5 = ra.val := at_ 3
  have p4 : bits N 21 5 = rd.val := at_ 4
  have p5 : bits N 26 6 = 4 := at_ 5
  have h0 : bits N 0 11 = 56 := by rw [bits_join N 0 7 4, p0, p1]; rfl
  have h1 : bits N 0 16 = 56 := by rw [bits_join N 0 7 9, bits_join N 7 4 5, p0, p1, p2]; rfl
  exact (raw p5).trans (show decodeOp04 N = _ from ((if_neg (differ h0 (by decide))).trans ((if_neg (differ h0 (by decide))).trans ((if_neg (differ h0 (by decide))).trans ((if_neg (differ h0 (by decide))).trans ((if_neg (differ h0 (by decide))).trans ((if_neg (differ h0 (by decide))).trans ((if_neg (differ h0 (by decide))).trans ((if_neg (differ h0 (by decide))).trans ((if_neg (differ h0 (by decide))).trans ((if_neg (differ h0 (by decide))).trans ((if_neg (differ h0 (by decide))).trans ((if_neg (differ h0 (by decide))).trans ((if_neg (differ h0 (by decide))).trans ((if_neg (differ h0 (by decide))).trans ((if_neg (differ h0 (by decide))).trans ((if_neg (differ h0 (by decide))).trans ((if_neg (differ h0 (by decide))).trans ((if_neg (differ h0 (by decide))).trans ((if_neg (differ h0 (by decide))).trans ((if_neg (differ h0 (by decide))).trans ((if_neg (differ h0 (by decide))).trans ((if_neg (differ h0 (by decide))).trans ((if_neg (differ h0 (by decide))).trans ((if_neg (differ h0 (by decide))).trans ((if_neg (differ h0 (by decide))).trans ((if_neg (differ h0 (by decide))).trans ((if_neg (differ h0 (by decide))).trans ((if_neg (differ h0 (by decide))).trans ((if_neg (differ h0 (by decide))).trans ((if_neg (differ h0 (by decide))).trans ((if_neg (differ h0 (by decide))).trans ((if_neg (differ h0 (by decide))).trans ((if_neg (differ h0 (by decide))).trans ((if_neg (differ p0 (by decide))).trans ((if_neg (differ p0 (by decide))).trans ((if_neg (differ p0 (by decide))).trans ((if_neg (differ p0 (by decide))).trans ((if_neg (differ h1 (by decide))).trans ((if_neg (differ h1 (by decide))).trans ((if_neg (differ h1 (by decide))).trans ((if_neg (differ h1 (by decide))).trans ((if_neg (differ h1 (by decide))).trans ((if_neg (differ h1 (by decide))).trans ((if_neg (differ h1 (by decide))).trans ((if_neg (differ h1 (by decide))).trans ((if_pos h1).trans (by simp only [p4, p3, back_fin]))))))))))))))))))))))))))))))))))))))))))))))))

theorem RoundTrip.addi rd ra imm : RoundTrip.Statement (.addi rd ra imm) := by
  refine statement_of (l := [(imm.toNat, 16), (ra.val, 5), (rd.val, 5), (5, 6)]) rfl (by simp only [enc, wordOf]; omega) ⟨imm.isLt, ra.isLt, rd.isLt, (by decide), trivial⟩ rfl fun N at_ => ?_
  have p0 : bits N 0 16 = imm.toNat := at_ 0
  have p1 : bits N 16 5 = ra.val := at_ 1
  have p2 : bits N 21 5 = rd.val := at_ 2
  have p3 : bits N 26 6 = 5 := at_ 3
  exact (raw p3).trans (show decodeOp05 N = _ from (by unfold decodeOp05; simp only [p2, p1, p0, back_fin, back_bits]))

theorem RoundTrip.andi rd ra imm : RoundTrip.Statement (.andi rd ra imm) := by
  refine statement_of (l := [(imm.toNat, 16), (ra.val, 5), (rd.val, 5), (6, 6)]) rfl (by simp only [enc, wordOf]; omega) ⟨imm.isLt, ra.isLt, rd.isLt, (by decide), trivial⟩ rfl fun N at_ => ?_
  have p0 : bits N 0 16 = imm.toNat := at_ 0
  have p1 : bits N 16 5 = ra.val := at_ 1
  have p2 : bits N 21 5 = rd.val := at_ 2
  have p3 : bits N 26 6 = 6 := at_ 3
  exact (raw p3).trans (show decodeOp06 N = _ from (by unfold decodeOp06; simp only [p2, p1, p0, back_fin, back_bits]))

theorem RoundTrip.ori rd ra imm : RoundTrip.Statement (.ori rd ra imm) := by
  refine statement_of (l := [(imm.toNat, 16), (ra.val, 5), (rd.val, 5), (7, 6)]) rfl (by simp only [enc, wordOf]; omega) ⟨imm.isLt, ra.isLt, rd.isLt, (by decide), trivial⟩ rfl fun N at_ => ?_
  have p0 : bits N 0 16 = imm.toNat := at_ 0
  have p1 : bits N 16 5 = ra.val := at_ 1
  have p2 : bits N 21 5 = rd.val := at_ 2
  have p3 : bits N 26 6 = 7 := at_ 3
  exact (raw p3).trans (show decodeOp07 N = _ from (by unfold decodeOp07; simp only [p2, p1, p0, back_fin, back_bits]))

theorem RoundTrip.xori rd ra imm : RoundTrip.Statement (.xori rd ra imm) := by
  refine statement_of (l := [(imm.toNat, 16), (ra.val, 5), (rd.val, 5), (8, 6)]) rfl (by simp only [enc, wordOf]; omega) ⟨imm.isLt, ra.isLt, rd.isLt, (by decide), trivial⟩ rfl fun N at_ => ?_
  have p0 : bits N 0 16 = imm.toNat := at_ 0
  have p1 : bits N 16 5 = ra.val := at_ 1
  have p2 : bits N 21 5 = rd.val := at_ 2
  have p3 : bits N 26 6 = 8 := at_ 3
  exact (raw p3).trans (show decodeOp08 N = _ from (by unfold decodeOp08; simp only [p2, p1, p0, back_fin, back_bits]))

theorem RoundTrip.slti rd ra imm : RoundTrip.Statement (.slti rd ra imm) := by
  refine statement_of (l := [(imm.toNat, 16), (ra.val, 5), (rd.val, 5), (9, 6)]) rfl (by simp only [enc, wordOf]; omega) ⟨imm.isLt, ra.isLt, rd.isLt, (by decide), trivial⟩ rfl fun N at_ => ?_
  have p0 : bits N 0 16 = imm.toNat := at_ 0
  have p1 : bits N 16 5 = ra.val := at_ 1
  have p2 : bits N 21 5 = rd.val := at_ 2
  have p3 : bits N 26 6 = 9 := at_ 3
  exact (raw p3).trans (show decodeOp09 N = _ from (by unfold decodeOp09; simp only [p2, p1, p0, back_fin, back_bits]))

theorem RoundTrip.sltiu rd ra imm : RoundTrip.Statement (.sltiu rd ra imm) := by
  refine statement_of (l := [(imm.toNat, 16), (ra.val, 5), (rd.val, 5), (10, 6)]) rfl (by simp only [enc, wordOf]; omega) ⟨imm.isLt, ra.isLt, rd.isLt, (by decide), trivial⟩ rfl fun N at_ => ?_
  have p0 : bits N 0 16 = imm.toNat := at_ 0
  have p1 : bits N 16 5 = ra.val := at_ 1
  have p2 : bits N 21 5 = rd.val := at_ 2
  have p3 : bits N 26 6 = 10 := at_ 3
  exact (raw p3).trans (show decodeOp0A N = _ from (by unfold decodeOp0A; simp only [p2, p1, p0, back_fin, back_bits]))

theorem RoundTrip.muli rd ra imm : RoundTrip.Statement (.muli rd ra imm) := by
  refine statement_of (l := [(imm.toNat, 16), (ra.val, 5), (rd.val, 5), (11, 6)]) rfl (by simp only [enc, wordOf]; omega) ⟨imm.isLt, ra.isLt, rd.isLt, (by decide), trivial⟩ rfl fun N at_ => ?_
  have p0 : bits N 0 16 = imm.toNat := at_ 0
  have p1 : bits N 16 5 = ra.val := at_ 1
  have p2 : bits N 21 5 = rd.val := at_ 2
  have p3 : bits N 26 6 = 11 := at_ 3
  exact (raw p3).trans (show decodeOp0B N = _ from (by unfold decodeOp0B; simp only [p2, p1, p0, back_fin, back_bits]))

theorem RoundTrip.shli rd ra c : RoundTrip.Statement (.shli rd ra c) := by
  refine statement_of (l := [(c.val, 6), (0, 10), (ra.val, 5), (rd.val, 5), (12, 6)]) rfl (by simp only [enc, wordOf]; omega) ⟨c.isLt, (by decide), ra.isLt, rd.isLt, (by decide), trivial⟩ rfl fun N at_ => ?_
  have p0 : bits N 0 6 = c.val := at_ 0
  have p1 : bits N 6 10 = 0 := at_ 1
  have p2 : bits N 16 5 = ra.val := at_ 2
  have p3 : bits N 21 5 = rd.val := at_ 3
  have p4 : bits N 26 6 = 12 := at_ 4
  exact (raw p4).trans (show decodeOp0C N = _ from ((if_pos p1).trans (by simp only [p3, p2, p0, back_fin])))

theorem RoundTrip.shri rd ra c : RoundTrip.Statement (.shri rd ra c) := by
  refine statement_of (l := [(c.val, 6), (1, 10), (ra.val, 5), (rd.val, 5), (12, 6)]) rfl (by simp only [enc, wordOf]; omega) ⟨c.isLt, (by decide), ra.isLt, rd.isLt, (by decide), trivial⟩ rfl fun N at_ => ?_
  have p0 : bits N 0 6 = c.val := at_ 0
  have p1 : bits N 6 10 = 1 := at_ 1
  have p2 : bits N 16 5 = ra.val := at_ 2
  have p3 : bits N 21 5 = rd.val := at_ 3
  have p4 : bits N 26 6 = 12 := at_ 4
  exact (raw p4).trans (show decodeOp0C N = _ from ((if_neg (differ p1 (by decide))).trans ((if_pos p1).trans (by simp only [p3, p2, p0, back_fin]))))

theorem RoundTrip.srai rd ra c : RoundTrip.Statement (.srai rd ra c) := by
  refine statement_of (l := [(c.val, 6), (2, 10), (ra.val, 5), (rd.val, 5), (12, 6)]) rfl (by simp only [enc, wordOf]; omega) ⟨c.isLt, (by decide), ra.isLt, rd.isLt, (by decide), trivial⟩ rfl fun N at_ => ?_
  have p0 : bits N 0 6 = c.val := at_ 0
  have p1 : bits N 6 10 = 2 := at_ 1
  have p2 : bits N 16 5 = ra.val := at_ 2
  have p3 : bits N 21 5 = rd.val := at_ 3
  have p4 : bits N 26 6 = 12 := at_ 4
  exact (raw p4).trans (show decodeOp0C N = _ from ((if_neg (differ p1 (by decide))).trans ((if_neg (differ p1 (by decide))).trans ((if_pos p1).trans (by simp only [p3, p2, p0, back_fin])))))

theorem RoundTrip.rori rd ra c : RoundTrip.Statement (.rori rd ra c) := by
  refine statement_of (l := [(c.val, 6), (3, 10), (ra.val, 5), (rd.val, 5), (12, 6)]) rfl (by simp only [enc, wordOf]; omega) ⟨c.isLt, (by decide), ra.isLt, rd.isLt, (by decide), trivial⟩ rfl fun N at_ => ?_
  have p0 : bits N 0 6 = c.val := at_ 0
  have p1 : bits N 6 10 = 3 := at_ 1
  have p2 : bits N 16 5 = ra.val := at_ 2
  have p3 : bits N 21 5 = rd.val := at_ 3
  have p4 : bits N 26 6 = 12 := at_ 4
  exact (raw p4).trans (show decodeOp0C N = _ from ((if_neg (differ p1 (by decide))).trans ((if_neg (differ p1 (by decide))).trans ((if_neg (differ p1 (by decide))).trans ((if_pos p1).trans (by simp only [p3, p2, p0, back_fin]))))))

theorem RoundTrip.insh rd q imm : RoundTrip.Statement (.insh rd q imm) := by
  refine statement_of (l := [(imm.toNat, 16), (q.val, 2), (0, 3), (rd.val, 5), (13, 6)]) rfl (by simp only [enc, wordOf]; omega) ⟨imm.isLt, q.isLt, (by decide), rd.isLt, (by decide), trivial⟩ rfl fun N at_ => ?_
  have p0 : bits N 0 16 = imm.toNat := at_ 0
  have p1 : bits N 16 2 = q.val := at_ 1
  have p2 : bits N 18 3 = 0 := at_ 2
  have p3 : bits N 21 5 = rd.val := at_ 3
  have p4 : bits N 26 6 = 13 := at_ 4
  exact (raw p4).trans (show decodeOp0D N = _ from ((if_pos p2).trans (by simp only [p3, p1, p0, back_fin, back_bits])))

theorem RoundTrip.beq ra rb off : RoundTrip.Statement (.beq ra rb off) := by
  refine statement_of (l := [(off.toNat, 13), (0, 3), (rb.val, 5), (ra.val, 5), (1, 6)]) rfl (by simp only [enc, wordOf]; omega) ⟨off.isLt, (by decide), rb.isLt, ra.isLt, (by decide), trivial⟩ rfl fun N at_ => ?_
  have p0 : bits N 0 13 = off.toNat := at_ 0
  have p1 : bits N 13 3 = 0 := at_ 1
  have p2 : bits N 16 5 = rb.val := at_ 2
  have p3 : bits N 21 5 = ra.val := at_ 3
  have p4 : bits N 26 6 = 1 := at_ 4
  exact (raw p4).trans (show decodeOp01 N = _ from ((if_pos p1).trans (by simp only [p3, p2, p0, back_fin, back_bits])))

theorem RoundTrip.bne ra rb off : RoundTrip.Statement (.bne ra rb off) := by
  refine statement_of (l := [(off.toNat, 13), (1, 3), (rb.val, 5), (ra.val, 5), (1, 6)]) rfl (by simp only [enc, wordOf]; omega) ⟨off.isLt, (by decide), rb.isLt, ra.isLt, (by decide), trivial⟩ rfl fun N at_ => ?_
  have p0 : bits N 0 13 = off.toNat := at_ 0
  have p1 : bits N 13 3 = 1 := at_ 1
  have p2 : bits N 16 5 = rb.val := at_ 2
  have p3 : bits N 21 5 = ra.val := at_ 3
  have p4 : bits N 26 6 = 1 := at_ 4
  exact (raw p4).trans (show decodeOp01 N = _ from ((if_neg (differ p1 (by decide))).trans ((if_pos p1).trans (by simp only [p3, p2, p0, back_fin, back_bits]))))

theorem RoundTrip.blt ra rb off : RoundTrip.Statement (.blt ra rb off) := by
  refine statement_of (l := [(off.toNat, 13), (2, 3), (rb.val, 5), (ra.val, 5), (1, 6)]) rfl (by simp only [enc, wordOf]; omega) ⟨off.isLt, (by decide), rb.isLt, ra.isLt, (by decide), trivial⟩ rfl fun N at_ => ?_
  have p0 : bits N 0 13 = off.toNat := at_ 0
  have p1 : bits N 13 3 = 2 := at_ 1
  have p2 : bits N 16 5 = rb.val := at_ 2
  have p3 : bits N 21 5 = ra.val := at_ 3
  have p4 : bits N 26 6 = 1 := at_ 4
  exact (raw p4).trans (show decodeOp01 N = _ from ((if_neg (differ p1 (by decide))).trans ((if_neg (differ p1 (by decide))).trans ((if_pos p1).trans (by simp only [p3, p2, p0, back_fin, back_bits])))))

theorem RoundTrip.bge ra rb off : RoundTrip.Statement (.bge ra rb off) := by
  refine statement_of (l := [(off.toNat, 13), (3, 3), (rb.val, 5), (ra.val, 5), (1, 6)]) rfl (by simp only [enc, wordOf]; omega) ⟨off.isLt, (by decide), rb.isLt, ra.isLt, (by decide), trivial⟩ rfl fun N at_ => ?_
  have p0 : bits N 0 13 = off.toNat := at_ 0
  have p1 : bits N 13 3 = 3 := at_ 1
  have p2 : bits N 16 5 = rb.val := at_ 2
  have p3 : bits N 21 5 = ra.val := at_ 3
  have p4 : bits N 26 6 = 1 := at_ 4
  exact (raw p4).trans (show decodeOp01 N = _ from ((if_neg (differ p1 (by decide))).trans ((if_neg (differ p1 (by decide))).trans ((if_neg (differ p1 (by decide))).trans ((if_pos p1).trans (by simp only [p3, p2, p0, back_fin, back_bits]))))))

theorem RoundTrip.bltu ra rb off : RoundTrip.Statement (.bltu ra rb off) := by
  refine statement_of (l := [(off.toNat, 13), (4, 3), (rb.val, 5), (ra.val, 5), (1, 6)]) rfl (by simp only [enc, wordOf]; omega) ⟨off.isLt, (by decide), rb.isLt, ra.isLt, (by decide), trivial⟩ rfl fun N at_ => ?_
  have p0 : bits N 0 13 = off.toNat := at_ 0
  have p1 : bits N 13 3 = 4 := at_ 1
  have p2 : bits N 16 5 = rb.val := at_ 2
  have p3 : bits N 21 5 = ra.val := at_ 3
  have p4 : bits N 26 6 = 1 := at_ 4
  exact (raw p4).trans (show decodeOp01 N = _ from ((if_neg (differ p1 (by decide))).trans ((if_neg (differ p1 (by decide))).trans ((if_neg (differ p1 (by decide))).trans ((if_neg (differ p1 (by decide))).trans ((if_pos p1).trans (by simp only [p3, p2, p0, back_fin, back_bits])))))))

theorem RoundTrip.bgeu ra rb off : RoundTrip.Statement (.bgeu ra rb off) := by
  refine statement_of (l := [(off.toNat, 13), (5, 3), (rb.val, 5), (ra.val, 5), (1, 6)]) rfl (by simp only [enc, wordOf]; omega) ⟨off.isLt, (by decide), rb.isLt, ra.isLt, (by decide), trivial⟩ rfl fun N at_ => ?_
  have p0 : bits N 0 13 = off.toNat := at_ 0
  have p1 : bits N 13 3 = 5 := at_ 1
  have p2 : bits N 16 5 = rb.val := at_ 2
  have p3 : bits N 21 5 = ra.val := at_ 3
  have p4 : bits N 26 6 = 1 := at_ 4
  exact (raw p4).trans (show decodeOp01 N = _ from ((if_neg (differ p1 (by decide))).trans ((if_neg (differ p1 (by decide))).trans ((if_neg (differ p1 (by decide))).trans ((if_neg (differ p1 (by decide))).trans ((if_neg (differ p1 (by decide))).trans ((if_pos p1).trans (by simp only [p3, p2, p0, back_fin, back_bits]))))))))

theorem RoundTrip.jal rd off : RoundTrip.Statement (.jal rd off) := by
  refine statement_of (l := [(off.toNat, 21), (rd.val, 5), (2, 6)]) rfl (by simp only [enc, wordOf]; omega) ⟨off.isLt, rd.isLt, (by decide), trivial⟩ rfl fun N at_ => ?_
  have p0 : bits N 0 21 = off.toNat := at_ 0
  have p1 : bits N 21 5 = rd.val := at_ 1
  have p2 : bits N 26 6 = 2 := at_ 2
  exact (raw p2).trans (show decodeOp02 N = _ from (by unfold decodeOp02; simp only [p1, p0, back_fin, back_bits]))

theorem RoundTrip.jalr rd ra : RoundTrip.Statement (.jalr rd ra) := by
  refine statement_of (l := [(0, 16), (ra.val, 5), (rd.val, 5), (3, 6)]) rfl (by simp only [enc, wordOf]; omega) ⟨(by decide), ra.isLt, rd.isLt, (by decide), trivial⟩ rfl fun N at_ => ?_
  have p0 : bits N 0 16 = 0 := at_ 0
  have p1 : bits N 16 5 = ra.val := at_ 1
  have p2 : bits N 21 5 = rd.val := at_ 2
  have p3 : bits N 26 6 = 3 := at_ 3
  exact (raw p3).trans (show decodeOp03 N = _ from ((if_pos p0).trans (by simp only [p2, p1, back_fin])))

theorem RoundTrip.fadd rd ra rb rm : RoundTrip.Statement (.fadd rd ra rb rm) := by
  refine statement_of (l := [(0, 5), (rm.code, 2), (0, 4), (rb.val, 5), (ra.val, 5), (rd.val, 5), (16, 6)]) rfl (by have := rm_lt rm; simp only [enc, wordOf]; omega) ⟨(by decide), (rm_lt rm), (by decide), rb.isLt, ra.isLt, rd.isLt, (by decide), trivial⟩ rfl fun N at_ => ?_
  have p0 : bits N 0 5 = 0 := at_ 0
  have p1 : bits N 5 2 = rm.code := at_ 1
  have p2 : bits N 7 4 = 0 := at_ 2
  have p3 : bits N 11 5 = rb.val := at_ 3
  have p4 : bits N 16 5 = ra.val := at_ 4
  have p5 : bits N 21 5 = rd.val := at_ 5
  have p6 : bits N 26 6 = 16 := at_ 6
  exact (raw p6).trans (show decodeOp10 N = _ from ((if_pos ⟨p0, p2⟩).trans (by simp only [p5, p4, p3, p1, back_rm, back_fin])))

theorem RoundTrip.fsub rd ra rb rm : RoundTrip.Statement (.fsub rd ra rb rm) := by
  refine statement_of (l := [(1, 5), (rm.code, 2), (0, 4), (rb.val, 5), (ra.val, 5), (rd.val, 5), (16, 6)]) rfl (by have := rm_lt rm; simp only [enc, wordOf]; omega) ⟨(by decide), (rm_lt rm), (by decide), rb.isLt, ra.isLt, rd.isLt, (by decide), trivial⟩ rfl fun N at_ => ?_
  have p0 : bits N 0 5 = 1 := at_ 0
  have p1 : bits N 5 2 = rm.code := at_ 1
  have p2 : bits N 7 4 = 0 := at_ 2
  have p3 : bits N 11 5 = rb.val := at_ 3
  have p4 : bits N 16 5 = ra.val := at_ 4
  have p5 : bits N 21 5 = rd.val := at_ 5
  have p6 : bits N 26 6 = 16 := at_ 6
  exact (raw p6).trans (show decodeOp10 N = _ from ((if_neg (fun h => (differ p0 (by decide)) h.1)).trans ((if_pos ⟨p0, p2⟩).trans (by simp only [p5, p4, p3, p1, back_rm, back_fin]))))

theorem RoundTrip.fmul rd ra rb rm : RoundTrip.Statement (.fmul rd ra rb rm) := by
  refine statement_of (l := [(2, 5), (rm.code, 2), (0, 4), (rb.val, 5), (ra.val, 5), (rd.val, 5), (16, 6)]) rfl (by have := rm_lt rm; simp only [enc, wordOf]; omega) ⟨(by decide), (rm_lt rm), (by decide), rb.isLt, ra.isLt, rd.isLt, (by decide), trivial⟩ rfl fun N at_ => ?_
  have p0 : bits N 0 5 = 2 := at_ 0
  have p1 : bits N 5 2 = rm.code := at_ 1
  have p2 : bits N 7 4 = 0 := at_ 2
  have p3 : bits N 11 5 = rb.val := at_ 3
  have p4 : bits N 16 5 = ra.val := at_ 4
  have p5 : bits N 21 5 = rd.val := at_ 5
  have p6 : bits N 26 6 = 16 := at_ 6
  exact (raw p6).trans (show decodeOp10 N = _ from ((if_neg (fun h => (differ p0 (by decide)) h.1)).trans ((if_neg (fun h => (differ p0 (by decide)) h.1)).trans ((if_pos ⟨p0, p2⟩).trans (by simp only [p5, p4, p3, p1, back_rm, back_fin])))))

theorem RoundTrip.fmac rd ra rb rm : RoundTrip.Statement (.fmac rd ra rb rm) := by
  refine statement_of (l := [(3, 5), (rm.code, 2), (0, 4), (rb.val, 5), (ra.val, 5), (rd.val, 5), (16, 6)]) rfl (by have := rm_lt rm; simp only [enc, wordOf]; omega) ⟨(by decide), (rm_lt rm), (by decide), rb.isLt, ra.isLt, rd.isLt, (by decide), trivial⟩ rfl fun N at_ => ?_
  have p0 : bits N 0 5 = 3 := at_ 0
  have p1 : bits N 5 2 = rm.code := at_ 1
  have p2 : bits N 7 4 = 0 := at_ 2
  have p3 : bits N 11 5 = rb.val := at_ 3
  have p4 : bits N 16 5 = ra.val := at_ 4
  have p5 : bits N 21 5 = rd.val := at_ 5
  have p6 : bits N 26 6 = 16 := at_ 6
  exact (raw p6).trans (show decodeOp10 N = _ from ((if_neg (fun h => (differ p0 (by decide)) h.1)).trans ((if_neg (fun h => (differ p0 (by decide)) h.1)).trans ((if_neg (fun h => (differ p0 (by decide)) h.1)).trans ((if_pos ⟨p0, p2⟩).trans (by simp only [p5, p4, p3, p1, back_rm, back_fin]))))))

theorem RoundTrip.fdiv rd ra rb la rm : RoundTrip.Statement (.fdiv rd ra rb la rm) := by
  refine statement_of (l := [(4, 5), (rm.code, 2), (la.val, 4), (rb.val, 5), (ra.val, 5), (rd.val, 5), (16, 6)]) rfl (by have := rm_lt rm; simp only [enc, wordOf]; omega) ⟨(by decide), (rm_lt rm), la.isLt, rb.isLt, ra.isLt, rd.isLt, (by decide), trivial⟩ rfl fun N at_ => ?_
  have p0 : bits N 0 5 = 4 := at_ 0
  have p1 : bits N 5 2 = rm.code := at_ 1
  have p2 : bits N 7 4 = la.val := at_ 2
  have p3 : bits N 11 5 = rb.val := at_ 3
  have p4 : bits N 16 5 = ra.val := at_ 4
  have p5 : bits N 21 5 = rd.val := at_ 5
  have p6 : bits N 26 6 = 16 := at_ 6
  exact (raw p6).trans (show decodeOp10 N = _ from ((if_neg (fun h => (differ p0 (by decide)) h.1)).trans ((if_neg (fun h => (differ p0 (by decide)) h.1)).trans ((if_neg (fun h => (differ p0 (by decide)) h.1)).trans ((if_neg (fun h => (differ p0 (by decide)) h.1)).trans ((if_pos p0).trans (by simp only [p5, p4, p3, p2, p1, back_rm, back_fin])))))))

theorem RoundTrip.fsqrt rd ra la rm : RoundTrip.Statement (.fsqrt rd ra la rm) := by
  refine statement_of (l := [(5, 5), (rm.code, 2), (la.val, 4), (0, 5), (ra.val, 5), (rd.val, 5), (16, 6)]) rfl (by have := rm_lt rm; simp only [enc, wordOf]; omega) ⟨(by decide), (rm_lt rm), la.isLt, (by decide), ra.isLt, rd.isLt, (by decide), trivial⟩ rfl fun N at_ => ?_
  have p0 : bits N 0 5 = 5 := at_ 0
  have p1 : bits N 5 2 = rm.code := at_ 1
  have p2 : bits N 7 4 = la.val := at_ 2
  have p3 : bits N 11 5 = 0 := at_ 3
  have p4 : bits N 16 5 = ra.val := at_ 4
  have p5 : bits N 21 5 = rd.val := at_ 5
  have p6 : bits N 26 6 = 16 := at_ 6
  exact (raw p6).trans (show decodeOp10 N = _ from ((if_neg (fun h => (differ p0 (by decide)) h.1)).trans ((if_neg (fun h => (differ p0 (by decide)) h.1)).trans ((if_neg (fun h => (differ p0 (by decide)) h.1)).trans ((if_neg (fun h => (differ p0 (by decide)) h.1)).trans ((if_neg (differ p0 (by decide))).trans ((if_pos ⟨p0, p3⟩).trans (by simp only [p5, p4, p2, p1, back_rm, back_fin]))))))))

theorem RoundTrip.fmin rd ra rb : RoundTrip.Statement (.fmin rd ra rb) := by
  refine statement_of (l := [(6, 5), (0, 6), (rb.val, 5), (ra.val, 5), (rd.val, 5), (16, 6)]) rfl (by simp only [enc, wordOf]; omega) ⟨(by decide), (by decide), rb.isLt, ra.isLt, rd.isLt, (by decide), trivial⟩ rfl fun N at_ => ?_
  have p0 : bits N 0 5 = 6 := at_ 0
  have p1 : bits N 5 6 = 0 := at_ 1
  have p2 : bits N 11 5 = rb.val := at_ 2
  have p3 : bits N 16 5 = ra.val := at_ 3
  have p4 : bits N 21 5 = rd.val := at_ 4
  have p5 : bits N 26 6 = 16 := at_ 5
  have h0 : bits N 0 11 = 6 := by rw [bits_join N 0 5 6, p0, p1]; rfl
  exact (raw p5).trans (show decodeOp10 N = _ from ((if_neg (fun h => (differ p0 (by decide)) h.1)).trans ((if_neg (fun h => (differ p0 (by decide)) h.1)).trans ((if_neg (fun h => (differ p0 (by decide)) h.1)).trans ((if_neg (fun h => (differ p0 (by decide)) h.1)).trans ((if_neg (differ p0 (by decide))).trans ((if_neg (fun h => (differ p0 (by decide)) h.1)).trans ((if_pos h0).trans (by simp only [p4, p3, p2, back_fin])))))))))

theorem RoundTrip.fmax rd ra rb : RoundTrip.Statement (.fmax rd ra rb) := by
  refine statement_of (l := [(7, 5), (0, 6), (rb.val, 5), (ra.val, 5), (rd.val, 5), (16, 6)]) rfl (by simp only [enc, wordOf]; omega) ⟨(by decide), (by decide), rb.isLt, ra.isLt, rd.isLt, (by decide), trivial⟩ rfl fun N at_ => ?_
  have p0 : bits N 0 5 = 7 := at_ 0
  have p1 : bits N 5 6 = 0 := at_ 1
  have p2 : bits N 11 5 = rb.val := at_ 2
  have p3 : bits N 16 5 = ra.val := at_ 3
  have p4 : bits N 21 5 = rd.val := at_ 4
  have p5 : bits N 26 6 = 16 := at_ 5
  have h0 : bits N 0 11 = 7 := by rw [bits_join N 0 5 6, p0, p1]; rfl
  exact (raw p5).trans (show decodeOp10 N = _ from ((if_neg (fun h => (differ p0 (by decide)) h.1)).trans ((if_neg (fun h => (differ p0 (by decide)) h.1)).trans ((if_neg (fun h => (differ p0 (by decide)) h.1)).trans ((if_neg (fun h => (differ p0 (by decide)) h.1)).trans ((if_neg (differ p0 (by decide))).trans ((if_neg (fun h => (differ p0 (by decide)) h.1)).trans ((if_neg (differ h0 (by decide))).trans ((if_pos h0).trans (by simp only [p4, p3, p2, back_fin]))))))))))

theorem RoundTrip.fabs rd ra : RoundTrip.Statement (.fabs rd ra) := by
  refine statement_of (l := [(8, 5), (0, 6), (0, 5), (ra.val, 5), (rd.val, 5), (16, 6)]) rfl (by simp only [enc, wordOf]; omega) ⟨(by decide), (by decide), (by decide), ra.isLt, rd.isLt, (by decide), trivial⟩ rfl fun N at_ => ?_
  have p0 : bits N 0 5 = 8 := at_ 0
  have p1 : bits N 5 6 = 0 := at_ 1
  have p2 : bits N 11 5 = 0 := at_ 2
  have p3 : bits N 16 5 = ra.val := at_ 3
  have p4 : bits N 21 5 = rd.val := at_ 4
  have p5 : bits N 26 6 = 16 := at_ 5
  have h0 : bits N 0 11 = 8 := by rw [bits_join N 0 5 6, p0, p1]; rfl
  have h1 : bits N 0 16 = 8 := by rw [bits_join N 0 5 11, bits_join N 5 6 5, p0, p1, p2]; rfl
  exact (raw p5).trans (show decodeOp10 N = _ from ((if_neg (fun h => (differ p0 (by decide)) h.1)).trans ((if_neg (fun h => (differ p0 (by decide)) h.1)).trans ((if_neg (fun h => (differ p0 (by decide)) h.1)).trans ((if_neg (fun h => (differ p0 (by decide)) h.1)).trans ((if_neg (differ p0 (by decide))).trans ((if_neg (fun h => (differ p0 (by decide)) h.1)).trans ((if_neg (differ h0 (by decide))).trans ((if_neg (differ h0 (by decide))).trans ((if_pos h1).trans (by simp only [p4, p3, back_fin])))))))))))

theorem RoundTrip.fneg rd ra : RoundTrip.Statement (.fneg rd ra) := by
  refine statement_of (l := [(9, 5), (0, 6), (0, 5), (ra.val, 5), (rd.val, 5), (16, 6)]) rfl (by simp only [enc, wordOf]; omega) ⟨(by decide), (by decide), (by decide), ra.isLt, rd.isLt, (by decide), trivial⟩ rfl fun N at_ => ?_
  have p0 : bits N 0 5 = 9 := at_ 0
  have p1 : bits N 5 6 = 0 := at_ 1
  have p2 : bits N 11 5 = 0 := at_ 2
  have p3 : bits N 16 5 = ra.val := at_ 3
  have p4 : bits N 21 5 = rd.val := at_ 4
  have p5 : bits N 26 6 = 16 := at_ 5
  have h0 : bits N 0 11 = 9 := by rw [bits_join N 0 5 6, p0, p1]; rfl
  have h1 : bits N 0 16 = 9 := by rw [bits_join N 0 5 11, bits_join N 5 6 5, p0, p1, p2]; rfl
  exact (raw p5).trans (show decodeOp10 N = _ from ((if_neg (fun h => (differ p0 (by decide)) h.1)).trans ((if_neg (fun h => (differ p0 (by decide)) h.1)).trans ((if_neg (fun h => (differ p0 (by decide)) h.1)).trans ((if_neg (fun h => (differ p0 (by decide)) h.1)).trans ((if_neg (differ p0 (by decide))).trans ((if_neg (fun h => (differ p0 (by decide)) h.1)).trans ((if_neg (differ h0 (by decide))).trans ((if_neg (differ h0 (by decide))).trans ((if_neg (differ h1 (by decide))).trans ((if_pos h1).trans (by simp only [p4, p3, back_fin]))))))))))))

theorem RoundTrip.feq rd ra rb : RoundTrip.Statement (.feq rd ra rb) := by
  refine statement_of (l := [(10, 5), (0, 6), (rb.val, 5), (ra.val, 5), (rd.val, 5), (16, 6)]) rfl (by simp only [enc, wordOf]; omega) ⟨(by decide), (by decide), rb.isLt, ra.isLt, rd.isLt, (by decide), trivial⟩ rfl fun N at_ => ?_
  have p0 : bits N 0 5 = 10 := at_ 0
  have p1 : bits N 5 6 = 0 := at_ 1
  have p2 : bits N 11 5 = rb.val := at_ 2
  have p3 : bits N 16 5 = ra.val := at_ 3
  have p4 : bits N 21 5 = rd.val := at_ 4
  have p5 : bits N 26 6 = 16 := at_ 5
  have h0 : bits N 0 11 = 10 := by rw [bits_join N 0 5 6, p0, p1]; rfl
  have h1 : bits N 0 16 ≠ 8 := by rw [bits_join N 0 5 11, bits_join N 5 6 5, p0, p1, p2]; omega
  have h2 : bits N 0 16 ≠ 9 := by rw [bits_join N 0 5 11, bits_join N 5 6 5, p0, p1, p2]; omega
  exact (raw p5).trans (show decodeOp10 N = _ from ((if_neg (fun h => (differ p0 (by decide)) h.1)).trans ((if_neg (fun h => (differ p0 (by decide)) h.1)).trans ((if_neg (fun h => (differ p0 (by decide)) h.1)).trans ((if_neg (fun h => (differ p0 (by decide)) h.1)).trans ((if_neg (differ p0 (by decide))).trans ((if_neg (fun h => (differ p0 (by decide)) h.1)).trans ((if_neg (differ h0 (by decide))).trans ((if_neg (differ h0 (by decide))).trans ((if_neg (h1)).trans ((if_neg (h2)).trans ((if_pos h0).trans (by simp only [p4, p3, p2, back_fin])))))))))))))

theorem RoundTrip.flt rd ra rb : RoundTrip.Statement (.flt rd ra rb) := by
  refine statement_of (l := [(11, 5), (0, 6), (rb.val, 5), (ra.val, 5), (rd.val, 5), (16, 6)]) rfl (by simp only [enc, wordOf]; omega) ⟨(by decide), (by decide), rb.isLt, ra.isLt, rd.isLt, (by decide), trivial⟩ rfl fun N at_ => ?_
  have p0 : bits N 0 5 = 11 := at_ 0
  have p1 : bits N 5 6 = 0 := at_ 1
  have p2 : bits N 11 5 = rb.val := at_ 2
  have p3 : bits N 16 5 = ra.val := at_ 3
  have p4 : bits N 21 5 = rd.val := at_ 4
  have p5 : bits N 26 6 = 16 := at_ 5
  have h0 : bits N 0 11 = 11 := by rw [bits_join N 0 5 6, p0, p1]; rfl
  have h1 : bits N 0 16 ≠ 8 := by rw [bits_join N 0 5 11, bits_join N 5 6 5, p0, p1, p2]; omega
  have h2 : bits N 0 16 ≠ 9 := by rw [bits_join N 0 5 11, bits_join N 5 6 5, p0, p1, p2]; omega
  exact (raw p5).trans (show decodeOp10 N = _ from ((if_neg (fun h => (differ p0 (by decide)) h.1)).trans ((if_neg (fun h => (differ p0 (by decide)) h.1)).trans ((if_neg (fun h => (differ p0 (by decide)) h.1)).trans ((if_neg (fun h => (differ p0 (by decide)) h.1)).trans ((if_neg (differ p0 (by decide))).trans ((if_neg (fun h => (differ p0 (by decide)) h.1)).trans ((if_neg (differ h0 (by decide))).trans ((if_neg (differ h0 (by decide))).trans ((if_neg (h1)).trans ((if_neg (h2)).trans ((if_neg (differ h0 (by decide))).trans ((if_pos h0).trans (by simp only [p4, p3, p2, back_fin]))))))))))))))

theorem RoundTrip.fle rd ra rb : RoundTrip.Statement (.fle rd ra rb) := by
  refine statement_of (l := [(12, 5), (0, 6), (rb.val, 5), (ra.val, 5), (rd.val, 5), (16, 6)]) rfl (by simp only [enc, wordOf]; omega) ⟨(by decide), (by decide), rb.isLt, ra.isLt, rd.isLt, (by decide), trivial⟩ rfl fun N at_ => ?_
  have p0 : bits N 0 5 = 12 := at_ 0
  have p1 : bits N 5 6 = 0 := at_ 1
  have p2 : bits N 11 5 = rb.val := at_ 2
  have p3 : bits N 16 5 = ra.val := at_ 3
  have p4 : bits N 21 5 = rd.val := at_ 4
  have p5 : bits N 26 6 = 16 := at_ 5
  have h0 : bits N 0 11 = 12 := by rw [bits_join N 0 5 6, p0, p1]; rfl
  have h1 : bits N 0 16 ≠ 8 := by rw [bits_join N 0 5 11, bits_join N 5 6 5, p0, p1, p2]; omega
  have h2 : bits N 0 16 ≠ 9 := by rw [bits_join N 0 5 11, bits_join N 5 6 5, p0, p1, p2]; omega
  exact (raw p5).trans (show decodeOp10 N = _ from ((if_neg (fun h => (differ p0 (by decide)) h.1)).trans ((if_neg (fun h => (differ p0 (by decide)) h.1)).trans ((if_neg (fun h => (differ p0 (by decide)) h.1)).trans ((if_neg (fun h => (differ p0 (by decide)) h.1)).trans ((if_neg (differ p0 (by decide))).trans ((if_neg (fun h => (differ p0 (by decide)) h.1)).trans ((if_neg (differ h0 (by decide))).trans ((if_neg (differ h0 (by decide))).trans ((if_neg (h1)).trans ((if_neg (h2)).trans ((if_neg (differ h0 (by decide))).trans ((if_neg (differ h0 (by decide))).trans ((if_pos h0).trans (by simp only [p4, p3, p2, back_fin])))))))))))))))

theorem RoundTrip.fclass rd ra : RoundTrip.Statement (.fclass rd ra) := by
  refine statement_of (l := [(13, 5), (0, 6), (0, 5), (ra.val, 5), (rd.val, 5), (16, 6)]) rfl (by simp only [enc, wordOf]; omega) ⟨(by decide), (by decide), (by decide), ra.isLt, rd.isLt, (by decide), trivial⟩ rfl fun N at_ => ?_
  have p0 : bits N 0 5 = 13 := at_ 0
  have p1 : bits N 5 6 = 0 := at_ 1
  have p2 : bits N 11 5 = 0 := at_ 2
  have p3 : bits N 16 5 = ra.val := at_ 3
  have p4 : bits N 21 5 = rd.val := at_ 4
  have p5 : bits N 26 6 = 16 := at_ 5
  have h0 : bits N 0 11 = 13 := by rw [bits_join N 0 5 6, p0, p1]; rfl
  have h1 : bits N 0 16 = 13 := by rw [bits_join N 0 5 11, bits_join N 5 6 5, p0, p1, p2]; rfl
  exact (raw p5).trans (show decodeOp10 N = _ from ((if_neg (fun h => (differ p0 (by decide)) h.1)).trans ((if_neg (fun h => (differ p0 (by decide)) h.1)).trans ((if_neg (fun h => (differ p0 (by decide)) h.1)).trans ((if_neg (fun h => (differ p0 (by decide)) h.1)).trans ((if_neg (differ p0 (by decide))).trans ((if_neg (fun h => (differ p0 (by decide)) h.1)).trans ((if_neg (differ h0 (by decide))).trans ((if_neg (differ h0 (by decide))).trans ((if_neg (differ h1 (by decide))).trans ((if_neg (differ h1 (by decide))).trans ((if_neg (differ h0 (by decide))).trans ((if_neg (differ h0 (by decide))).trans ((if_neg (differ h0 (by decide))).trans ((if_pos h1).trans (by simp only [p4, p3, back_fin]))))))))))))))))

theorem RoundTrip.fcvtSL rd ra rm : RoundTrip.Statement (.fcvtSL rd ra rm) := by
  refine statement_of (l := [(14, 5), (rm.code, 2), (0, 4), (0, 5), (ra.val, 5), (rd.val, 5), (16, 6)]) rfl (by have := rm_lt rm; simp only [enc, wordOf]; omega) ⟨(by decide), (rm_lt rm), (by decide), (by decide), ra.isLt, rd.isLt, (by decide), trivial⟩ rfl fun N at_ => ?_
  have p0 : bits N 0 5 = 14 := at_ 0
  have p1 : bits N 5 2 = rm.code := at_ 1
  have p2 : bits N 7 4 = 0 := at_ 2
  have p3 : bits N 11 5 = 0 := at_ 3
  have p4 : bits N 16 5 = ra.val := at_ 4
  have p5 : bits N 21 5 = rd.val := at_ 5
  have p6 : bits N 26 6 = 16 := at_ 6
  have h0 : bits N 7 9 = 0 := by rw [bits_join N 7 4 5, p2, p3]; rfl
  have h1 : bits N 0 11 ≠ 6 := by rw [bits_join N 0 5 6, bits_join N 5 2 4, p0, p1, p2]; omega
  have h2 : bits N 0 11 ≠ 7 := by rw [bits_join N 0 5 6, bits_join N 5 2 4, p0, p1, p2]; omega
  have h3 : bits N 0 16 ≠ 8 := by rw [bits_join N 0 5 11, bits_join N 5 2 9, bits_join N 7 4 5, p0, p1, p2, p3]; omega
  have h4 : bits N 0 16 ≠ 9 := by rw [bits_join N 0 5 11, bits_join N 5 2 9, bits_join N 7 4 5, p0, p1, p2, p3]; omega
  have h5 : bits N 0 11 ≠ 10 := by rw [bits_join N 0 5 6, bits_join N 5 2 4, p0, p1, p2]; omega
  have h6 : bits N 0 11 ≠ 11 := by rw [bits_join N 0 5 6, bits_join N 5 2 4, p0, p1, p2]; omega
  have h7 : bits N 0 11 ≠ 12 := by rw [bits_join N 0 5 6, bits_join N 5 2 4, p0, p1, p2]; omega
  have h8 : bits N 0 16 ≠ 13 := by rw [bits_join N 0 5 11, bits_join N 5 2 9, bits_join N 7 4 5, p0, p1, p2, p3]; omega
  exact (raw p6).trans (show decodeOp10 N = _ from ((if_neg (fun h => (differ p0 (by decide)) h.1)).trans ((if_neg (fun h => (differ p0 (by decide)) h.1)).trans ((if_neg (fun h => (differ p0 (by decide)) h.1)).trans ((if_neg (fun h => (differ p0 (by decide)) h.1)).trans ((if_neg (differ p0 (by decide))).trans ((if_neg (fun h => (differ p0 (by decide)) h.1)).trans ((if_neg (h1)).trans ((if_neg (h2)).trans ((if_neg (h3)).trans ((if_neg (h4)).trans ((if_neg (h5)).trans ((if_neg (h6)).trans ((if_neg (h7)).trans ((if_neg (h8)).trans ((if_pos ⟨p0, h0⟩).trans (by simp only [p5, p4, p1, back_rm, back_fin])))))))))))))))))

theorem RoundTrip.fcvtSLU rd ra rm : RoundTrip.Statement (.fcvtSLU rd ra rm) := by
  refine statement_of (l := [(15, 5), (rm.code, 2), (0, 4), (0, 5), (ra.val, 5), (rd.val, 5), (16, 6)]) rfl (by have := rm_lt rm; simp only [enc, wordOf]; omega) ⟨(by decide), (rm_lt rm), (by decide), (by decide), ra.isLt, rd.isLt, (by decide), trivial⟩ rfl fun N at_ => ?_
  have p0 : bits N 0 5 = 15 := at_ 0
  have p1 : bits N 5 2 = rm.code := at_ 1
  have p2 : bits N 7 4 = 0 := at_ 2
  have p3 : bits N 11 5 = 0 := at_ 3
  have p4 : bits N 16 5 = ra.val := at_ 4
  have p5 : bits N 21 5 = rd.val := at_ 5
  have p6 : bits N 26 6 = 16 := at_ 6
  have h0 : bits N 7 9 = 0 := by rw [bits_join N 7 4 5, p2, p3]; rfl
  have h1 : bits N 0 11 ≠ 6 := by rw [bits_join N 0 5 6, bits_join N 5 2 4, p0, p1, p2]; omega
  have h2 : bits N 0 11 ≠ 7 := by rw [bits_join N 0 5 6, bits_join N 5 2 4, p0, p1, p2]; omega
  have h3 : bits N 0 16 ≠ 8 := by rw [bits_join N 0 5 11, bits_join N 5 2 9, bits_join N 7 4 5, p0, p1, p2, p3]; omega
  have h4 : bits N 0 16 ≠ 9 := by rw [bits_join N 0 5 11, bits_join N 5 2 9, bits_join N 7 4 5, p0, p1, p2, p3]; omega
  have h5 : bits N 0 11 ≠ 10 := by rw [bits_join N 0 5 6, bits_join N 5 2 4, p0, p1, p2]; omega
  have h6 : bits N 0 11 ≠ 11 := by rw [bits_join N 0 5 6, bits_join N 5 2 4, p0, p1, p2]; omega
  have h7 : bits N 0 11 ≠ 12 := by rw [bits_join N 0 5 6, bits_join N 5 2 4, p0, p1, p2]; omega
  have h8 : bits N 0 16 ≠ 13 := by rw [bits_join N 0 5 11, bits_join N 5 2 9, bits_join N 7 4 5, p0, p1, p2, p3]; omega
  exact (raw p6).trans (show decodeOp10 N = _ from ((if_neg (fun h => (differ p0 (by decide)) h.1)).trans ((if_neg (fun h => (differ p0 (by decide)) h.1)).trans ((if_neg (fun h => (differ p0 (by decide)) h.1)).trans ((if_neg (fun h => (differ p0 (by decide)) h.1)).trans ((if_neg (differ p0 (by decide))).trans ((if_neg (fun h => (differ p0 (by decide)) h.1)).trans ((if_neg (h1)).trans ((if_neg (h2)).trans ((if_neg (h3)).trans ((if_neg (h4)).trans ((if_neg (h5)).trans ((if_neg (h6)).trans ((if_neg (h7)).trans ((if_neg (h8)).trans ((if_neg (fun h => (differ p0 (by decide)) h.1)).trans ((if_pos ⟨p0, h0⟩).trans (by simp only [p5, p4, p1, back_rm, back_fin]))))))))))))))))))

theorem RoundTrip.fcvtLS rd ra rm : RoundTrip.Statement (.fcvtLS rd ra rm) := by
  refine statement_of (l := [(16, 5), (rm.code, 2), (0, 4), (0, 5), (ra.val, 5), (rd.val, 5), (16, 6)]) rfl (by have := rm_lt rm; simp only [enc, wordOf]; omega) ⟨(by decide), (rm_lt rm), (by decide), (by decide), ra.isLt, rd.isLt, (by decide), trivial⟩ rfl fun N at_ => ?_
  have p0 : bits N 0 5 = 16 := at_ 0
  have p1 : bits N 5 2 = rm.code := at_ 1
  have p2 : bits N 7 4 = 0 := at_ 2
  have p3 : bits N 11 5 = 0 := at_ 3
  have p4 : bits N 16 5 = ra.val := at_ 4
  have p5 : bits N 21 5 = rd.val := at_ 5
  have p6 : bits N 26 6 = 16 := at_ 6
  have h0 : bits N 7 9 = 0 := by rw [bits_join N 7 4 5, p2, p3]; rfl
  have h1 : bits N 0 11 ≠ 6 := by rw [bits_join N 0 5 6, bits_join N 5 2 4, p0, p1, p2]; omega
  have h2 : bits N 0 11 ≠ 7 := by rw [bits_join N 0 5 6, bits_join N 5 2 4, p0, p1, p2]; omega
  have h3 : bits N 0 16 ≠ 8 := by rw [bits_join N 0 5 11, bits_join N 5 2 9, bits_join N 7 4 5, p0, p1, p2, p3]; omega
  have h4 : bits N 0 16 ≠ 9 := by rw [bits_join N 0 5 11, bits_join N 5 2 9, bits_join N 7 4 5, p0, p1, p2, p3]; omega
  have h5 : bits N 0 11 ≠ 10 := by rw [bits_join N 0 5 6, bits_join N 5 2 4, p0, p1, p2]; omega
  have h6 : bits N 0 11 ≠ 11 := by rw [bits_join N 0 5 6, bits_join N 5 2 4, p0, p1, p2]; omega
  have h7 : bits N 0 11 ≠ 12 := by rw [bits_join N 0 5 6, bits_join N 5 2 4, p0, p1, p2]; omega
  have h8 : bits N 0 16 ≠ 13 := by rw [bits_join N 0 5 11, bits_join N 5 2 9, bits_join N 7 4 5, p0, p1, p2, p3]; omega
  exact (raw p6).trans (show decodeOp10 N = _ from ((if_neg (fun h => (differ p0 (by decide)) h.1)).trans ((if_neg (fun h => (differ p0 (by decide)) h.1)).trans ((if_neg (fun h => (differ p0 (by decide)) h.1)).trans ((if_neg (fun h => (differ p0 (by decide)) h.1)).trans ((if_neg (differ p0 (by decide))).trans ((if_neg (fun h => (differ p0 (by decide)) h.1)).trans ((if_neg (h1)).trans ((if_neg (h2)).trans ((if_neg (h3)).trans ((if_neg (h4)).trans ((if_neg (h5)).trans ((if_neg (h6)).trans ((if_neg (h7)).trans ((if_neg (h8)).trans ((if_neg (fun h => (differ p0 (by decide)) h.1)).trans ((if_neg (fun h => (differ p0 (by decide)) h.1)).trans ((if_pos ⟨p0, h0⟩).trans (by simp only [p5, p4, p1, back_rm, back_fin])))))))))))))))))))

theorem RoundTrip.fcvtLUS rd ra rm : RoundTrip.Statement (.fcvtLUS rd ra rm) := by
  refine statement_of (l := [(17, 5), (rm.code, 2), (0, 4), (0, 5), (ra.val, 5), (rd.val, 5), (16, 6)]) rfl (by have := rm_lt rm; simp only [enc, wordOf]; omega) ⟨(by decide), (rm_lt rm), (by decide), (by decide), ra.isLt, rd.isLt, (by decide), trivial⟩ rfl fun N at_ => ?_
  have p0 : bits N 0 5 = 17 := at_ 0
  have p1 : bits N 5 2 = rm.code := at_ 1
  have p2 : bits N 7 4 = 0 := at_ 2
  have p3 : bits N 11 5 = 0 := at_ 3
  have p4 : bits N 16 5 = ra.val := at_ 4
  have p5 : bits N 21 5 = rd.val := at_ 5
  have p6 : bits N 26 6 = 16 := at_ 6
  have h0 : bits N 7 9 = 0 := by rw [bits_join N 7 4 5, p2, p3]; rfl
  have h1 : bits N 0 11 ≠ 6 := by rw [bits_join N 0 5 6, bits_join N 5 2 4, p0, p1, p2]; omega
  have h2 : bits N 0 11 ≠ 7 := by rw [bits_join N 0 5 6, bits_join N 5 2 4, p0, p1, p2]; omega
  have h3 : bits N 0 16 ≠ 8 := by rw [bits_join N 0 5 11, bits_join N 5 2 9, bits_join N 7 4 5, p0, p1, p2, p3]; omega
  have h4 : bits N 0 16 ≠ 9 := by rw [bits_join N 0 5 11, bits_join N 5 2 9, bits_join N 7 4 5, p0, p1, p2, p3]; omega
  have h5 : bits N 0 11 ≠ 10 := by rw [bits_join N 0 5 6, bits_join N 5 2 4, p0, p1, p2]; omega
  have h6 : bits N 0 11 ≠ 11 := by rw [bits_join N 0 5 6, bits_join N 5 2 4, p0, p1, p2]; omega
  have h7 : bits N 0 11 ≠ 12 := by rw [bits_join N 0 5 6, bits_join N 5 2 4, p0, p1, p2]; omega
  have h8 : bits N 0 16 ≠ 13 := by rw [bits_join N 0 5 11, bits_join N 5 2 9, bits_join N 7 4 5, p0, p1, p2, p3]; omega
  exact (raw p6).trans (show decodeOp10 N = _ from ((if_neg (fun h => (differ p0 (by decide)) h.1)).trans ((if_neg (fun h => (differ p0 (by decide)) h.1)).trans ((if_neg (fun h => (differ p0 (by decide)) h.1)).trans ((if_neg (fun h => (differ p0 (by decide)) h.1)).trans ((if_neg (differ p0 (by decide))).trans ((if_neg (fun h => (differ p0 (by decide)) h.1)).trans ((if_neg (h1)).trans ((if_neg (h2)).trans ((if_neg (h3)).trans ((if_neg (h4)).trans ((if_neg (h5)).trans ((if_neg (h6)).trans ((if_neg (h7)).trans ((if_neg (h8)).trans ((if_neg (fun h => (differ p0 (by decide)) h.1)).trans ((if_neg (fun h => (differ p0 (by decide)) h.1)).trans ((if_neg (fun h => (differ p0 (by decide)) h.1)).trans ((if_pos ⟨p0, h0⟩).trans (by simp only [p5, p4, p1, back_rm, back_fin]))))))))))))))))))))

theorem RoundTrip.fcvtSH rd ra : RoundTrip.Statement (.fcvtSH rd ra) := by
  refine statement_of (l := [(18, 5), (0, 6), (0, 5), (ra.val, 5), (rd.val, 5), (16, 6)]) rfl (by simp only [enc, wordOf]; omega) ⟨(by decide), (by decide), (by decide), ra.isLt, rd.isLt, (by decide), trivial⟩ rfl fun N at_ => ?_
  have p0 : bits N 0 5 = 18 := at_ 0
  have p1 : bits N 5 6 = 0 := at_ 1
  have p2 : bits N 11 5 = 0 := at_ 2
  have p3 : bits N 16 5 = ra.val := at_ 3
  have p4 : bits N 21 5 = rd.val := at_ 4
  have p5 : bits N 26 6 = 16 := at_ 5
  have h0 : bits N 0 11 = 18 := by rw [bits_join N 0 5 6, p0, p1]; rfl
  have h1 : bits N 0 16 = 18 := by rw [bits_join N 0 5 11, bits_join N 5 6 5, p0, p1, p2]; rfl
  exact (raw p5).trans (show decodeOp10 N = _ from ((if_neg (fun h => (differ p0 (by decide)) h.1)).trans ((if_neg (fun h => (differ p0 (by decide)) h.1)).trans ((if_neg (fun h => (differ p0 (by decide)) h.1)).trans ((if_neg (fun h => (differ p0 (by decide)) h.1)).trans ((if_neg (differ p0 (by decide))).trans ((if_neg (fun h => (differ p0 (by decide)) h.1)).trans ((if_neg (differ h0 (by decide))).trans ((if_neg (differ h0 (by decide))).trans ((if_neg (differ h1 (by decide))).trans ((if_neg (differ h1 (by decide))).trans ((if_neg (differ h0 (by decide))).trans ((if_neg (differ h0 (by decide))).trans ((if_neg (differ h0 (by decide))).trans ((if_neg (differ h1 (by decide))).trans ((if_neg (fun h => (differ p0 (by decide)) h.1)).trans ((if_neg (fun h => (differ p0 (by decide)) h.1)).trans ((if_neg (fun h => (differ p0 (by decide)) h.1)).trans ((if_neg (fun h => (differ p0 (by decide)) h.1)).trans ((if_pos h1).trans (by simp only [p4, p3, back_fin])))))))))))))))))))))

theorem RoundTrip.fcvtHS rd ra rm : RoundTrip.Statement (.fcvtHS rd ra rm) := by
  refine statement_of (l := [(19, 5), (rm.code, 2), (0, 4), (0, 5), (ra.val, 5), (rd.val, 5), (16, 6)]) rfl (by have := rm_lt rm; simp only [enc, wordOf]; omega) ⟨(by decide), (rm_lt rm), (by decide), (by decide), ra.isLt, rd.isLt, (by decide), trivial⟩ rfl fun N at_ => ?_
  have p0 : bits N 0 5 = 19 := at_ 0
  have p1 : bits N 5 2 = rm.code := at_ 1
  have p2 : bits N 7 4 = 0 := at_ 2
  have p3 : bits N 11 5 = 0 := at_ 3
  have p4 : bits N 16 5 = ra.val := at_ 4
  have p5 : bits N 21 5 = rd.val := at_ 5
  have p6 : bits N 26 6 = 16 := at_ 6
  have h0 : bits N 7 9 = 0 := by rw [bits_join N 7 4 5, p2, p3]; rfl
  have h1 : bits N 0 11 ≠ 6 := by rw [bits_join N 0 5 6, bits_join N 5 2 4, p0, p1, p2]; omega
  have h2 : bits N 0 11 ≠ 7 := by rw [bits_join N 0 5 6, bits_join N 5 2 4, p0, p1, p2]; omega
  have h3 : bits N 0 16 ≠ 8 := by rw [bits_join N 0 5 11, bits_join N 5 2 9, bits_join N 7 4 5, p0, p1, p2, p3]; omega
  have h4 : bits N 0 16 ≠ 9 := by rw [bits_join N 0 5 11, bits_join N 5 2 9, bits_join N 7 4 5, p0, p1, p2, p3]; omega
  have h5 : bits N 0 11 ≠ 10 := by rw [bits_join N 0 5 6, bits_join N 5 2 4, p0, p1, p2]; omega
  have h6 : bits N 0 11 ≠ 11 := by rw [bits_join N 0 5 6, bits_join N 5 2 4, p0, p1, p2]; omega
  have h7 : bits N 0 11 ≠ 12 := by rw [bits_join N 0 5 6, bits_join N 5 2 4, p0, p1, p2]; omega
  have h8 : bits N 0 16 ≠ 13 := by rw [bits_join N 0 5 11, bits_join N 5 2 9, bits_join N 7 4 5, p0, p1, p2, p3]; omega
  have h9 : bits N 0 16 ≠ 18 := by rw [bits_join N 0 5 11, bits_join N 5 2 9, bits_join N 7 4 5, p0, p1, p2, p3]; omega
  exact (raw p6).trans (show decodeOp10 N = _ from ((if_neg (fun h => (differ p0 (by decide)) h.1)).trans ((if_neg (fun h => (differ p0 (by decide)) h.1)).trans ((if_neg (fun h => (differ p0 (by decide)) h.1)).trans ((if_neg (fun h => (differ p0 (by decide)) h.1)).trans ((if_neg (differ p0 (by decide))).trans ((if_neg (fun h => (differ p0 (by decide)) h.1)).trans ((if_neg (h1)).trans ((if_neg (h2)).trans ((if_neg (h3)).trans ((if_neg (h4)).trans ((if_neg (h5)).trans ((if_neg (h6)).trans ((if_neg (h7)).trans ((if_neg (h8)).trans ((if_neg (fun h => (differ p0 (by decide)) h.1)).trans ((if_neg (fun h => (differ p0 (by decide)) h.1)).trans ((if_neg (fun h => (differ p0 (by decide)) h.1)).trans ((if_neg (fun h => (differ p0 (by decide)) h.1)).trans ((if_neg (h9)).trans ((if_pos ⟨p0, h0⟩).trans (by simp only [p5, p4, p1, back_rm, back_fin]))))))))))))))))))))))

theorem RoundTrip.fcvtSBF rd ra : RoundTrip.Statement (.fcvtSBF rd ra) := by
  refine statement_of (l := [(20, 5), (0, 6), (0, 5), (ra.val, 5), (rd.val, 5), (16, 6)]) rfl (by simp only [enc, wordOf]; omega) ⟨(by decide), (by decide), (by decide), ra.isLt, rd.isLt, (by decide), trivial⟩ rfl fun N at_ => ?_
  have p0 : bits N 0 5 = 20 := at_ 0
  have p1 : bits N 5 6 = 0 := at_ 1
  have p2 : bits N 11 5 = 0 := at_ 2
  have p3 : bits N 16 5 = ra.val := at_ 3
  have p4 : bits N 21 5 = rd.val := at_ 4
  have p5 : bits N 26 6 = 16 := at_ 5
  have h0 : bits N 0 11 = 20 := by rw [bits_join N 0 5 6, p0, p1]; rfl
  have h1 : bits N 0 16 = 20 := by rw [bits_join N 0 5 11, bits_join N 5 6 5, p0, p1, p2]; rfl
  exact (raw p5).trans (show decodeOp10 N = _ from ((if_neg (fun h => (differ p0 (by decide)) h.1)).trans ((if_neg (fun h => (differ p0 (by decide)) h.1)).trans ((if_neg (fun h => (differ p0 (by decide)) h.1)).trans ((if_neg (fun h => (differ p0 (by decide)) h.1)).trans ((if_neg (differ p0 (by decide))).trans ((if_neg (fun h => (differ p0 (by decide)) h.1)).trans ((if_neg (differ h0 (by decide))).trans ((if_neg (differ h0 (by decide))).trans ((if_neg (differ h1 (by decide))).trans ((if_neg (differ h1 (by decide))).trans ((if_neg (differ h0 (by decide))).trans ((if_neg (differ h0 (by decide))).trans ((if_neg (differ h0 (by decide))).trans ((if_neg (differ h1 (by decide))).trans ((if_neg (fun h => (differ p0 (by decide)) h.1)).trans ((if_neg (fun h => (differ p0 (by decide)) h.1)).trans ((if_neg (fun h => (differ p0 (by decide)) h.1)).trans ((if_neg (fun h => (differ p0 (by decide)) h.1)).trans ((if_neg (differ h1 (by decide))).trans ((if_neg (fun h => (differ p0 (by decide)) h.1)).trans ((if_pos h1).trans (by simp only [p4, p3, back_fin])))))))))))))))))))))))

theorem RoundTrip.fcvtBFS rd ra rm : RoundTrip.Statement (.fcvtBFS rd ra rm) := by
  refine statement_of (l := [(21, 5), (rm.code, 2), (0, 4), (0, 5), (ra.val, 5), (rd.val, 5), (16, 6)]) rfl (by have := rm_lt rm; simp only [enc, wordOf]; omega) ⟨(by decide), (rm_lt rm), (by decide), (by decide), ra.isLt, rd.isLt, (by decide), trivial⟩ rfl fun N at_ => ?_
  have p0 : bits N 0 5 = 21 := at_ 0
  have p1 : bits N 5 2 = rm.code := at_ 1
  have p2 : bits N 7 4 = 0 := at_ 2
  have p3 : bits N 11 5 = 0 := at_ 3
  have p4 : bits N 16 5 = ra.val := at_ 4
  have p5 : bits N 21 5 = rd.val := at_ 5
  have p6 : bits N 26 6 = 16 := at_ 6
  have h0 : bits N 7 9 = 0 := by rw [bits_join N 7 4 5, p2, p3]; rfl
  have h1 : bits N 0 11 ≠ 6 := by rw [bits_join N 0 5 6, bits_join N 5 2 4, p0, p1, p2]; omega
  have h2 : bits N 0 11 ≠ 7 := by rw [bits_join N 0 5 6, bits_join N 5 2 4, p0, p1, p2]; omega
  have h3 : bits N 0 16 ≠ 8 := by rw [bits_join N 0 5 11, bits_join N 5 2 9, bits_join N 7 4 5, p0, p1, p2, p3]; omega
  have h4 : bits N 0 16 ≠ 9 := by rw [bits_join N 0 5 11, bits_join N 5 2 9, bits_join N 7 4 5, p0, p1, p2, p3]; omega
  have h5 : bits N 0 11 ≠ 10 := by rw [bits_join N 0 5 6, bits_join N 5 2 4, p0, p1, p2]; omega
  have h6 : bits N 0 11 ≠ 11 := by rw [bits_join N 0 5 6, bits_join N 5 2 4, p0, p1, p2]; omega
  have h7 : bits N 0 11 ≠ 12 := by rw [bits_join N 0 5 6, bits_join N 5 2 4, p0, p1, p2]; omega
  have h8 : bits N 0 16 ≠ 13 := by rw [bits_join N 0 5 11, bits_join N 5 2 9, bits_join N 7 4 5, p0, p1, p2, p3]; omega
  have h9 : bits N 0 16 ≠ 18 := by rw [bits_join N 0 5 11, bits_join N 5 2 9, bits_join N 7 4 5, p0, p1, p2, p3]; omega
  have h10 : bits N 0 16 ≠ 20 := by rw [bits_join N 0 5 11, bits_join N 5 2 9, bits_join N 7 4 5, p0, p1, p2, p3]; omega
  exact (raw p6).trans (show decodeOp10 N = _ from ((if_neg (fun h => (differ p0 (by decide)) h.1)).trans ((if_neg (fun h => (differ p0 (by decide)) h.1)).trans ((if_neg (fun h => (differ p0 (by decide)) h.1)).trans ((if_neg (fun h => (differ p0 (by decide)) h.1)).trans ((if_neg (differ p0 (by decide))).trans ((if_neg (fun h => (differ p0 (by decide)) h.1)).trans ((if_neg (h1)).trans ((if_neg (h2)).trans ((if_neg (h3)).trans ((if_neg (h4)).trans ((if_neg (h5)).trans ((if_neg (h6)).trans ((if_neg (h7)).trans ((if_neg (h8)).trans ((if_neg (fun h => (differ p0 (by decide)) h.1)).trans ((if_neg (fun h => (differ p0 (by decide)) h.1)).trans ((if_neg (fun h => (differ p0 (by decide)) h.1)).trans ((if_neg (fun h => (differ p0 (by decide)) h.1)).trans ((if_neg (h9)).trans ((if_neg (fun h => (differ p0 (by decide)) h.1)).trans ((if_neg (h10)).trans ((if_pos ⟨p0, h0⟩).trans (by simp only [p5, p4, p1, back_rm, back_fin]))))))))))))))))))))))))

theorem RoundTrip.ld rd ra la sz s disp : RoundTrip.Statement (.ld rd ra la sz s disp) := by
  refine statement_of (l := [(disp.toNat, 7), (s.toNat, 1), (0, 2), (sz.val, 2), (la.val, 4), (ra.val, 5), (rd.val, 5), (20, 6)]) rfl (by have := flag_lt s; simp only [enc, wordOf]; omega) ⟨disp.isLt, (flag_lt s), (by decide), sz.isLt, la.isLt, ra.isLt, rd.isLt, (by decide), trivial⟩ rfl fun N at_ => ?_
  have p0 : bits N 0 7 = disp.toNat := at_ 0
  have p1 : bits N 7 1 = s.toNat := at_ 1
  have p2 : bits N 8 2 = 0 := at_ 2
  have p3 : bits N 10 2 = sz.val := at_ 3
  have p4 : bits N 12 4 = la.val := at_ 4
  have p5 : bits N 16 5 = ra.val := at_ 5
  have p6 : bits N 21 5 = rd.val := at_ 6
  have p7 : bits N 26 6 = 20 := at_ 7
  exact (raw p7).trans (show decodeOp14 N = _ from ((if_pos p2).trans (by simp only [p6, p5, p4, p3, p1, p0, back_fin, back_bits, back_flag])))

theorem RoundTrip.ldAcq rd ra la sz c disp : RoundTrip.Statement (.ldAcq rd ra la sz c disp) := by
  refine statement_of (l := [(disp.toNat, 7), (c.code, 3), (sz.val, 2), (la.val, 4), (ra.val, 5), (rd.val, 5), (21, 6)]) rfl (by have := scope_lt c; simp only [enc, wordOf]; omega) ⟨disp.isLt, (scope_lt c), sz.isLt, la.isLt, ra.isLt, rd.isLt, (by decide), trivial⟩ rfl fun N at_ => ?_
  have p0 : bits N 0 7 = disp.toNat := at_ 0
  have p1 : bits N 7 3 = c.code := at_ 1
  have p2 : bits N 10 2 = sz.val := at_ 2
  have p3 : bits N 12 4 = la.val := at_ 3
  have p4 : bits N 16 5 = ra.val := at_ 4
  have p5 : bits N 21 5 = rd.val := at_ 5
  have p6 : bits N 26 6 = 21 := at_ 6
  exact (raw p6).trans (show decodeOp15 N = _ from (by unfold decodeOp15; simp only [p1, p5, p4, p3, p2, p0, back_scope, back_fin, back_bits, Option.bind_some]))

theorem RoundTrip.st rd ra sz disp : RoundTrip.Statement (.st rd ra sz disp) := by
  refine statement_of (l := [(disp.toNat, 7), (0, 3), (sz.val, 2), (0, 4), (ra.val, 5), (rd.val, 5), (22, 6)]) rfl (by simp only [enc, wordOf]; omega) ⟨disp.isLt, (by decide), sz.isLt, (by decide), ra.isLt, rd.isLt, (by decide), trivial⟩ rfl fun N at_ => ?_
  have p0 : bits N 0 7 = disp.toNat := at_ 0
  have p1 : bits N 7 3 = 0 := at_ 1
  have p2 : bits N 10 2 = sz.val := at_ 2
  have p3 : bits N 12 4 = 0 := at_ 3
  have p4 : bits N 16 5 = ra.val := at_ 4
  have p5 : bits N 21 5 = rd.val := at_ 5
  have p6 : bits N 26 6 = 22 := at_ 6
  exact (raw p6).trans (show decodeOp16 N = _ from ((if_pos ⟨p1, p3⟩).trans (by simp only [p5, p4, p2, p0, back_fin, back_bits])))

theorem RoundTrip.stf rd ra sz disp : RoundTrip.Statement (.stf rd ra sz disp) := by
  refine statement_of (l := [(disp.toNat, 7), (1, 3), (sz.val, 2), (0, 4), (ra.val, 5), (rd.val, 5), (22, 6)]) rfl (by simp only [enc, wordOf]; omega) ⟨disp.isLt, (by decide), sz.isLt, (by decide), ra.isLt, rd.isLt, (by decide), trivial⟩ rfl fun N at_ => ?_
  have p0 : bits N 0 7 = disp.toNat := at_ 0
  have p1 : bits N 7 3 = 1 := at_ 1
  have p2 : bits N 10 2 = sz.val := at_ 2
  have p3 : bits N 12 4 = 0 := at_ 3
  have p4 : bits N 16 5 = ra.val := at_ 4
  have p5 : bits N 21 5 = rd.val := at_ 5
  have p6 : bits N 26 6 = 22 := at_ 6
  exact (raw p6).trans (show decodeOp16 N = _ from ((if_neg (fun h => (differ p1 (by decide)) h.1)).trans ((if_pos ⟨p1, p3⟩).trans (by simp only [p5, p4, p2, p0, back_fin, back_bits]))))

theorem RoundTrip.stRel rd ra sz c disp : RoundTrip.Statement (.stRel rd ra sz c disp) := by
  refine statement_of (l := [(disp.toNat, 7), (c.code, 3), (sz.val, 2), (0, 4), (ra.val, 5), (rd.val, 5), (23, 6)]) rfl (by have := scope_lt c; simp only [enc, wordOf]; omega) ⟨disp.isLt, (scope_lt c), sz.isLt, (by decide), ra.isLt, rd.isLt, (by decide), trivial⟩ rfl fun N at_ => ?_
  have p0 : bits N 0 7 = disp.toNat := at_ 0
  have p1 : bits N 7 3 = c.code := at_ 1
  have p2 : bits N 10 2 = sz.val := at_ 2
  have p3 : bits N 12 4 = 0 := at_ 3
  have p4 : bits N 16 5 = ra.val := at_ 4
  have p5 : bits N 21 5 = rd.val := at_ 5
  have p6 : bits N 26 6 = 23 := at_ 6
  exact (raw p6).trans (show decodeOp17 N = _ from ((if_pos p3).trans (by simp only [p1, p5, p4, p2, p0, back_scope, back_fin, back_bits, Option.bind_some])))

theorem RoundTrip.lds rd ra la sz c disp : RoundTrip.Statement (.lds rd ra la sz c disp) := by
  refine statement_of (l := [(disp.toNat, 7), (c.toNat, 1), (0, 2), (sz.val, 2), (la.val, 4), (ra.val, 5), (rd.val, 5), (24, 6)]) rfl (by have := flag_lt c; simp only [enc, wordOf]; omega) ⟨disp.isLt, (flag_lt c), (by decide), sz.isLt, la.isLt, ra.isLt, rd.isLt, (by decide), trivial⟩ rfl fun N at_ => ?_
  have p0 : bits N 0 7 = disp.toNat := at_ 0
  have p1 : bits N 7 1 = c.toNat := at_ 1
  have p2 : bits N 8 2 = 0 := at_ 2
  have p3 : bits N 10 2 = sz.val := at_ 3
  have p4 : bits N 12 4 = la.val := at_ 4
  have p5 : bits N 16 5 = ra.val := at_ 5
  have p6 : bits N 21 5 = rd.val := at_ 6
  have p7 : bits N 26 6 = 24 := at_ 7
  exact (raw p7).trans (show decodeOp18 N = _ from ((if_pos p2).trans (by simp only [p6, p5, p4, p3, p1, p0, back_fin, back_bits, back_flag])))

theorem RoundTrip.ldf rd ra sz disp : RoundTrip.Statement (.ldf rd ra sz disp) := by
  refine statement_of (l := [(disp.toNat, 7), (0, 3), (sz.val, 2), (0, 4), (ra.val, 5), (rd.val, 5), (25, 6)]) rfl (by simp only [enc, wordOf]; omega) ⟨disp.isLt, (by decide), sz.isLt, (by decide), ra.isLt, rd.isLt, (by decide), trivial⟩ rfl fun N at_ => ?_
  have p0 : bits N 0 7 = disp.toNat := at_ 0
  have p1 : bits N 7 3 = 0 := at_ 1
  have p2 : bits N 10 2 = sz.val := at_ 2
  have p3 : bits N 12 4 = 0 := at_ 3
  have p4 : bits N 16 5 = ra.val := at_ 4
  have p5 : bits N 21 5 = rd.val := at_ 5
  have p6 : bits N 26 6 = 25 := at_ 6
  exact (raw p6).trans (show decodeOp19 N = _ from ((if_pos ⟨p1, p3⟩).trans (by simp only [p5, p4, p2, p0, back_fin, back_bits])))

theorem RoundTrip.vld rd ra la k disp : RoundTrip.Statement (.vld rd ra la k disp) := by
  refine statement_of (l := [(disp.toNat, 7), (k.val, 3), (2, 2), (la.val, 4), (ra.val, 5), (rd.val, 4), (0, 1), (26, 6)]) rfl (by simp only [enc, wordOf]; omega) ⟨disp.isLt, k.isLt, (by decide), la.isLt, ra.isLt, rd.isLt, (by decide), (by decide), trivial⟩ rfl fun N at_ => ?_
  have p0 : bits N 0 7 = disp.toNat := at_ 0
  have p1 : bits N 7 3 = k.val := at_ 1
  have p2 : bits N 10 2 = 2 := at_ 2
  have p3 : bits N 12 4 = la.val := at_ 3
  have p4 : bits N 16 5 = ra.val := at_ 4
  have p5 : bits N 21 4 = rd.val := at_ 5
  have p6 : bits N 25 1 = 0 := at_ 6
  have p7 : bits N 26 6 = 26 := at_ 7
  exact (raw p7).trans (show decodeOp1A N = _ from ((if_pos ⟨p2, p6⟩).trans (by simp only [p5, p4, p3, p1, p0, back_fin, back_bits])))

theorem RoundTrip.vst rd ra k disp : RoundTrip.Statement (.vst rd ra k disp) := by
  refine statement_of (l := [(disp.toNat, 7), (k.val, 3), (2, 6), (ra.val, 5), (rd.val, 4), (0, 1), (28, 6)]) rfl (by simp only [enc, wordOf]; omega) ⟨disp.isLt, k.isLt, (by decide), ra.isLt, rd.isLt, (by decide), (by decide), trivial⟩ rfl fun N at_ => ?_
  have p0 : bits N 0 7 = disp.toNat := at_ 0
  have p1 : bits N 7 3 = k.val := at_ 1
  have p2 : bits N 10 6 = 2 := at_ 2
  have p3 : bits N 16 5 = ra.val := at_ 3
  have p4 : bits N 21 4 = rd.val := at_ 4
  have p5 : bits N 25 1 = 0 := at_ 5
  have p6 : bits N 26 6 = 28 := at_ 6
  exact (raw p6).trans (show decodeOp1C N = _ from ((if_pos ⟨p2, p5⟩).trans (by simp only [p4, p3, p1, p0, back_fin, back_bits])))

theorem RoundTrip.vlds rd ra rb la k : RoundTrip.Statement (.vlds rd ra rb la k) := by
  refine statement_of (l := [(8, 4), (k.val, 3), (la.val, 4), (rb.val, 5), (ra.val, 5), (rd.val, 4), (0, 1), (27, 6)]) rfl (by simp only [enc, wordOf]; omega) ⟨(by decide), k.isLt, la.isLt, rb.isLt, ra.isLt, rd.isLt, (by decide), (by decide), trivial⟩ rfl fun N at_ => ?_
  have p0 : bits N 0 4 = 8 := at_ 0
  have p1 : bits N 4 3 = k.val := at_ 1
  have p2 : bits N 7 4 = la.val := at_ 2
  have p3 : bits N 11 5 = rb.val := at_ 3
  have p4 : bits N 16 5 = ra.val := at_ 4
  have p5 : bits N 21 4 = rd.val := at_ 5
  have p6 : bits N 25 1 = 0 := at_ 6
  have p7 : bits N 26 6 = 27 := at_ 7
  exact (raw p7).trans (show decodeOp1B N = _ from ((if_pos ⟨p0, p6⟩).trans (by simp only [p5, p4, p3, p2, p1, back_fin])))

theorem RoundTrip.vsts rd ra rb k : RoundTrip.Statement (.vsts rd ra rb k) := by
  refine statement_of (l := [(9, 4), (k.val, 3), (0, 4), (rb.val, 5), (ra.val, 5), (rd.val, 4), (0, 1), (27, 6)]) rfl (by simp only [enc, wordOf]; omega) ⟨(by decide), k.isLt, (by decide), rb.isLt, ra.isLt, rd.isLt, (by decide), (by decide), trivial⟩ rfl fun N at_ => ?_
  have p0 : bits N 0 4 = 9 := at_ 0
  have p1 : bits N 4 3 = k.val := at_ 1
  have p2 : bits N 7 4 = 0 := at_ 2
  have p3 : bits N 11 5 = rb.val := at_ 3
  have p4 : bits N 16 5 = ra.val := at_ 4
  have p5 : bits N 21 4 = rd.val := at_ 5
  have p6 : bits N 25 1 = 0 := at_ 6
  have p7 : bits N 26 6 = 27 := at_ 7
  exact (raw p7).trans (show decodeOp1B N = _ from ((if_neg (fun h => (differ p0 (by decide)) h.1)).trans ((if_pos ⟨p0, p2, p6⟩).trans (by simp only [p5, p4, p3, p1, back_fin]))))

theorem RoundTrip.vldi rd ra rb la k : RoundTrip.Statement (.vldi rd ra rb la k) := by
  refine statement_of (l := [(10, 4), (k.val, 3), (la.val, 4), (rb.val, 4), (0, 1), (ra.val, 5), (rd.val, 4), (0, 1), (27, 6)]) rfl (by simp only [enc, wordOf]; omega) ⟨(by decide), k.isLt, la.isLt, rb.isLt, (by decide), ra.isLt, rd.isLt, (by decide), (by decide), trivial⟩ rfl fun N at_ => ?_
  have p0 : bits N 0 4 = 10 := at_ 0
  have p1 : bits N 4 3 = k.val := at_ 1
  have p2 : bits N 7 4 = la.val := at_ 2
  have p3 : bits N 11 4 = rb.val := at_ 3
  have p4 : bits N 15 1 = 0 := at_ 4
  have p5 : bits N 16 5 = ra.val := at_ 5
  have p6 : bits N 21 4 = rd.val := at_ 6
  have p7 : bits N 25 1 = 0 := at_ 7
  have p8 : bits N 26 6 = 27 := at_ 8
  exact (raw p8).trans (show decodeOp1B N = _ from ((if_neg (fun h => (differ p0 (by decide)) h.1)).trans ((if_neg (fun h => (differ p0 (by decide)) h.1)).trans ((if_pos ⟨p0, p4, p7⟩).trans (by simp only [p6, p5, p3, p2, p1, back_fin])))))

theorem RoundTrip.vsti rd ra rb k : RoundTrip.Statement (.vsti rd ra rb k) := by
  refine statement_of (l := [(11, 4), (k.val, 3), (0, 4), (rb.val, 4), (0, 1), (ra.val, 5), (rd.val, 4), (0, 1), (27, 6)]) rfl (by simp only [enc, wordOf]; omega) ⟨(by decide), k.isLt, (by decide), rb.isLt, (by decide), ra.isLt, rd.isLt, (by decide), (by decide), trivial⟩ rfl fun N at_ => ?_
  have p0 : bits N 0 4 = 11 := at_ 0
  have p1 : bits N 4 3 = k.val := at_ 1
  have p2 : bits N 7 4 = 0 := at_ 2
  have p3 : bits N 11 4 = rb.val := at_ 3
  have p4 : bits N 15 1 = 0 := at_ 4
  have p5 : bits N 16 5 = ra.val := at_ 5
  have p6 : bits N 21 4 = rd.val := at_ 6
  have p7 : bits N 25 1 = 0 := at_ 7
  have p8 : bits N 26 6 = 27 := at_ 8
  exact (raw p8).trans (show decodeOp1B N = _ from ((if_neg (fun h => (differ p0 (by decide)) h.1)).trans ((if_neg (fun h => (differ p0 (by decide)) h.1)).trans ((if_neg (fun h => (differ p0 (by decide)) h.1)).trans ((if_pos ⟨p0, p2, p4, p7⟩).trans (by simp only [p6, p5, p3, p1, back_fin]))))))

theorem RoundTrip.aswapW rd ra rb la c : RoundTrip.Statement (.aswapW rd ra rb la c) := by
  refine statement_of (l := [(0, 4), (c.code, 3), (la.val, 4), (rb.val, 5), (ra.val, 5), (rd.val, 5), (30, 6)]) rfl (by have := scope_lt c; simp only [enc, wordOf]; omega) ⟨(by decide), (scope_lt c), la.isLt, rb.isLt, ra.isLt, rd.isLt, (by decide), trivial⟩ rfl fun N at_ => ?_
  have p0 : bits N 0 4 = 0 := at_ 0
  have p1 : bits N 4 3 = c.code := at_ 1
  have p2 : bits N 7 4 = la.val := at_ 2
  have p3 : bits N 11 5 = rb.val := at_ 3
  have p4 : bits N 16 5 = ra.val := at_ 4
  have p5 : bits N 21 5 = rd.val := at_ 5
  have p6 : bits N 26 6 = 30 := at_ 6
  exact (raw p6).trans (show decodeOp1E N = _ from ((if_pos p0).trans (by simp only [p1, p5, p4, p3, p2, back_scope, back_fin, Option.bind_some])))

theorem RoundTrip.aswapD rd ra rb la c : RoundTrip.Statement (.aswapD rd ra rb la c) := by
  refine statement_of (l := [(0, 4), (c.code, 3), (la.val, 4), (rb.val, 5), (ra.val, 5), (rd.val, 5), (31, 6)]) rfl (by have := scope_lt c; simp only [enc, wordOf]; omega) ⟨(by decide), (scope_lt c), la.isLt, rb.isLt, ra.isLt, rd.isLt, (by decide), trivial⟩ rfl fun N at_ => ?_
  have p0 : bits N 0 4 = 0 := at_ 0
  have p1 : bits N 4 3 = c.code := at_ 1
  have p2 : bits N 7 4 = la.val := at_ 2
  have p3 : bits N 11 5 = rb.val := at_ 3
  have p4 : bits N 16 5 = ra.val := at_ 4
  have p5 : bits N 21 5 = rd.val := at_ 5
  have p6 : bits N 26 6 = 31 := at_ 6
  exact (raw p6).trans (show decodeOp1F N = _ from ((if_pos p0).trans (by simp only [p1, p5, p4, p3, p2, back_scope, back_fin, Option.bind_some])))

theorem RoundTrip.aswapQ rd ra rb la c : RoundTrip.Statement (.aswapQ rd ra rb la c) := by
  refine statement_of (l := [(0, 4), (c.code, 3), (la.val, 4), (0, 1), (rb.val, 4), (ra.val, 5), (0, 1), (rd.val, 4), (32, 6)]) rfl (by have := scope_lt c; simp only [enc, wordOf]; omega) ⟨(by decide), (scope_lt c), la.isLt, (by decide), rb.isLt, ra.isLt, (by decide), rd.isLt, (by decide), trivial⟩ rfl fun N at_ => ?_
  have p0 : bits N 0 4 = 0 := at_ 0
  have p1 : bits N 4 3 = c.code := at_ 1
  have p2 : bits N 7 4 = la.val := at_ 2
  have p3 : bits N 11 1 = 0 := at_ 3
  have p4 : bits N 12 4 = rb.val := at_ 4
  have p5 : bits N 16 5 = ra.val := at_ 5
  have p6 : bits N 21 1 = 0 := at_ 6
  have p7 : bits N 22 4 = rd.val := at_ 7
  have p8 : bits N 26 6 = 32 := at_ 8
  exact (raw p8).trans (show decodeOp20 N = _ from ((if_pos ⟨p0, p3, p6⟩).trans (by simp only [p1, p7, p5, p4, p2, back_scope, back_fin, Option.bind_some])))

theorem RoundTrip.aaddW rd ra rb la c : RoundTrip.Statement (.aaddW rd ra rb la c) := by
  refine statement_of (l := [(1, 4), (c.code, 3), (la.val, 4), (rb.val, 5), (ra.val, 5), (rd.val, 5), (30, 6)]) rfl (by have := scope_lt c; simp only [enc, wordOf]; omega) ⟨(by decide), (scope_lt c), la.isLt, rb.isLt, ra.isLt, rd.isLt, (by decide), trivial⟩ rfl fun N at_ => ?_
  have p0 : bits N 0 4 = 1 := at_ 0
  have p1 : bits N 4 3 = c.code := at_ 1
  have p2 : bits N 7 4 = la.val := at_ 2
  have p3 : bits N 11 5 = rb.val := at_ 3
  have p4 : bits N 16 5 = ra.val := at_ 4
  have p5 : bits N 21 5 = rd.val := at_ 5
  have p6 : bits N 26 6 = 30 := at_ 6
  exact (raw p6).trans (show decodeOp1E N = _ from ((if_neg (differ p0 (by decide))).trans ((if_pos p0).trans (by simp only [p1, p5, p4, p3, p2, back_scope, back_fin, Option.bind_some]))))

theorem RoundTrip.aaddD rd ra rb la c : RoundTrip.Statement (.aaddD rd ra rb la c) := by
  refine statement_of (l := [(1, 4), (c.code, 3), (la.val, 4), (rb.val, 5), (ra.val, 5), (rd.val, 5), (31, 6)]) rfl (by have := scope_lt c; simp only [enc, wordOf]; omega) ⟨(by decide), (scope_lt c), la.isLt, rb.isLt, ra.isLt, rd.isLt, (by decide), trivial⟩ rfl fun N at_ => ?_
  have p0 : bits N 0 4 = 1 := at_ 0
  have p1 : bits N 4 3 = c.code := at_ 1
  have p2 : bits N 7 4 = la.val := at_ 2
  have p3 : bits N 11 5 = rb.val := at_ 3
  have p4 : bits N 16 5 = ra.val := at_ 4
  have p5 : bits N 21 5 = rd.val := at_ 5
  have p6 : bits N 26 6 = 31 := at_ 6
  exact (raw p6).trans (show decodeOp1F N = _ from ((if_neg (differ p0 (by decide))).trans ((if_pos p0).trans (by simp only [p1, p5, p4, p3, p2, back_scope, back_fin, Option.bind_some]))))

theorem RoundTrip.aandW rd ra rb la c : RoundTrip.Statement (.aandW rd ra rb la c) := by
  refine statement_of (l := [(2, 4), (c.code, 3), (la.val, 4), (rb.val, 5), (ra.val, 5), (rd.val, 5), (30, 6)]) rfl (by have := scope_lt c; simp only [enc, wordOf]; omega) ⟨(by decide), (scope_lt c), la.isLt, rb.isLt, ra.isLt, rd.isLt, (by decide), trivial⟩ rfl fun N at_ => ?_
  have p0 : bits N 0 4 = 2 := at_ 0
  have p1 : bits N 4 3 = c.code := at_ 1
  have p2 : bits N 7 4 = la.val := at_ 2
  have p3 : bits N 11 5 = rb.val := at_ 3
  have p4 : bits N 16 5 = ra.val := at_ 4
  have p5 : bits N 21 5 = rd.val := at_ 5
  have p6 : bits N 26 6 = 30 := at_ 6
  exact (raw p6).trans (show decodeOp1E N = _ from ((if_neg (differ p0 (by decide))).trans ((if_neg (differ p0 (by decide))).trans ((if_pos p0).trans (by simp only [p1, p5, p4, p3, p2, back_scope, back_fin, Option.bind_some])))))

theorem RoundTrip.aandD rd ra rb la c : RoundTrip.Statement (.aandD rd ra rb la c) := by
  refine statement_of (l := [(2, 4), (c.code, 3), (la.val, 4), (rb.val, 5), (ra.val, 5), (rd.val, 5), (31, 6)]) rfl (by have := scope_lt c; simp only [enc, wordOf]; omega) ⟨(by decide), (scope_lt c), la.isLt, rb.isLt, ra.isLt, rd.isLt, (by decide), trivial⟩ rfl fun N at_ => ?_
  have p0 : bits N 0 4 = 2 := at_ 0
  have p1 : bits N 4 3 = c.code := at_ 1
  have p2 : bits N 7 4 = la.val := at_ 2
  have p3 : bits N 11 5 = rb.val := at_ 3
  have p4 : bits N 16 5 = ra.val := at_ 4
  have p5 : bits N 21 5 = rd.val := at_ 5
  have p6 : bits N 26 6 = 31 := at_ 6
  exact (raw p6).trans (show decodeOp1F N = _ from ((if_neg (differ p0 (by decide))).trans ((if_neg (differ p0 (by decide))).trans ((if_pos p0).trans (by simp only [p1, p5, p4, p3, p2, back_scope, back_fin, Option.bind_some])))))

theorem RoundTrip.aorW rd ra rb la c : RoundTrip.Statement (.aorW rd ra rb la c) := by
  refine statement_of (l := [(3, 4), (c.code, 3), (la.val, 4), (rb.val, 5), (ra.val, 5), (rd.val, 5), (30, 6)]) rfl (by have := scope_lt c; simp only [enc, wordOf]; omega) ⟨(by decide), (scope_lt c), la.isLt, rb.isLt, ra.isLt, rd.isLt, (by decide), trivial⟩ rfl fun N at_ => ?_
  have p0 : bits N 0 4 = 3 := at_ 0
  have p1 : bits N 4 3 = c.code := at_ 1
  have p2 : bits N 7 4 = la.val := at_ 2
  have p3 : bits N 11 5 = rb.val := at_ 3
  have p4 : bits N 16 5 = ra.val := at_ 4
  have p5 : bits N 21 5 = rd.val := at_ 5
  have p6 : bits N 26 6 = 30 := at_ 6
  exact (raw p6).trans (show decodeOp1E N = _ from ((if_neg (differ p0 (by decide))).trans ((if_neg (differ p0 (by decide))).trans ((if_neg (differ p0 (by decide))).trans ((if_pos p0).trans (by simp only [p1, p5, p4, p3, p2, back_scope, back_fin, Option.bind_some]))))))

theorem RoundTrip.aorD rd ra rb la c : RoundTrip.Statement (.aorD rd ra rb la c) := by
  refine statement_of (l := [(3, 4), (c.code, 3), (la.val, 4), (rb.val, 5), (ra.val, 5), (rd.val, 5), (31, 6)]) rfl (by have := scope_lt c; simp only [enc, wordOf]; omega) ⟨(by decide), (scope_lt c), la.isLt, rb.isLt, ra.isLt, rd.isLt, (by decide), trivial⟩ rfl fun N at_ => ?_
  have p0 : bits N 0 4 = 3 := at_ 0
  have p1 : bits N 4 3 = c.code := at_ 1
  have p2 : bits N 7 4 = la.val := at_ 2
  have p3 : bits N 11 5 = rb.val := at_ 3
  have p4 : bits N 16 5 = ra.val := at_ 4
  have p5 : bits N 21 5 = rd.val := at_ 5
  have p6 : bits N 26 6 = 31 := at_ 6
  exact (raw p6).trans (show decodeOp1F N = _ from ((if_neg (differ p0 (by decide))).trans ((if_neg (differ p0 (by decide))).trans ((if_neg (differ p0 (by decide))).trans ((if_pos p0).trans (by simp only [p1, p5, p4, p3, p2, back_scope, back_fin, Option.bind_some]))))))

theorem RoundTrip.axorW rd ra rb la c : RoundTrip.Statement (.axorW rd ra rb la c) := by
  refine statement_of (l := [(4, 4), (c.code, 3), (la.val, 4), (rb.val, 5), (ra.val, 5), (rd.val, 5), (30, 6)]) rfl (by have := scope_lt c; simp only [enc, wordOf]; omega) ⟨(by decide), (scope_lt c), la.isLt, rb.isLt, ra.isLt, rd.isLt, (by decide), trivial⟩ rfl fun N at_ => ?_
  have p0 : bits N 0 4 = 4 := at_ 0
  have p1 : bits N 4 3 = c.code := at_ 1
  have p2 : bits N 7 4 = la.val := at_ 2
  have p3 : bits N 11 5 = rb.val := at_ 3
  have p4 : bits N 16 5 = ra.val := at_ 4
  have p5 : bits N 21 5 = rd.val := at_ 5
  have p6 : bits N 26 6 = 30 := at_ 6
  exact (raw p6).trans (show decodeOp1E N = _ from ((if_neg (differ p0 (by decide))).trans ((if_neg (differ p0 (by decide))).trans ((if_neg (differ p0 (by decide))).trans ((if_neg (differ p0 (by decide))).trans ((if_pos p0).trans (by simp only [p1, p5, p4, p3, p2, back_scope, back_fin, Option.bind_some])))))))

theorem RoundTrip.axorD rd ra rb la c : RoundTrip.Statement (.axorD rd ra rb la c) := by
  refine statement_of (l := [(4, 4), (c.code, 3), (la.val, 4), (rb.val, 5), (ra.val, 5), (rd.val, 5), (31, 6)]) rfl (by have := scope_lt c; simp only [enc, wordOf]; omega) ⟨(by decide), (scope_lt c), la.isLt, rb.isLt, ra.isLt, rd.isLt, (by decide), trivial⟩ rfl fun N at_ => ?_
  have p0 : bits N 0 4 = 4 := at_ 0
  have p1 : bits N 4 3 = c.code := at_ 1
  have p2 : bits N 7 4 = la.val := at_ 2
  have p3 : bits N 11 5 = rb.val := at_ 3
  have p4 : bits N 16 5 = ra.val := at_ 4
  have p5 : bits N 21 5 = rd.val := at_ 5
  have p6 : bits N 26 6 = 31 := at_ 6
  exact (raw p6).trans (show decodeOp1F N = _ from ((if_neg (differ p0 (by decide))).trans ((if_neg (differ p0 (by decide))).trans ((if_neg (differ p0 (by decide))).trans ((if_neg (differ p0 (by decide))).trans ((if_pos p0).trans (by simp only [p1, p5, p4, p3, p2, back_scope, back_fin, Option.bind_some])))))))

theorem RoundTrip.aminW rd ra rb la c : RoundTrip.Statement (.aminW rd ra rb la c) := by
  refine statement_of (l := [(5, 4), (c.code, 3), (la.val, 4), (rb.val, 5), (ra.val, 5), (rd.val, 5), (30, 6)]) rfl (by have := scope_lt c; simp only [enc, wordOf]; omega) ⟨(by decide), (scope_lt c), la.isLt, rb.isLt, ra.isLt, rd.isLt, (by decide), trivial⟩ rfl fun N at_ => ?_
  have p0 : bits N 0 4 = 5 := at_ 0
  have p1 : bits N 4 3 = c.code := at_ 1
  have p2 : bits N 7 4 = la.val := at_ 2
  have p3 : bits N 11 5 = rb.val := at_ 3
  have p4 : bits N 16 5 = ra.val := at_ 4
  have p5 : bits N 21 5 = rd.val := at_ 5
  have p6 : bits N 26 6 = 30 := at_ 6
  exact (raw p6).trans (show decodeOp1E N = _ from ((if_neg (differ p0 (by decide))).trans ((if_neg (differ p0 (by decide))).trans ((if_neg (differ p0 (by decide))).trans ((if_neg (differ p0 (by decide))).trans ((if_neg (differ p0 (by decide))).trans ((if_pos p0).trans (by simp only [p1, p5, p4, p3, p2, back_scope, back_fin, Option.bind_some]))))))))

theorem RoundTrip.aminD rd ra rb la c : RoundTrip.Statement (.aminD rd ra rb la c) := by
  refine statement_of (l := [(5, 4), (c.code, 3), (la.val, 4), (rb.val, 5), (ra.val, 5), (rd.val, 5), (31, 6)]) rfl (by have := scope_lt c; simp only [enc, wordOf]; omega) ⟨(by decide), (scope_lt c), la.isLt, rb.isLt, ra.isLt, rd.isLt, (by decide), trivial⟩ rfl fun N at_ => ?_
  have p0 : bits N 0 4 = 5 := at_ 0
  have p1 : bits N 4 3 = c.code := at_ 1
  have p2 : bits N 7 4 = la.val := at_ 2
  have p3 : bits N 11 5 = rb.val := at_ 3
  have p4 : bits N 16 5 = ra.val := at_ 4
  have p5 : bits N 21 5 = rd.val := at_ 5
  have p6 : bits N 26 6 = 31 := at_ 6
  exact (raw p6).trans (show decodeOp1F N = _ from ((if_neg (differ p0 (by decide))).trans ((if_neg (differ p0 (by decide))).trans ((if_neg (differ p0 (by decide))).trans ((if_neg (differ p0 (by decide))).trans ((if_neg (differ p0 (by decide))).trans ((if_pos p0).trans (by simp only [p1, p5, p4, p3, p2, back_scope, back_fin, Option.bind_some]))))))))

theorem RoundTrip.amaxW rd ra rb la c : RoundTrip.Statement (.amaxW rd ra rb la c) := by
  refine statement_of (l := [(6, 4), (c.code, 3), (la.val, 4), (rb.val, 5), (ra.val, 5), (rd.val, 5), (30, 6)]) rfl (by have := scope_lt c; simp only [enc, wordOf]; omega) ⟨(by decide), (scope_lt c), la.isLt, rb.isLt, ra.isLt, rd.isLt, (by decide), trivial⟩ rfl fun N at_ => ?_
  have p0 : bits N 0 4 = 6 := at_ 0
  have p1 : bits N 4 3 = c.code := at_ 1
  have p2 : bits N 7 4 = la.val := at_ 2
  have p3 : bits N 11 5 = rb.val := at_ 3
  have p4 : bits N 16 5 = ra.val := at_ 4
  have p5 : bits N 21 5 = rd.val := at_ 5
  have p6 : bits N 26 6 = 30 := at_ 6
  exact (raw p6).trans (show decodeOp1E N = _ from ((if_neg (differ p0 (by decide))).trans ((if_neg (differ p0 (by decide))).trans ((if_neg (differ p0 (by decide))).trans ((if_neg (differ p0 (by decide))).trans ((if_neg (differ p0 (by decide))).trans ((if_neg (differ p0 (by decide))).trans ((if_pos p0).trans (by simp only [p1, p5, p4, p3, p2, back_scope, back_fin, Option.bind_some])))))))))

theorem RoundTrip.amaxD rd ra rb la c : RoundTrip.Statement (.amaxD rd ra rb la c) := by
  refine statement_of (l := [(6, 4), (c.code, 3), (la.val, 4), (rb.val, 5), (ra.val, 5), (rd.val, 5), (31, 6)]) rfl (by have := scope_lt c; simp only [enc, wordOf]; omega) ⟨(by decide), (scope_lt c), la.isLt, rb.isLt, ra.isLt, rd.isLt, (by decide), trivial⟩ rfl fun N at_ => ?_
  have p0 : bits N 0 4 = 6 := at_ 0
  have p1 : bits N 4 3 = c.code := at_ 1
  have p2 : bits N 7 4 = la.val := at_ 2
  have p3 : bits N 11 5 = rb.val := at_ 3
  have p4 : bits N 16 5 = ra.val := at_ 4
  have p5 : bits N 21 5 = rd.val := at_ 5
  have p6 : bits N 26 6 = 31 := at_ 6
  exact (raw p6).trans (show decodeOp1F N = _ from ((if_neg (differ p0 (by decide))).trans ((if_neg (differ p0 (by decide))).trans ((if_neg (differ p0 (by decide))).trans ((if_neg (differ p0 (by decide))).trans ((if_neg (differ p0 (by decide))).trans ((if_neg (differ p0 (by decide))).trans ((if_pos p0).trans (by simp only [p1, p5, p4, p3, p2, back_scope, back_fin, Option.bind_some])))))))))

theorem RoundTrip.aminuW rd ra rb la c : RoundTrip.Statement (.aminuW rd ra rb la c) := by
  refine statement_of (l := [(7, 4), (c.code, 3), (la.val, 4), (rb.val, 5), (ra.val, 5), (rd.val, 5), (30, 6)]) rfl (by have := scope_lt c; simp only [enc, wordOf]; omega) ⟨(by decide), (scope_lt c), la.isLt, rb.isLt, ra.isLt, rd.isLt, (by decide), trivial⟩ rfl fun N at_ => ?_
  have p0 : bits N 0 4 = 7 := at_ 0
  have p1 : bits N 4 3 = c.code := at_ 1
  have p2 : bits N 7 4 = la.val := at_ 2
  have p3 : bits N 11 5 = rb.val := at_ 3
  have p4 : bits N 16 5 = ra.val := at_ 4
  have p5 : bits N 21 5 = rd.val := at_ 5
  have p6 : bits N 26 6 = 30 := at_ 6
  exact (raw p6).trans (show decodeOp1E N = _ from ((if_neg (differ p0 (by decide))).trans ((if_neg (differ p0 (by decide))).trans ((if_neg (differ p0 (by decide))).trans ((if_neg (differ p0 (by decide))).trans ((if_neg (differ p0 (by decide))).trans ((if_neg (differ p0 (by decide))).trans ((if_neg (differ p0 (by decide))).trans ((if_pos p0).trans (by simp only [p1, p5, p4, p3, p2, back_scope, back_fin, Option.bind_some]))))))))))

theorem RoundTrip.aminuD rd ra rb la c : RoundTrip.Statement (.aminuD rd ra rb la c) := by
  refine statement_of (l := [(7, 4), (c.code, 3), (la.val, 4), (rb.val, 5), (ra.val, 5), (rd.val, 5), (31, 6)]) rfl (by have := scope_lt c; simp only [enc, wordOf]; omega) ⟨(by decide), (scope_lt c), la.isLt, rb.isLt, ra.isLt, rd.isLt, (by decide), trivial⟩ rfl fun N at_ => ?_
  have p0 : bits N 0 4 = 7 := at_ 0
  have p1 : bits N 4 3 = c.code := at_ 1
  have p2 : bits N 7 4 = la.val := at_ 2
  have p3 : bits N 11 5 = rb.val := at_ 3
  have p4 : bits N 16 5 = ra.val := at_ 4
  have p5 : bits N 21 5 = rd.val := at_ 5
  have p6 : bits N 26 6 = 31 := at_ 6
  exact (raw p6).trans (show decodeOp1F N = _ from ((if_neg (differ p0 (by decide))).trans ((if_neg (differ p0 (by decide))).trans ((if_neg (differ p0 (by decide))).trans ((if_neg (differ p0 (by decide))).trans ((if_neg (differ p0 (by decide))).trans ((if_neg (differ p0 (by decide))).trans ((if_neg (differ p0 (by decide))).trans ((if_pos p0).trans (by simp only [p1, p5, p4, p3, p2, back_scope, back_fin, Option.bind_some]))))))))))

theorem RoundTrip.amaxuW rd ra rb la c : RoundTrip.Statement (.amaxuW rd ra rb la c) := by
  refine statement_of (l := [(8, 4), (c.code, 3), (la.val, 4), (rb.val, 5), (ra.val, 5), (rd.val, 5), (30, 6)]) rfl (by have := scope_lt c; simp only [enc, wordOf]; omega) ⟨(by decide), (scope_lt c), la.isLt, rb.isLt, ra.isLt, rd.isLt, (by decide), trivial⟩ rfl fun N at_ => ?_
  have p0 : bits N 0 4 = 8 := at_ 0
  have p1 : bits N 4 3 = c.code := at_ 1
  have p2 : bits N 7 4 = la.val := at_ 2
  have p3 : bits N 11 5 = rb.val := at_ 3
  have p4 : bits N 16 5 = ra.val := at_ 4
  have p5 : bits N 21 5 = rd.val := at_ 5
  have p6 : bits N 26 6 = 30 := at_ 6
  exact (raw p6).trans (show decodeOp1E N = _ from ((if_neg (differ p0 (by decide))).trans ((if_neg (differ p0 (by decide))).trans ((if_neg (differ p0 (by decide))).trans ((if_neg (differ p0 (by decide))).trans ((if_neg (differ p0 (by decide))).trans ((if_neg (differ p0 (by decide))).trans ((if_neg (differ p0 (by decide))).trans ((if_neg (differ p0 (by decide))).trans ((if_pos p0).trans (by simp only [p1, p5, p4, p3, p2, back_scope, back_fin, Option.bind_some])))))))))))

theorem RoundTrip.amaxuD rd ra rb la c : RoundTrip.Statement (.amaxuD rd ra rb la c) := by
  refine statement_of (l := [(8, 4), (c.code, 3), (la.val, 4), (rb.val, 5), (ra.val, 5), (rd.val, 5), (31, 6)]) rfl (by have := scope_lt c; simp only [enc, wordOf]; omega) ⟨(by decide), (scope_lt c), la.isLt, rb.isLt, ra.isLt, rd.isLt, (by decide), trivial⟩ rfl fun N at_ => ?_
  have p0 : bits N 0 4 = 8 := at_ 0
  have p1 : bits N 4 3 = c.code := at_ 1
  have p2 : bits N 7 4 = la.val := at_ 2
  have p3 : bits N 11 5 = rb.val := at_ 3
  have p4 : bits N 16 5 = ra.val := at_ 4
  have p5 : bits N 21 5 = rd.val := at_ 5
  have p6 : bits N 26 6 = 31 := at_ 6
  exact (raw p6).trans (show decodeOp1F N = _ from ((if_neg (differ p0 (by decide))).trans ((if_neg (differ p0 (by decide))).trans ((if_neg (differ p0 (by decide))).trans ((if_neg (differ p0 (by decide))).trans ((if_neg (differ p0 (by decide))).trans ((if_neg (differ p0 (by decide))).trans ((if_neg (differ p0 (by decide))).trans ((if_neg (differ p0 (by decide))).trans ((if_pos p0).trans (by simp only [p1, p5, p4, p3, p2, back_scope, back_fin, Option.bind_some])))))))))))

theorem RoundTrip.afadd rd ra rb la c : RoundTrip.Statement (.afadd rd ra rb la c) := by
  refine statement_of (l := [(9, 4), (c.code, 3), (la.val, 4), (rb.val, 5), (ra.val, 5), (rd.val, 5), (30, 6)]) rfl (by have := scope_lt c; simp only [enc, wordOf]; omega) ⟨(by decide), (scope_lt c), la.isLt, rb.isLt, ra.isLt, rd.isLt, (by decide), trivial⟩ rfl fun N at_ => ?_
  have p0 : bits N 0 4 = 9 := at_ 0
  have p1 : bits N 4 3 = c.code := at_ 1
  have p2 : bits N 7 4 = la.val := at_ 2
  have p3 : bits N 11 5 = rb.val := at_ 3
  have p4 : bits N 16 5 = ra.val := at_ 4
  have p5 : bits N 21 5 = rd.val := at_ 5
  have p6 : bits N 26 6 = 30 := at_ 6
  exact (raw p6).trans (show decodeOp1E N = _ from ((if_neg (differ p0 (by decide))).trans ((if_neg (differ p0 (by decide))).trans ((if_neg (differ p0 (by decide))).trans ((if_neg (differ p0 (by decide))).trans ((if_neg (differ p0 (by decide))).trans ((if_neg (differ p0 (by decide))).trans ((if_neg (differ p0 (by decide))).trans ((if_neg (differ p0 (by decide))).trans ((if_neg (differ p0 (by decide))).trans ((if_pos p0).trans (by simp only [p1, p5, p4, p3, p2, back_scope, back_fin, Option.bind_some]))))))))))))

theorem RoundTrip.acasW rd ra rb la c : RoundTrip.Statement (.acasW rd ra rb la c) := by
  refine statement_of (l := [(10, 4), (c.code, 3), (la.val, 4), (rb.val, 5), (ra.val, 5), (rd.val, 5), (30, 6)]) rfl (by have := scope_lt c; simp only [enc, wordOf]; omega) ⟨(by decide), (scope_lt c), la.isLt, rb.isLt, ra.isLt, rd.isLt, (by decide), trivial⟩ rfl fun N at_ => ?_
  have p0 : bits N 0 4 = 10 := at_ 0
  have p1 : bits N 4 3 = c.code := at_ 1
  have p2 : bits N 7 4 = la.val := at_ 2
  have p3 : bits N 11 5 = rb.val := at_ 3
  have p4 : bits N 16 5 = ra.val := at_ 4
  have p5 : bits N 21 5 = rd.val := at_ 5
  have p6 : bits N 26 6 = 30 := at_ 6
  exact (raw p6).trans (show decodeOp1E N = _ from ((if_neg (differ p0 (by decide))).trans ((if_neg (differ p0 (by decide))).trans ((if_neg (differ p0 (by decide))).trans ((if_neg (differ p0 (by decide))).trans ((if_neg (differ p0 (by decide))).trans ((if_neg (differ p0 (by decide))).trans ((if_neg (differ p0 (by decide))).trans ((if_neg (differ p0 (by decide))).trans ((if_neg (differ p0 (by decide))).trans ((if_neg (differ p0 (by decide))).trans ((if_pos p0).trans (by simp only [p1, p5, p4, p3, p2, back_scope, back_fin, Option.bind_some])))))))))))))

theorem RoundTrip.acasD rd ra rb la c : RoundTrip.Statement (.acasD rd ra rb la c) := by
  refine statement_of (l := [(10, 4), (c.code, 3), (la.val, 4), (rb.val, 5), (ra.val, 5), (rd.val, 5), (31, 6)]) rfl (by have := scope_lt c; simp only [enc, wordOf]; omega) ⟨(by decide), (scope_lt c), la.isLt, rb.isLt, ra.isLt, rd.isLt, (by decide), trivial⟩ rfl fun N at_ => ?_
  have p0 : bits N 0 4 = 10 := at_ 0
  have p1 : bits N 4 3 = c.code := at_ 1
  have p2 : bits N 7 4 = la.val := at_ 2
  have p3 : bits N 11 5 = rb.val := at_ 3
  have p4 : bits N 16 5 = ra.val := at_ 4
  have p5 : bits N 21 5 = rd.val := at_ 5
  have p6 : bits N 26 6 = 31 := at_ 6
  exact (raw p6).trans (show decodeOp1F N = _ from ((if_neg (differ p0 (by decide))).trans ((if_neg (differ p0 (by decide))).trans ((if_neg (differ p0 (by decide))).trans ((if_neg (differ p0 (by decide))).trans ((if_neg (differ p0 (by decide))).trans ((if_neg (differ p0 (by decide))).trans ((if_neg (differ p0 (by decide))).trans ((if_neg (differ p0 (by decide))).trans ((if_neg (differ p0 (by decide))).trans ((if_pos p0).trans (by simp only [p1, p5, p4, p3, p2, back_scope, back_fin, Option.bind_some]))))))))))))

theorem RoundTrip.acasQ rd ra rb la c : RoundTrip.Statement (.acasQ rd ra rb la c) := by
  refine statement_of (l := [(10, 4), (c.code, 3), (la.val, 4), (0, 1), (rb.val, 4), (ra.val, 5), (0, 1), (rd.val, 4), (32, 6)]) rfl (by have := scope_lt c; simp only [enc, wordOf]; omega) ⟨(by decide), (scope_lt c), la.isLt, (by decide), rb.isLt, ra.isLt, (by decide), rd.isLt, (by decide), trivial⟩ rfl fun N at_ => ?_
  have p0 : bits N 0 4 = 10 := at_ 0
  have p1 : bits N 4 3 = c.code := at_ 1
  have p2 : bits N 7 4 = la.val := at_ 2
  have p3 : bits N 11 1 = 0 := at_ 3
  have p4 : bits N 12 4 = rb.val := at_ 4
  have p5 : bits N 16 5 = ra.val := at_ 5
  have p6 : bits N 21 1 = 0 := at_ 6
  have p7 : bits N 22 4 = rd.val := at_ 7
  have p8 : bits N 26 6 = 32 := at_ 8
  exact (raw p8).trans (show decodeOp20 N = _ from ((if_neg (fun h => (differ p0 (by decide)) h.1)).trans ((if_pos ⟨p0, p3, p6⟩).trans (by simp only [p1, p7, p5, p4, p2, back_scope, back_fin, Option.bind_some]))))

theorem RoundTrip.fence c : RoundTrip.Statement (.fence c) := by
  refine statement_of (l := [(0, 4), (c.code, 3), (0, 19), (33, 6)]) rfl (by have := scope_lt c; simp only [enc, wordOf]; omega) ⟨(by decide), (scope_lt c), (by decide), (by decide), trivial⟩ rfl fun N at_ => ?_
  have p0 : bits N 0 4 = 0 := at_ 0
  have p1 : bits N 4 3 = c.code := at_ 1
  have p2 : bits N 7 19 = 0 := at_ 2
  have p3 : bits N 26 6 = 33 := at_ 3
  exact (raw p3).trans (show decodeOp21 N = _ from ((if_pos ⟨p0, p2⟩).trans (by simp only [p1, back_scope, Option.bind_some])))

theorem RoundTrip.feclr rd ra : RoundTrip.Statement (.feclr rd ra) := by
  refine statement_of (l := [(2, 4), (0, 12), (ra.val, 5), (rd.val, 5), (33, 6)]) rfl (by simp only [enc, wordOf]; omega) ⟨(by decide), (by decide), ra.isLt, rd.isLt, (by decide), trivial⟩ rfl fun N at_ => ?_
  have p0 : bits N 0 4 = 2 := at_ 0
  have p1 : bits N 4 12 = 0 := at_ 1
  have p2 : bits N 16 5 = ra.val := at_ 2
  have p3 : bits N 21 5 = rd.val := at_ 3
  have p4 : bits N 26 6 = 33 := at_ 4
  have h0 : bits N 0 16 = 2 := by rw [bits_join N 0 4 12, p0, p1]; rfl
  exact (raw p4).trans (show decodeOp21 N = _ from ((if_neg (fun h => (differ p0 (by decide)) h.1)).trans ((if_pos h0).trans (by simp only [p3, p2, back_fin]))))

theorem RoundTrip.fset ra n : RoundTrip.Statement (.fset ra n) := by
  refine statement_of (l := [(0, 4), (n.val, 10), (0, 2), (ra.val, 5), (0, 5), (34, 6)]) rfl (by simp only [enc, wordOf]; omega) ⟨(by decide), n.isLt, (by decide), ra.isLt, (by decide), (by decide), trivial⟩ rfl fun N at_ => ?_
  have p0 : bits N 0 4 = 0 := at_ 0
  have p1 : bits N 4 10 = n.val := at_ 1
  have p2 : bits N 14 2 = 0 := at_ 2
  have p3 : bits N 16 5 = ra.val := at_ 3
  have p4 : bits N 21 5 = 0 := at_ 4
  have p5 : bits N 26 6 = 34 := at_ 5
  exact (raw p5).trans (show decodeOp22 N = _ from ((if_pos ⟨p0, p2, p4⟩).trans (by simp only [p3, p1, back_fin])))

theorem RoundTrip.fclr ra n : RoundTrip.Statement (.fclr ra n) := by
  refine statement_of (l := [(1, 4), (n.val, 10), (0, 2), (ra.val, 5), (0, 5), (34, 6)]) rfl (by simp only [enc, wordOf]; omega) ⟨(by decide), n.isLt, (by decide), ra.isLt, (by decide), (by decide), trivial⟩ rfl fun N at_ => ?_
  have p0 : bits N 0 4 = 1 := at_ 0
  have p1 : bits N 4 10 = n.val := at_ 1
  have p2 : bits N 14 2 = 0 := at_ 2
  have p3 : bits N 16 5 = ra.val := at_ 3
  have p4 : bits N 21 5 = 0 := at_ 4
  have p5 : bits N 26 6 = 34 := at_ 5
  exact (raw p5).trans (show decodeOp22 N = _ from ((if_neg (fun h => (differ p0 (by decide)) h.1)).trans ((if_pos ⟨p0, p2, p4⟩).trans (by simp only [p3, p1, back_fin]))))

theorem RoundTrip.ftst rd ra n : RoundTrip.Statement (.ftst rd ra n) := by
  refine statement_of (l := [(2, 4), (n.val, 10), (0, 2), (ra.val, 5), (rd.val, 5), (34, 6)]) rfl (by simp only [enc, wordOf]; omega) ⟨(by decide), n.isLt, (by decide), ra.isLt, rd.isLt, (by decide), trivial⟩ rfl fun N at_ => ?_
  have p0 : bits N 0 4 = 2 := at_ 0
  have p1 : bits N 4 10 = n.val := at_ 1
  have p2 : bits N 14 2 = 0 := at_ 2
  have p3 : bits N 16 5 = ra.val := at_ 3
  have p4 : bits N 21 5 = rd.val := at_ 4
  have p5 : bits N 26 6 = 34 := at_ 5
  exact (raw p5).trans (show decodeOp22 N = _ from ((if_neg (fun h => (differ p0 (by decide)) h.1)).trans ((if_neg (fun h => (differ p0 (by decide)) h.1)).trans ((if_pos ⟨p0, p2⟩).trans (by simp only [p4, p3, p1, back_fin])))))

theorem RoundTrip.fwait ra c n : RoundTrip.Statement (.fwait ra c n) := by
  refine statement_of (l := [(3, 4), (n.val, 10), (c.toNat, 1), (0, 1), (ra.val, 5), (0, 5), (34, 6)]) rfl (by have := flag_lt c; simp only [enc, wordOf]; omega) ⟨(by decide), n.isLt, (flag_lt c), (by decide), ra.isLt, (by decide), (by decide), trivial⟩ rfl fun N at_ => ?_
  have p0 : bits N 0 4 = 3 := at_ 0
  have p1 : bits N 4 10 = n.val := at_ 1
  have p2 : bits N 14 1 = c.toNat := at_ 2
  have p3 : bits N 15 1 = 0 := at_ 3
  have p4 : bits N 16 5 = ra.val := at_ 4
  have p5 : bits N 21 5 = 0 := at_ 5
  have p6 : bits N 26 6 = 34 := at_ 6
  exact (raw p6).trans (show decodeOp22 N = _ from ((if_neg (fun h => (differ p0 (by decide)) h.1)).trans ((if_neg (fun h => (differ p0 (by decide)) h.1)).trans ((if_neg (fun h => (differ p0 (by decide)) h.1)).trans ((if_pos ⟨p0, p3, p5⟩).trans (by simp only [p4, p2, p1, back_fin, back_flag]))))))

theorem RoundTrip.vfadd rd ra rb k la rm : RoundTrip.Statement (.vfadd rd ra rb k la rm) := by
  refine statement_of (l := [(0, 5), (rm.code, 2), (la.val, 4), (k.val, 3), (rb.val, 4), (ra.val, 4), (rd.val, 4), (36, 6)]) rfl (by have := rm_lt rm; simp only [enc, wordOf]; omega) ⟨(by decide), (rm_lt rm), la.isLt, k.isLt, rb.isLt, ra.isLt, rd.isLt, (by decide), trivial⟩ rfl fun N at_ => ?_
  have p0 : bits N 0 5 = 0 := at_ 0
  have p1 : bits N 5 2 = rm.code := at_ 1
  have p2 : bits N 7 4 = la.val := at_ 2
  have p3 : bits N 11 3 = k.val := at_ 3
  have p4 : bits N 14 4 = rb.val := at_ 4
  have p5 : bits N 18 4 = ra.val := at_ 5
  have p6 : bits N 22 4 = rd.val := at_ 6
  have p7 : bits N 26 6 = 36 := at_ 7
  exact (raw p7).trans (show decodeOp24 N = _ from ((if_pos p0).trans (by simp only [p6, p5, p4, p3, p2, p1, back_rm, back_fin])))

theorem RoundTrip.vfsub rd ra rb k la rm : RoundTrip.Statement (.vfsub rd ra rb k la rm) := by
  refine statement_of (l := [(1, 5), (rm.code, 2), (la.val, 4), (k.val, 3), (rb.val, 4), (ra.val, 4), (rd.val, 4), (36, 6)]) rfl (by have := rm_lt rm; simp only [enc, wordOf]; omega) ⟨(by decide), (rm_lt rm), la.isLt, k.isLt, rb.isLt, ra.isLt, rd.isLt, (by decide), trivial⟩ rfl fun N at_ => ?_
  have p0 : bits N 0 5 = 1 := at_ 0
  have p1 : bits N 5 2 = rm.code := at_ 1
  have p2 : bits N 7 4 = la.val := at_ 2
  have p3 : bits N 11 3 = k.val := at_ 3
  have p4 : bits N 14 4 = rb.val := at_ 4
  have p5 : bits N 18 4 = ra.val := at_ 5
  have p6 : bits N 22 4 = rd.val := at_ 6
  have p7 : bits N 26 6 = 36 := at_ 7
  exact (raw p7).trans (show decodeOp24 N = _ from ((if_neg (differ p0 (by decide))).trans ((if_pos p0).trans (by simp only [p6, p5, p4, p3, p2, p1, back_rm, back_fin]))))

theorem RoundTrip.vfmul rd ra rb k la rm : RoundTrip.Statement (.vfmul rd ra rb k la rm) := by
  refine statement_of (l := [(2, 5), (rm.code, 2), (la.val, 4), (k.val, 3), (rb.val, 4), (ra.val, 4), (rd.val, 4), (36, 6)]) rfl (by have := rm_lt rm; simp only [enc, wordOf]; omega) ⟨(by decide), (rm_lt rm), la.isLt, k.isLt, rb.isLt, ra.isLt, rd.isLt, (by decide), trivial⟩ rfl fun N at_ => ?_
  have p0 : bits N 0 5 = 2 := at_ 0
  have p1 : bits N 5 2 = rm.code := at_ 1
  have p2 : bits N 7 4 = la.val := at_ 2
  have p3 : bits N 11 3 = k.val := at_ 3
  have p4 : bits N 14 4 = rb.val := at_ 4
  have p5 : bits N 18 4 = ra.val := at_ 5
  have p6 : bits N 22 4 = rd.val := at_ 6
  have p7 : bits N 26 6 = 36 := at_ 7
  exact (raw p7).trans (show decodeOp24 N = _ from ((if_neg (differ p0 (by decide))).trans ((if_neg (differ p0 (by decide))).trans ((if_pos p0).trans (by simp only [p6, p5, p4, p3, p2, p1, back_rm, back_fin])))))

theorem RoundTrip.vfma rd ra rb k la rm : RoundTrip.Statement (.vfma rd ra rb k la rm) := by
  refine statement_of (l := [(3, 5), (rm.code, 2), (la.val, 4), (k.val, 3), (rb.val, 4), (ra.val, 4), (rd.val, 4), (36, 6)]) rfl (by have := rm_lt rm; simp only [enc, wordOf]; omega) ⟨(by decide), (rm_lt rm), la.isLt, k.isLt, rb.isLt, ra.isLt, rd.isLt, (by decide), trivial⟩ rfl fun N at_ => ?_
  have p0 : bits N 0 5 = 3 := at_ 0
  have p1 : bits N 5 2 = rm.code := at_ 1
  have p2 : bits N 7 4 = la.val := at_ 2
  have p3 : bits N 11 3 = k.val := at_ 3
  have p4 : bits N 14 4 = rb.val := at_ 4
  have p5 : bits N 18 4 = ra.val := at_ 5
  have p6 : bits N 22 4 = rd.val := at_ 6
  have p7 : bits N 26 6 = 36 := at_ 7
  exact (raw p7).trans (show decodeOp24 N = _ from ((if_neg (differ p0 (by decide))).trans ((if_neg (differ p0 (by decide))).trans ((if_neg (differ p0 (by decide))).trans ((if_pos p0).trans (by simp only [p6, p5, p4, p3, p2, p1, back_rm, back_fin]))))))

theorem RoundTrip.vfmin rd ra rb k la : RoundTrip.Statement (.vfmin rd ra rb k la) := by
  refine statement_of (l := [(4, 5), (0, 2), (la.val, 4), (k.val, 3), (rb.val, 4), (ra.val, 4), (rd.val, 4), (36, 6)]) rfl (by simp only [enc, wordOf]; omega) ⟨(by decide), (by decide), la.isLt, k.isLt, rb.isLt, ra.isLt, rd.isLt, (by decide), trivial⟩ rfl fun N at_ => ?_
  have p0 : bits N 0 5 = 4 := at_ 0
  have p1 : bits N 5 2 = 0 := at_ 1
  have p2 : bits N 7 4 = la.val := at_ 2
  have p3 : bits N 11 3 = k.val := at_ 3
  have p4 : bits N 14 4 = rb.val := at_ 4
  have p5 : bits N 18 4 = ra.val := at_ 5
  have p6 : bits N 22 4 = rd.val := at_ 6
  have p7 : bits N 26 6 = 36 := at_ 7
  have h0 : bits N 0 7 = 4 := by rw [bits_join N 0 5 2, p0, p1]; rfl
  exact (raw p7).trans (show decodeOp24 N = _ from ((if_neg (differ p0 (by decide))).trans ((if_neg (differ p0 (by decide))).trans ((if_neg (differ p0 (by decide))).trans ((if_neg (differ p0 (by decide))).trans ((if_pos h0).trans (by simp only [p6, p5, p4, p3, p2, back_fin])))))))

theorem RoundTrip.vfmax rd ra rb k la : RoundTrip.Statement (.vfmax rd ra rb k la) := by
  refine statement_of (l := [(5, 5), (0, 2), (la.val, 4), (k.val, 3), (rb.val, 4), (ra.val, 4), (rd.val, 4), (36, 6)]) rfl (by simp only [enc, wordOf]; omega) ⟨(by decide), (by decide), la.isLt, k.isLt, rb.isLt, ra.isLt, rd.isLt, (by decide), trivial⟩ rfl fun N at_ => ?_
  have p0 : bits N 0 5 = 5 := at_ 0
  have p1 : bits N 5 2 = 0 := at_ 1
  have p2 : bits N 7 4 = la.val := at_ 2
  have p3 : bits N 11 3 = k.val := at_ 3
  have p4 : bits N 14 4 = rb.val := at_ 4
  have p5 : bits N 18 4 = ra.val := at_ 5
  have p6 : bits N 22 4 = rd.val := at_ 6
  have p7 : bits N 26 6 = 36 := at_ 7
  have h0 : bits N 0 7 = 5 := by rw [bits_join N 0 5 2, p0, p1]; rfl
  exact (raw p7).trans (show decodeOp24 N = _ from ((if_neg (differ p0 (by decide))).trans ((if_neg (differ p0 (by decide))).trans ((if_neg (differ p0 (by decide))).trans ((if_neg (differ p0 (by decide))).trans ((if_neg (differ h0 (by decide))).trans ((if_pos h0).trans (by simp only [p6, p5, p4, p3, p2, back_fin]))))))))

theorem RoundTrip.vfabs rd ra k la : RoundTrip.Statement (.vfabs rd ra k la) := by
  refine statement_of (l := [(6, 5), (0, 2), (la.val, 4), (k.val, 3), (0, 4), (ra.val, 4), (rd.val, 4), (36, 6)]) rfl (by simp only [enc, wordOf]; omega) ⟨(by decide), (by decide), la.isLt, k.isLt, (by decide), ra.isLt, rd.isLt, (by decide), trivial⟩ rfl fun N at_ => ?_
  have p0 : bits N 0 5 = 6 := at_ 0
  have p1 : bits N 5 2 = 0 := at_ 1
  have p2 : bits N 7 4 = la.val := at_ 2
  have p3 : bits N 11 3 = k.val := at_ 3
  have p4 : bits N 14 4 = 0 := at_ 4
  have p5 : bits N 18 4 = ra.val := at_ 5
  have p6 : bits N 22 4 = rd.val := at_ 6
  have p7 : bits N 26 6 = 36 := at_ 7
  have h0 : bits N 0 7 = 6 := by rw [bits_join N 0 5 2, p0, p1]; rfl
  exact (raw p7).trans (show decodeOp24 N = _ from ((if_neg (differ p0 (by decide))).trans ((if_neg (differ p0 (by decide))).trans ((if_neg (differ p0 (by decide))).trans ((if_neg (differ p0 (by decide))).trans ((if_neg (differ h0 (by decide))).trans ((if_neg (differ h0 (by decide))).trans ((if_pos ⟨h0, p4⟩).trans (by simp only [p6, p5, p3, p2, back_fin])))))))))

theorem RoundTrip.vfneg rd ra k la : RoundTrip.Statement (.vfneg rd ra k la) := by
  refine statement_of (l := [(7, 5), (0, 2), (la.val, 4), (k.val, 3), (0, 4), (ra.val, 4), (rd.val, 4), (36, 6)]) rfl (by simp only [enc, wordOf]; omega) ⟨(by decide), (by decide), la.isLt, k.isLt, (by decide), ra.isLt, rd.isLt, (by decide), trivial⟩ rfl fun N at_ => ?_
  have p0 : bits N 0 5 = 7 := at_ 0
  have p1 : bits N 5 2 = 0 := at_ 1
  have p2 : bits N 7 4 = la.val := at_ 2
  have p3 : bits N 11 3 = k.val := at_ 3
  have p4 : bits N 14 4 = 0 := at_ 4
  have p5 : bits N 18 4 = ra.val := at_ 5
  have p6 : bits N 22 4 = rd.val := at_ 6
  have p7 : bits N 26 6 = 36 := at_ 7
  have h0 : bits N 0 7 = 7 := by rw [bits_join N 0 5 2, p0, p1]; rfl
  exact (raw p7).trans (show decodeOp24 N = _ from ((if_neg (differ p0 (by decide))).trans ((if_neg (differ p0 (by decide))).trans ((if_neg (differ p0 (by decide))).trans ((if_neg (differ p0 (by decide))).trans ((if_neg (differ h0 (by decide))).trans ((if_neg (differ h0 (by decide))).trans ((if_neg (fun h => (differ h0 (by decide)) h.1)).trans ((if_pos ⟨h0, p4⟩).trans (by simp only [p6, p5, p3, p2, back_fin]))))))))))

theorem RoundTrip.vfdiv rd ra rb k la rm : RoundTrip.Statement (.vfdiv rd ra rb k la rm) := by
  refine statement_of (l := [(8, 5), (rm.code, 2), (la.val, 4), (k.val, 3), (rb.val, 4), (ra.val, 4), (rd.val, 4), (36, 6)]) rfl (by have := rm_lt rm; simp only [enc, wordOf]; omega) ⟨(by decide), (rm_lt rm), la.isLt, k.isLt, rb.isLt, ra.isLt, rd.isLt, (by decide), trivial⟩ rfl fun N at_ => ?_
  have p0 : bits N 0 5 = 8 := at_ 0
  have p1 : bits N 5 2 = rm.code := at_ 1
  have p2 : bits N 7 4 = la.val := at_ 2
  have p3 : bits N 11 3 = k.val := at_ 3
  have p4 : bits N 14 4 = rb.val := at_ 4
  have p5 : bits N 18 4 = ra.val := at_ 5
  have p6 : bits N 22 4 = rd.val := at_ 6
  have p7 : bits N 26 6 = 36 := at_ 7
  have h0 : bits N 0 7 ≠ 4 := by rw [bits_join N 0 5 2, p0, p1]; omega
  have h1 : bits N 0 7 ≠ 5 := by rw [bits_join N 0 5 2, p0, p1]; omega
  have h2 : bits N 0 7 ≠ 6 := by rw [bits_join N 0 5 2, p0, p1]; omega
  have h3 : bits N 0 7 ≠ 7 := by rw [bits_join N 0 5 2, p0, p1]; omega
  exact (raw p7).trans (show decodeOp24 N = _ from ((if_neg (differ p0 (by decide))).trans ((if_neg (differ p0 (by decide))).trans ((if_neg (differ p0 (by decide))).trans ((if_neg (differ p0 (by decide))).trans ((if_neg (h0)).trans ((if_neg (h1)).trans ((if_neg (fun h => (h2) h.1)).trans ((if_neg (fun h => (h3) h.1)).trans ((if_pos p0).trans (by simp only [p6, p5, p4, p3, p2, p1, back_rm, back_fin])))))))))))

theorem RoundTrip.vfsqrt rd ra k la rm : RoundTrip.Statement (.vfsqrt rd ra k la rm) := by
  refine statement_of (l := [(9, 5), (rm.code, 2), (la.val, 4), (k.val, 3), (0, 4), (ra.val, 4), (rd.val, 4), (36, 6)]) rfl (by have := rm_lt rm; simp only [enc, wordOf]; omega) ⟨(by decide), (rm_lt rm), la.isLt, k.isLt, (by decide), ra.isLt, rd.isLt, (by decide), trivial⟩ rfl fun N at_ => ?_
  have p0 : bits N 0 5 = 9 := at_ 0
  have p1 : bits N 5 2 = rm.code := at_ 1
  have p2 : bits N 7 4 = la.val := at_ 2
  have p3 : bits N 11 3 = k.val := at_ 3
  have p4 : bits N 14 4 = 0 := at_ 4
  have p5 : bits N 18 4 = ra.val := at_ 5
  have p6 : bits N 22 4 = rd.val := at_ 6
  have p7 : bits N 26 6 = 36 := at_ 7
  have h0 : bits N 0 7 ≠ 4 := by rw [bits_join N 0 5 2, p0, p1]; omega
  have h1 : bits N 0 7 ≠ 5 := by rw [bits_join N 0 5 2, p0, p1]; omega
  have h2 : bits N 0 7 ≠ 6 := by rw [bits_join N 0 5 2, p0, p1]; omega
  have h3 : bits N 0 7 ≠ 7 := by rw [bits_join N 0 5 2, p0, p1]; omega
  exact (raw p7).trans (show decodeOp24 N = _ from ((if_neg (differ p0 (by decide))).trans ((if_neg (differ p0 (by decide))).trans ((if_neg (differ p0 (by decide))).trans ((if_neg (differ p0 (by decide))).trans ((if_neg (h0)).trans ((if_neg (h1)).trans ((if_neg (fun h => (h2) h.1)).trans ((if_neg (fun h => (h3) h.1)).trans ((if_neg (differ p0 (by decide))).trans ((if_pos ⟨p0, p4⟩).trans (by simp only [p6, p5, p3, p2, p1, back_rm, back_fin]))))))))))))

theorem RoundTrip.vrcp rd ra k la : RoundTrip.Statement (.vrcp rd ra k la) := by
  refine statement_of (l := [(10, 5), (0, 2), (la.val, 4), (k.val, 3), (0, 4), (ra.val, 4), (rd.val, 4), (36, 6)]) rfl (by simp only [enc, wordOf]; omega) ⟨(by decide), (by decide), la.isLt, k.isLt, (by decide), ra.isLt, rd.isLt, (by decide), trivial⟩ rfl fun N at_ => ?_
  have p0 : bits N 0 5 = 10 := at_ 0
  have p1 : bits N 5 2 = 0 := at_ 1
  have p2 : bits N 7 4 = la.val := at_ 2
  have p3 : bits N 11 3 = k.val := at_ 3
  have p4 : bits N 14 4 = 0 := at_ 4
  have p5 : bits N 18 4 = ra.val := at_ 5
  have p6 : bits N 22 4 = rd.val := at_ 6
  have p7 : bits N 26 6 = 36 := at_ 7
  have h0 : bits N 0 7 = 10 := by rw [bits_join N 0 5 2, p0, p1]; rfl
  exact (raw p7).trans (show decodeOp24 N = _ from ((if_neg (differ p0 (by decide))).trans ((if_neg (differ p0 (by decide))).trans ((if_neg (differ p0 (by decide))).trans ((if_neg (differ p0 (by decide))).trans ((if_neg (differ h0 (by decide))).trans ((if_neg (differ h0 (by decide))).trans ((if_neg (fun h => (differ h0 (by decide)) h.1)).trans ((if_neg (fun h => (differ h0 (by decide)) h.1)).trans ((if_neg (differ p0 (by decide))).trans ((if_neg (fun h => (differ p0 (by decide)) h.1)).trans ((if_pos ⟨h0, p4⟩).trans (by simp only [p6, p5, p3, p2, back_fin])))))))))))))

theorem RoundTrip.vrsq rd ra k la : RoundTrip.Statement (.vrsq rd ra k la) := by
  refine statement_of (l := [(11, 5), (0, 2), (la.val, 4), (k.val, 3), (0, 4), (ra.val, 4), (rd.val, 4), (36, 6)]) rfl (by simp only [enc, wordOf]; omega) ⟨(by decide), (by decide), la.isLt, k.isLt, (by decide), ra.isLt, rd.isLt, (by decide), trivial⟩ rfl fun N at_ => ?_
  have p0 : bits N 0 5 = 11 := at_ 0
  have p1 : bits N 5 2 = 0 := at_ 1
  have p2 : bits N 7 4 = la.val := at_ 2
  have p3 : bits N 11 3 = k.val := at_ 3
  have p4 : bits N 14 4 = 0 := at_ 4
  have p5 : bits N 18 4 = ra.val := at_ 5
  have p6 : bits N 22 4 = rd.val := at_ 6
  have p7 : bits N 26 6 = 36 := at_ 7
  have h0 : bits N 0 7 = 11 := by rw [bits_join N 0 5 2, p0, p1]; rfl
  exact (raw p7).trans (show decodeOp24 N = _ from ((if_neg (differ p0 (by decide))).trans ((if_neg (differ p0 (by decide))).trans ((if_neg (differ p0 (by decide))).trans ((if_neg (differ p0 (by decide))).trans ((if_neg (differ h0 (by decide))).trans ((if_neg (differ h0 (by decide))).trans ((if_neg (fun h => (differ h0 (by decide)) h.1)).trans ((if_neg (fun h => (differ h0 (by decide)) h.1)).trans ((if_neg (differ p0 (by decide))).trans ((if_neg (fun h => (differ p0 (by decide)) h.1)).trans ((if_neg (fun h => (differ h0 (by decide)) h.1)).trans ((if_pos ⟨h0, p4⟩).trans (by simp only [p6, p5, p3, p2, back_fin]))))))))))))))

theorem RoundTrip.vexp2 rd ra k la : RoundTrip.Statement (.vexp2 rd ra k la) := by
  refine statement_of (l := [(12, 5), (0, 2), (la.val, 4), (k.val, 3), (0, 4), (ra.val, 4), (rd.val, 4), (36, 6)]) rfl (by simp only [enc, wordOf]; omega) ⟨(by decide), (by decide), la.isLt, k.isLt, (by decide), ra.isLt, rd.isLt, (by decide), trivial⟩ rfl fun N at_ => ?_
  have p0 : bits N 0 5 = 12 := at_ 0
  have p1 : bits N 5 2 = 0 := at_ 1
  have p2 : bits N 7 4 = la.val := at_ 2
  have p3 : bits N 11 3 = k.val := at_ 3
  have p4 : bits N 14 4 = 0 := at_ 4
  have p5 : bits N 18 4 = ra.val := at_ 5
  have p6 : bits N 22 4 = rd.val := at_ 6
  have p7 : bits N 26 6 = 36 := at_ 7
  have h0 : bits N 0 7 = 12 := by rw [bits_join N 0 5 2, p0, p1]; rfl
  exact (raw p7).trans (show decodeOp24 N = _ from ((if_neg (differ p0 (by decide))).trans ((if_neg (differ p0 (by decide))).trans ((if_neg (differ p0 (by decide))).trans ((if_neg (differ p0 (by decide))).trans ((if_neg (differ h0 (by decide))).trans ((if_neg (differ h0 (by decide))).trans ((if_neg (fun h => (differ h0 (by decide)) h.1)).trans ((if_neg (fun h => (differ h0 (by decide)) h.1)).trans ((if_neg (differ p0 (by decide))).trans ((if_neg (fun h => (differ p0 (by decide)) h.1)).trans ((if_neg (fun h => (differ h0 (by decide)) h.1)).trans ((if_neg (fun h => (differ h0 (by decide)) h.1)).trans ((if_pos ⟨h0, p4⟩).trans (by simp only [p6, p5, p3, p2, back_fin])))))))))))))))

theorem RoundTrip.vadd rd ra rb k la wd : RoundTrip.Statement (.vadd rd ra rb k la wd) := by
  refine statement_of (l := [(0, 5), (wd.code, 2), (la.val, 4), (k.val, 3), (rb.val, 4), (ra.val, 4), (rd.val, 4), (37, 6)]) rfl (by have := width_lt wd; simp only [enc, wordOf]; omega) ⟨(by decide), (width_lt wd), la.isLt, k.isLt, rb.isLt, ra.isLt, rd.isLt, (by decide), trivial⟩ rfl fun N at_ => ?_
  have p0 : bits N 0 5 = 0 := at_ 0
  have p1 : bits N 5 2 = wd.code := at_ 1
  have p2 : bits N 7 4 = la.val := at_ 2
  have p3 : bits N 11 3 = k.val := at_ 3
  have p4 : bits N 14 4 = rb.val := at_ 4
  have p5 : bits N 18 4 = ra.val := at_ 5
  have p6 : bits N 22 4 = rd.val := at_ 6
  have p7 : bits N 26 6 = 37 := at_ 7
  exact (raw p7).trans (show decodeOp25 N = _ from ((if_pos p0).trans (by simp only [p1, p6, p5, p4, p3, p2, back_width, back_fin, Option.bind_some])))

theorem RoundTrip.vsub rd ra rb k la wd : RoundTrip.Statement (.vsub rd ra rb k la wd) := by
  refine statement_of (l := [(1, 5), (wd.code, 2), (la.val, 4), (k.val, 3), (rb.val, 4), (ra.val, 4), (rd.val, 4), (37, 6)]) rfl (by have := width_lt wd; simp only [enc, wordOf]; omega) ⟨(by decide), (width_lt wd), la.isLt, k.isLt, rb.isLt, ra.isLt, rd.isLt, (by decide), trivial⟩ rfl fun N at_ => ?_
  have p0 : bits N 0 5 = 1 := at_ 0
  have p1 : bits N 5 2 = wd.code := at_ 1
  have p2 : bits N 7 4 = la.val := at_ 2
  have p3 : bits N 11 3 = k.val := at_ 3
  have p4 : bits N 14 4 = rb.val := at_ 4
  have p5 : bits N 18 4 = ra.val := at_ 5
  have p6 : bits N 22 4 = rd.val := at_ 6
  have p7 : bits N 26 6 = 37 := at_ 7
  exact (raw p7).trans (show decodeOp25 N = _ from ((if_neg (differ p0 (by decide))).trans ((if_pos p0).trans (by simp only [p1, p6, p5, p4, p3, p2, back_width, back_fin, Option.bind_some]))))

theorem RoundTrip.vmul rd ra rb k la wd : RoundTrip.Statement (.vmul rd ra rb k la wd) := by
  refine statement_of (l := [(2, 5), (wd.code, 2), (la.val, 4), (k.val, 3), (rb.val, 4), (ra.val, 4), (rd.val, 4), (37, 6)]) rfl (by have := width_lt wd; simp only [enc, wordOf]; omega) ⟨(by decide), (width_lt wd), la.isLt, k.isLt, rb.isLt, ra.isLt, rd.isLt, (by decide), trivial⟩ rfl fun N at_ => ?_
  have p0 : bits N 0 5 = 2 := at_ 0
  have p1 : bits N 5 2 = wd.code := at_ 1
  have p2 : bits N 7 4 = la.val := at_ 2
  have p3 : bits N 11 3 = k.val := at_ 3
  have p4 : bits N 14 4 = rb.val := at_ 4
  have p5 : bits N 18 4 = ra.val := at_ 5
  have p6 : bits N 22 4 = rd.val := at_ 6
  have p7 : bits N 26 6 = 37 := at_ 7
  exact (raw p7).trans (show decodeOp25 N = _ from ((if_neg (differ p0 (by decide))).trans ((if_neg (differ p0 (by decide))).trans ((if_pos p0).trans (by simp only [p1, p6, p5, p4, p3, p2, back_width, back_fin, Option.bind_some])))))

theorem RoundTrip.vmin rd ra rb k la wd : RoundTrip.Statement (.vmin rd ra rb k la wd) := by
  refine statement_of (l := [(3, 5), (wd.code, 2), (la.val, 4), (k.val, 3), (rb.val, 4), (ra.val, 4), (rd.val, 4), (37, 6)]) rfl (by have := width_lt wd; simp only [enc, wordOf]; omega) ⟨(by decide), (width_lt wd), la.isLt, k.isLt, rb.isLt, ra.isLt, rd.isLt, (by decide), trivial⟩ rfl fun N at_ => ?_
  have p0 : bits N 0 5 = 3 := at_ 0
  have p1 : bits N 5 2 = wd.code := at_ 1
  have p2 : bits N 7 4 = la.val := at_ 2
  have p3 : bits N 11 3 = k.val := at_ 3
  have p4 : bits N 14 4 = rb.val := at_ 4
  have p5 : bits N 18 4 = ra.val := at_ 5
  have p6 : bits N 22 4 = rd.val := at_ 6
  have p7 : bits N 26 6 = 37 := at_ 7
  exact (raw p7).trans (show decodeOp25 N = _ from ((if_neg (differ p0 (by decide))).trans ((if_neg (differ p0 (by decide))).trans ((if_neg (differ p0 (by decide))).trans ((if_pos p0).trans (by simp only [p1, p6, p5, p4, p3, p2, back_width, back_fin, Option.bind_some]))))))

theorem RoundTrip.vmax rd ra rb k la wd : RoundTrip.Statement (.vmax rd ra rb k la wd) := by
  refine statement_of (l := [(4, 5), (wd.code, 2), (la.val, 4), (k.val, 3), (rb.val, 4), (ra.val, 4), (rd.val, 4), (37, 6)]) rfl (by have := width_lt wd; simp only [enc, wordOf]; omega) ⟨(by decide), (width_lt wd), la.isLt, k.isLt, rb.isLt, ra.isLt, rd.isLt, (by decide), trivial⟩ rfl fun N at_ => ?_
  have p0 : bits N 0 5 = 4 := at_ 0
  have p1 : bits N 5 2 = wd.code := at_ 1
  have p2 : bits N 7 4 = la.val := at_ 2
  have p3 : bits N 11 3 = k.val := at_ 3
  have p4 : bits N 14 4 = rb.val := at_ 4
  have p5 : bits N 18 4 = ra.val := at_ 5
  have p6 : bits N 22 4 = rd.val := at_ 6
  have p7 : bits N 26 6 = 37 := at_ 7
  exact (raw p7).trans (show decodeOp25 N = _ from ((if_neg (differ p0 (by decide))).trans ((if_neg (differ p0 (by decide))).trans ((if_neg (differ p0 (by decide))).trans ((if_neg (differ p0 (by decide))).trans ((if_pos p0).trans (by simp only [p1, p6, p5, p4, p3, p2, back_width, back_fin, Option.bind_some])))))))

theorem RoundTrip.vminu rd ra rb k la wd : RoundTrip.Statement (.vminu rd ra rb k la wd) := by
  refine statement_of (l := [(5, 5), (wd.code, 2), (la.val, 4), (k.val, 3), (rb.val, 4), (ra.val, 4), (rd.val, 4), (37, 6)]) rfl (by have := width_lt wd; simp only [enc, wordOf]; omega) ⟨(by decide), (width_lt wd), la.isLt, k.isLt, rb.isLt, ra.isLt, rd.isLt, (by decide), trivial⟩ rfl fun N at_ => ?_
  have p0 : bits N 0 5 = 5 := at_ 0
  have p1 : bits N 5 2 = wd.code := at_ 1
  have p2 : bits N 7 4 = la.val := at_ 2
  have p3 : bits N 11 3 = k.val := at_ 3
  have p4 : bits N 14 4 = rb.val := at_ 4
  have p5 : bits N 18 4 = ra.val := at_ 5
  have p6 : bits N 22 4 = rd.val := at_ 6
  have p7 : bits N 26 6 = 37 := at_ 7
  exact (raw p7).trans (show decodeOp25 N = _ from ((if_neg (differ p0 (by decide))).trans ((if_neg (differ p0 (by decide))).trans ((if_neg (differ p0 (by decide))).trans ((if_neg (differ p0 (by decide))).trans ((if_neg (differ p0 (by decide))).trans ((if_pos p0).trans (by simp only [p1, p6, p5, p4, p3, p2, back_width, back_fin, Option.bind_some]))))))))

theorem RoundTrip.vmaxu rd ra rb k la wd : RoundTrip.Statement (.vmaxu rd ra rb k la wd) := by
  refine statement_of (l := [(6, 5), (wd.code, 2), (la.val, 4), (k.val, 3), (rb.val, 4), (ra.val, 4), (rd.val, 4), (37, 6)]) rfl (by have := width_lt wd; simp only [enc, wordOf]; omega) ⟨(by decide), (width_lt wd), la.isLt, k.isLt, rb.isLt, ra.isLt, rd.isLt, (by decide), trivial⟩ rfl fun N at_ => ?_
  have p0 : bits N 0 5 = 6 := at_ 0
  have p1 : bits N 5 2 = wd.code := at_ 1
  have p2 : bits N 7 4 = la.val := at_ 2
  have p3 : bits N 11 3 = k.val := at_ 3
  have p4 : bits N 14 4 = rb.val := at_ 4
  have p5 : bits N 18 4 = ra.val := at_ 5
  have p6 : bits N 22 4 = rd.val := at_ 6
  have p7 : bits N 26 6 = 37 := at_ 7
  exact (raw p7).trans (show decodeOp25 N = _ from ((if_neg (differ p0 (by decide))).trans ((if_neg (differ p0 (by decide))).trans ((if_neg (differ p0 (by decide))).trans ((if_neg (differ p0 (by decide))).trans ((if_neg (differ p0 (by decide))).trans ((if_neg (differ p0 (by decide))).trans ((if_pos p0).trans (by simp only [p1, p6, p5, p4, p3, p2, back_width, back_fin, Option.bind_some])))))))))

theorem RoundTrip.vand rd ra rb k la wd : RoundTrip.Statement (.vand rd ra rb k la wd) := by
  refine statement_of (l := [(7, 5), (wd.code, 2), (la.val, 4), (k.val, 3), (rb.val, 4), (ra.val, 4), (rd.val, 4), (37, 6)]) rfl (by have := width_lt wd; simp only [enc, wordOf]; omega) ⟨(by decide), (width_lt wd), la.isLt, k.isLt, rb.isLt, ra.isLt, rd.isLt, (by decide), trivial⟩ rfl fun N at_ => ?_
  have p0 : bits N 0 5 = 7 := at_ 0
  have p1 : bits N 5 2 = wd.code := at_ 1
  have p2 : bits N 7 4 = la.val := at_ 2
  have p3 : bits N 11 3 = k.val := at_ 3
  have p4 : bits N 14 4 = rb.val := at_ 4
  have p5 : bits N 18 4 = ra.val := at_ 5
  have p6 : bits N 22 4 = rd.val := at_ 6
  have p7 : bits N 26 6 = 37 := at_ 7
  exact (raw p7).trans (show decodeOp25 N = _ from ((if_neg (differ p0 (by decide))).trans ((if_neg (differ p0 (by decide))).trans ((if_neg (differ p0 (by decide))).trans ((if_neg (differ p0 (by decide))).trans ((if_neg (differ p0 (by decide))).trans ((if_neg (differ p0 (by decide))).trans ((if_neg (differ p0 (by decide))).trans ((if_pos p0).trans (by simp only [p1, p6, p5, p4, p3, p2, back_width, back_fin, Option.bind_some]))))))))))

theorem RoundTrip.vor rd ra rb k la wd : RoundTrip.Statement (.vor rd ra rb k la wd) := by
  refine statement_of (l := [(8, 5), (wd.code, 2), (la.val, 4), (k.val, 3), (rb.val, 4), (ra.val, 4), (rd.val, 4), (37, 6)]) rfl (by have := width_lt wd; simp only [enc, wordOf]; omega) ⟨(by decide), (width_lt wd), la.isLt, k.isLt, rb.isLt, ra.isLt, rd.isLt, (by decide), trivial⟩ rfl fun N at_ => ?_
  have p0 : bits N 0 5 = 8 := at_ 0
  have p1 : bits N 5 2 = wd.code := at_ 1
  have p2 : bits N 7 4 = la.val := at_ 2
  have p3 : bits N 11 3 = k.val := at_ 3
  have p4 : bits N 14 4 = rb.val := at_ 4
  have p5 : bits N 18 4 = ra.val := at_ 5
  have p6 : bits N 22 4 = rd.val := at_ 6
  have p7 : bits N 26 6 = 37 := at_ 7
  exact (raw p7).trans (show decodeOp25 N = _ from ((if_neg (differ p0 (by decide))).trans ((if_neg (differ p0 (by decide))).trans ((if_neg (differ p0 (by decide))).trans ((if_neg (differ p0 (by decide))).trans ((if_neg (differ p0 (by decide))).trans ((if_neg (differ p0 (by decide))).trans ((if_neg (differ p0 (by decide))).trans ((if_neg (differ p0 (by decide))).trans ((if_pos p0).trans (by simp only [p1, p6, p5, p4, p3, p2, back_width, back_fin, Option.bind_some])))))))))))

theorem RoundTrip.vxor rd ra rb k la wd : RoundTrip.Statement (.vxor rd ra rb k la wd) := by
  refine statement_of (l := [(9, 5), (wd.code, 2), (la.val, 4), (k.val, 3), (rb.val, 4), (ra.val, 4), (rd.val, 4), (37, 6)]) rfl (by have := width_lt wd; simp only [enc, wordOf]; omega) ⟨(by decide), (width_lt wd), la.isLt, k.isLt, rb.isLt, ra.isLt, rd.isLt, (by decide), trivial⟩ rfl fun N at_ => ?_
  have p0 : bits N 0 5 = 9 := at_ 0
  have p1 : bits N 5 2 = wd.code := at_ 1
  have p2 : bits N 7 4 = la.val := at_ 2
  have p3 : bits N 11 3 = k.val := at_ 3
  have p4 : bits N 14 4 = rb.val := at_ 4
  have p5 : bits N 18 4 = ra.val := at_ 5
  have p6 : bits N 22 4 = rd.val := at_ 6
  have p7 : bits N 26 6 = 37 := at_ 7
  exact (raw p7).trans (show decodeOp25 N = _ from ((if_neg (differ p0 (by decide))).trans ((if_neg (differ p0 (by decide))).trans ((if_neg (differ p0 (by decide))).trans ((if_neg (differ p0 (by decide))).trans ((if_neg (differ p0 (by decide))).trans ((if_neg (differ p0 (by decide))).trans ((if_neg (differ p0 (by decide))).trans ((if_neg (differ p0 (by decide))).trans ((if_neg (differ p0 (by decide))).trans ((if_pos p0).trans (by simp only [p1, p6, p5, p4, p3, p2, back_width, back_fin, Option.bind_some]))))))))))))

theorem RoundTrip.vshl rd ra rb k la wd : RoundTrip.Statement (.vshl rd ra rb k la wd) := by
  refine statement_of (l := [(10, 5), (wd.code, 2), (la.val, 4), (k.val, 3), (rb.val, 4), (ra.val, 4), (rd.val, 4), (37, 6)]) rfl (by have := width_lt wd; simp only [enc, wordOf]; omega) ⟨(by decide), (width_lt wd), la.isLt, k.isLt, rb.isLt, ra.isLt, rd.isLt, (by decide), trivial⟩ rfl fun N at_ => ?_
  have p0 : bits N 0 5 = 10 := at_ 0
  have p1 : bits N 5 2 = wd.code := at_ 1
  have p2 : bits N 7 4 = la.val := at_ 2
  have p3 : bits N 11 3 = k.val := at_ 3
  have p4 : bits N 14 4 = rb.val := at_ 4
  have p5 : bits N 18 4 = ra.val := at_ 5
  have p6 : bits N 22 4 = rd.val := at_ 6
  have p7 : bits N 26 6 = 37 := at_ 7
  exact (raw p7).trans (show decodeOp25 N = _ from ((if_neg (differ p0 (by decide))).trans ((if_neg (differ p0 (by decide))).trans ((if_neg (differ p0 (by decide))).trans ((if_neg (differ p0 (by decide))).trans ((if_neg (differ p0 (by decide))).trans ((if_neg (differ p0 (by decide))).trans ((if_neg (differ p0 (by decide))).trans ((if_neg (differ p0 (by decide))).trans ((if_neg (differ p0 (by decide))).trans ((if_neg (differ p0 (by decide))).trans ((if_pos p0).trans (by simp only [p1, p6, p5, p4, p3, p2, back_width, back_fin, Option.bind_some])))))))))))))

theorem RoundTrip.vshr rd ra rb k la wd : RoundTrip.Statement (.vshr rd ra rb k la wd) := by
  refine statement_of (l := [(11, 5), (wd.code, 2), (la.val, 4), (k.val, 3), (rb.val, 4), (ra.val, 4), (rd.val, 4), (37, 6)]) rfl (by have := width_lt wd; simp only [enc, wordOf]; omega) ⟨(by decide), (width_lt wd), la.isLt, k.isLt, rb.isLt, ra.isLt, rd.isLt, (by decide), trivial⟩ rfl fun N at_ => ?_
  have p0 : bits N 0 5 = 11 := at_ 0
  have p1 : bits N 5 2 = wd.code := at_ 1
  have p2 : bits N 7 4 = la.val := at_ 2
  have p3 : bits N 11 3 = k.val := at_ 3
  have p4 : bits N 14 4 = rb.val := at_ 4
  have p5 : bits N 18 4 = ra.val := at_ 5
  have p6 : bits N 22 4 = rd.val := at_ 6
  have p7 : bits N 26 6 = 37 := at_ 7
  exact (raw p7).trans (show decodeOp25 N = _ from ((if_neg (differ p0 (by decide))).trans ((if_neg (differ p0 (by decide))).trans ((if_neg (differ p0 (by decide))).trans ((if_neg (differ p0 (by decide))).trans ((if_neg (differ p0 (by decide))).trans ((if_neg (differ p0 (by decide))).trans ((if_neg (differ p0 (by decide))).trans ((if_neg (differ p0 (by decide))).trans ((if_neg (differ p0 (by decide))).trans ((if_neg (differ p0 (by decide))).trans ((if_neg (differ p0 (by decide))).trans ((if_pos p0).trans (by simp only [p1, p6, p5, p4, p3, p2, back_width, back_fin, Option.bind_some]))))))))))))))

theorem RoundTrip.vsra rd ra rb k la wd : RoundTrip.Statement (.vsra rd ra rb k la wd) := by
  refine statement_of (l := [(12, 5), (wd.code, 2), (la.val, 4), (k.val, 3), (rb.val, 4), (ra.val, 4), (rd.val, 4), (37, 6)]) rfl (by have := width_lt wd; simp only [enc, wordOf]; omega) ⟨(by decide), (width_lt wd), la.isLt, k.isLt, rb.isLt, ra.isLt, rd.isLt, (by decide), trivial⟩ rfl fun N at_ => ?_
  have p0 : bits N 0 5 = 12 := at_ 0
  have p1 : bits N 5 2 = wd.code := at_ 1
  have p2 : bits N 7 4 = la.val := at_ 2
  have p3 : bits N 11 3 = k.val := at_ 3
  have p4 : bits N 14 4 = rb.val := at_ 4
  have p5 : bits N 18 4 = ra.val := at_ 5
  have p6 : bits N 22 4 = rd.val := at_ 6
  have p7 : bits N 26 6 = 37 := at_ 7
  exact (raw p7).trans (show decodeOp25 N = _ from ((if_neg (differ p0 (by decide))).trans ((if_neg (differ p0 (by decide))).trans ((if_neg (differ p0 (by decide))).trans ((if_neg (differ p0 (by decide))).trans ((if_neg (differ p0 (by decide))).trans ((if_neg (differ p0 (by decide))).trans ((if_neg (differ p0 (by decide))).trans ((if_neg (differ p0 (by decide))).trans ((if_neg (differ p0 (by decide))).trans ((if_neg (differ p0 (by decide))).trans ((if_neg (differ p0 (by decide))).trans ((if_neg (differ p0 (by decide))).trans ((if_pos p0).trans (by simp only [p1, p6, p5, p4, p3, p2, back_width, back_fin, Option.bind_some])))))))))))))))

theorem RoundTrip.vadds rd ra rb k la wd : RoundTrip.Statement (.vadds rd ra rb k la wd) := by
  refine statement_of (l := [(13, 5), (wd.code, 2), (la.val, 4), (k.val, 3), (rb.val, 4), (ra.val, 4), (rd.val, 4), (37, 6)]) rfl (by have := width_lt wd; simp only [enc, wordOf]; omega) ⟨(by decide), (width_lt wd), la.isLt, k.isLt, rb.isLt, ra.isLt, rd.isLt, (by decide), trivial⟩ rfl fun N at_ => ?_
  have p0 : bits N 0 5 = 13 := at_ 0
  have p1 : bits N 5 2 = wd.code := at_ 1
  have p2 : bits N 7 4 = la.val := at_ 2
  have p3 : bits N 11 3 = k.val := at_ 3
  have p4 : bits N 14 4 = rb.val := at_ 4
  have p5 : bits N 18 4 = ra.val := at_ 5
  have p6 : bits N 22 4 = rd.val := at_ 6
  have p7 : bits N 26 6 = 37 := at_ 7
  exact (raw p7).trans (show decodeOp25 N = _ from ((if_neg (differ p0 (by decide))).trans ((if_neg (differ p0 (by decide))).trans ((if_neg (differ p0 (by decide))).trans ((if_neg (differ p0 (by decide))).trans ((if_neg (differ p0 (by decide))).trans ((if_neg (differ p0 (by decide))).trans ((if_neg (differ p0 (by decide))).trans ((if_neg (differ p0 (by decide))).trans ((if_neg (differ p0 (by decide))).trans ((if_neg (differ p0 (by decide))).trans ((if_neg (differ p0 (by decide))).trans ((if_neg (differ p0 (by decide))).trans ((if_neg (differ p0 (by decide))).trans ((if_pos p0).trans (by simp only [p1, p6, p5, p4, p3, p2, back_width, back_fin, Option.bind_some]))))))))))))))))

theorem RoundTrip.vsubs rd ra rb k la wd : RoundTrip.Statement (.vsubs rd ra rb k la wd) := by
  refine statement_of (l := [(14, 5), (wd.code, 2), (la.val, 4), (k.val, 3), (rb.val, 4), (ra.val, 4), (rd.val, 4), (37, 6)]) rfl (by have := width_lt wd; simp only [enc, wordOf]; omega) ⟨(by decide), (width_lt wd), la.isLt, k.isLt, rb.isLt, ra.isLt, rd.isLt, (by decide), trivial⟩ rfl fun N at_ => ?_
  have p0 : bits N 0 5 = 14 := at_ 0
  have p1 : bits N 5 2 = wd.code := at_ 1
  have p2 : bits N 7 4 = la.val := at_ 2
  have p3 : bits N 11 3 = k.val := at_ 3
  have p4 : bits N 14 4 = rb.val := at_ 4
  have p5 : bits N 18 4 = ra.val := at_ 5
  have p6 : bits N 22 4 = rd.val := at_ 6
  have p7 : bits N 26 6 = 37 := at_ 7
  exact (raw p7).trans (show decodeOp25 N = _ from ((if_neg (differ p0 (by decide))).trans ((if_neg (differ p0 (by decide))).trans ((if_neg (differ p0 (by decide))).trans ((if_neg (differ p0 (by decide))).trans ((if_neg (differ p0 (by decide))).trans ((if_neg (differ p0 (by decide))).trans ((if_neg (differ p0 (by decide))).trans ((if_neg (differ p0 (by decide))).trans ((if_neg (differ p0 (by decide))).trans ((if_neg (differ p0 (by decide))).trans ((if_neg (differ p0 (by decide))).trans ((if_neg (differ p0 (by decide))).trans ((if_neg (differ p0 (by decide))).trans ((if_neg (differ p0 (by decide))).trans ((if_pos p0).trans (by simp only [p1, p6, p5, p4, p3, p2, back_width, back_fin, Option.bind_some])))))))))))))))))

theorem RoundTrip.vaddus rd ra rb k la wd : RoundTrip.Statement (.vaddus rd ra rb k la wd) := by
  refine statement_of (l := [(15, 5), (wd.code, 2), (la.val, 4), (k.val, 3), (rb.val, 4), (ra.val, 4), (rd.val, 4), (37, 6)]) rfl (by have := width_lt wd; simp only [enc, wordOf]; omega) ⟨(by decide), (width_lt wd), la.isLt, k.isLt, rb.isLt, ra.isLt, rd.isLt, (by decide), trivial⟩ rfl fun N at_ => ?_
  have p0 : bits N 0 5 = 15 := at_ 0
  have p1 : bits N 5 2 = wd.code := at_ 1
  have p2 : bits N 7 4 = la.val := at_ 2
  have p3 : bits N 11 3 = k.val := at_ 3
  have p4 : bits N 14 4 = rb.val := at_ 4
  have p5 : bits N 18 4 = ra.val := at_ 5
  have p6 : bits N 22 4 = rd.val := at_ 6
  have p7 : bits N 26 6 = 37 := at_ 7
  exact (raw p7).trans (show decodeOp25 N = _ from ((if_neg (differ p0 (by decide))).trans ((if_neg (differ p0 (by decide))).trans ((if_neg (differ p0 (by decide))).trans ((if_neg (differ p0 (by decide))).trans ((if_neg (differ p0 (by decide))).trans ((if_neg (differ p0 (by decide))).trans ((if_neg (differ p0 (by decide))).trans ((if_neg (differ p0 (by decide))).trans ((if_neg (differ p0 (by decide))).trans ((if_neg (differ p0 (by decide))).trans ((if_neg (differ p0 (by decide))).trans ((if_neg (differ p0 (by decide))).trans ((if_neg (differ p0 (by decide))).trans ((if_neg (differ p0 (by decide))).trans ((if_neg (differ p0 (by decide))).trans ((if_pos p0).trans (by simp only [p1, p6, p5, p4, p3, p2, back_width, back_fin, Option.bind_some]))))))))))))))))))

theorem RoundTrip.vsubus rd ra rb k la wd : RoundTrip.Statement (.vsubus rd ra rb k la wd) := by
  refine statement_of (l := [(16, 5), (wd.code, 2), (la.val, 4), (k.val, 3), (rb.val, 4), (ra.val, 4), (rd.val, 4), (37, 6)]) rfl (by have := width_lt wd; simp only [enc, wordOf]; omega) ⟨(by decide), (width_lt wd), la.isLt, k.isLt, rb.isLt, ra.isLt, rd.isLt, (by decide), trivial⟩ rfl fun N at_ => ?_
  have p0 : bits N 0 5 = 16 := at_ 0
  have p1 : bits N 5 2 = wd.code := at_ 1
  have p2 : bits N 7 4 = la.val := at_ 2
  have p3 : bits N 11 3 = k.val := at_ 3
  have p4 : bits N 14 4 = rb.val := at_ 4
  have p5 : bits N 18 4 = ra.val := at_ 5
  have p6 : bits N 22 4 = rd.val := at_ 6
  have p7 : bits N 26 6 = 37 := at_ 7
  exact (raw p7).trans (show decodeOp25 N = _ from ((if_neg (differ p0 (by decide))).trans ((if_neg (differ p0 (by decide))).trans ((if_neg (differ p0 (by decide))).trans ((if_neg (differ p0 (by decide))).trans ((if_neg (differ p0 (by decide))).trans ((if_neg (differ p0 (by decide))).trans ((if_neg (differ p0 (by decide))).trans ((if_neg (differ p0 (by decide))).trans ((if_neg (differ p0 (by decide))).trans ((if_neg (differ p0 (by decide))).trans ((if_neg (differ p0 (by decide))).trans ((if_neg (differ p0 (by decide))).trans ((if_neg (differ p0 (by decide))).trans ((if_neg (differ p0 (by decide))).trans ((if_neg (differ p0 (by decide))).trans ((if_neg (differ p0 (by decide))).trans ((if_pos p0).trans (by simp only [p1, p6, p5, p4, p3, p2, back_width, back_fin, Option.bind_some])))))))))))))))))))

theorem RoundTrip.vabs rd ra k la wd : RoundTrip.Statement (.vabs rd ra k la wd) := by
  refine statement_of (l := [(17, 5), (wd.code, 2), (la.val, 4), (k.val, 3), (0, 4), (ra.val, 4), (rd.val, 4), (37, 6)]) rfl (by have := width_lt wd; simp only [enc, wordOf]; omega) ⟨(by decide), (width_lt wd), la.isLt, k.isLt, (by decide), ra.isLt, rd.isLt, (by decide), trivial⟩ rfl fun N at_ => ?_
  have p0 : bits N 0 5 = 17 := at_ 0
  have p1 : bits N 5 2 = wd.code := at_ 1
  have p2 : bits N 7 4 = la.val := at_ 2
  have p3 : bits N 11 3 = k.val := at_ 3
  have p4 : bits N 14 4 = 0 := at_ 4
  have p5 : bits N 18 4 = ra.val := at_ 5
  have p6 : bits N 22 4 = rd.val := at_ 6
  have p7 : bits N 26 6 = 37 := at_ 7
  exact (raw p7).trans (show decodeOp25 N = _ from ((if_neg (differ p0 (by decide))).trans ((if_neg (differ p0 (by decide))).trans ((if_neg (differ p0 (by decide))).trans ((if_neg (differ p0 (by decide))).trans ((if_neg (differ p0 (by decide))).trans ((if_neg (differ p0 (by decide))).trans ((if_neg (differ p0 (by decide))).trans ((if_neg (differ p0 (by decide))).trans ((if_neg (differ p0 (by decide))).trans ((if_neg (differ p0 (by decide))).trans ((if_neg (differ p0 (by decide))).trans ((if_neg (differ p0 (by decide))).trans ((if_neg (differ p0 (by decide))).trans ((if_neg (differ p0 (by decide))).trans ((if_neg (differ p0 (by decide))).trans ((if_neg (differ p0 (by decide))).trans ((if_neg (differ p0 (by decide))).trans ((if_pos ⟨p0, p4⟩).trans (by simp only [p1, p6, p5, p3, p2, back_width, back_fin, Option.bind_some]))))))))))))))))))))

theorem RoundTrip.vcmp rd ra rb k la t c : RoundTrip.Statement (.vcmp rd ra rb k la t c) := by
  refine statement_of (l := [(c.code, 5), (t.code, 2), (la.val, 4), (k.val, 3), (rb.val, 4), (ra.val, 4), (rd.val, 3), (0, 1), (38, 6)]) rfl (by have := type_lt t; have := cond_lt c; simp only [enc, wordOf]; omega) ⟨(cond_lt c), (type_lt t), la.isLt, k.isLt, rb.isLt, ra.isLt, rd.isLt, (by decide), (by decide), trivial⟩ rfl fun N at_ => ?_
  have p0 : bits N 0 5 = c.code := at_ 0
  have p1 : bits N 5 2 = t.code := at_ 1
  have p2 : bits N 7 4 = la.val := at_ 2
  have p3 : bits N 11 3 = k.val := at_ 3
  have p4 : bits N 14 4 = rb.val := at_ 4
  have p5 : bits N 18 4 = ra.val := at_ 5
  have p6 : bits N 22 3 = rd.val := at_ 6
  have p7 : bits N 25 1 = 0 := at_ 7
  have p8 : bits N 26 6 = 38 := at_ 8
  exact (raw p8).trans (show decodeOp26 N = _ from ((if_pos p7).trans (by simp only [p1, p0, p6, p5, p4, p3, p2, back_type, back_cond, back_fin, Option.bind_some])))

theorem RoundTrip.vcvt rd ra p k la rm c : RoundTrip.Statement (.vcvt rd ra p k la rm c) := by
  refine statement_of (l := [(c.val, 5), (rm.code, 2), (la.val, 4), (k.val, 3), (p.val, 2), (0, 2), (ra.val, 4), (rd.val, 4), (39, 6)]) rfl (by have := rm_lt rm; simp only [enc, wordOf]; omega) ⟨c.isLt, (rm_lt rm), la.isLt, k.isLt, p.isLt, (by decide), ra.isLt, rd.isLt, (by decide), trivial⟩ rfl fun N at_ => ?_
  have p0 : bits N 0 5 = c.val := at_ 0
  have p1 : bits N 5 2 = rm.code := at_ 1
  have p2 : bits N 7 4 = la.val := at_ 2
  have p3 : bits N 11 3 = k.val := at_ 3
  have p4 : bits N 14 2 = p.val := at_ 4
  have p5 : bits N 16 2 = 0 := at_ 5
  have p6 : bits N 18 4 = ra.val := at_ 6
  have p7 : bits N 22 4 = rd.val := at_ 7
  have p8 : bits N 26 6 = 39 := at_ 8
  exact (raw p8).trans (show decodeOp27 N = _ from ((if_pos p5).trans (by simp only [p7, p6, p4, p3, p2, p1, p0, back_rm, back_fin])))

theorem RoundTrip.vperm rd ra rb k la : RoundTrip.Statement (.vperm rd ra rb k la) := by
  refine statement_of (l := [(0, 7), (la.val, 4), (k.val, 3), (rb.val, 4), (ra.val, 4), (rd.val, 4), (40, 6)]) rfl (by simp only [enc, wordOf]; omega) ⟨(by decide), la.isLt, k.isLt, rb.isLt, ra.isLt, rd.isLt, (by decide), trivial⟩ rfl fun N at_ => ?_
  have p0 : bits N 0 7 = 0 := at_ 0
  have p1 : bits N 7 4 = la.val := at_ 1
  have p2 : bits N 11 3 = k.val := at_ 2
  have p3 : bits N 14 4 = rb.val := at_ 3
  have p4 : bits N 18 4 = ra.val := at_ 4
  have p5 : bits N 22 4 = rd.val := at_ 5
  have p6 : bits N 26 6 = 40 := at_ 6
  exact (raw p6).trans (show decodeOp28 N = _ from ((if_pos p0).trans (by simp only [p5, p4, p3, p2, p1, back_fin])))

theorem RoundTrip.vsel rd ra rb k la : RoundTrip.Statement (.vsel rd ra rb k la) := by
  refine statement_of (l := [(1, 7), (la.val, 4), (k.val, 3), (rb.val, 4), (ra.val, 4), (rd.val, 4), (40, 6)]) rfl (by simp only [enc, wordOf]; omega) ⟨(by decide), la.isLt, k.isLt, rb.isLt, ra.isLt, rd.isLt, (by decide), trivial⟩ rfl fun N at_ => ?_
  have p0 : bits N 0 7 = 1 := at_ 0
  have p1 : bits N 7 4 = la.val := at_ 1
  have p2 : bits N 11 3 = k.val := at_ 2
  have p3 : bits N 14 4 = rb.val := at_ 3
  have p4 : bits N 18 4 = ra.val := at_ 4
  have p5 : bits N 22 4 = rd.val := at_ 5
  have p6 : bits N 26 6 = 40 := at_ 6
  exact (raw p6).trans (show decodeOp28 N = _ from ((if_neg (differ p0 (by decide))).trans ((if_pos p0).trans (by simp only [p5, p4, p3, p2, p1, back_fin]))))

theorem RoundTrip.vzip rd ra rb k la : RoundTrip.Statement (.vzip rd ra rb k la) := by
  refine statement_of (l := [(2, 7), (la.val, 4), (k.val, 3), (rb.val, 4), (ra.val, 4), (rd.val, 4), (40, 6)]) rfl (by simp only [enc, wordOf]; omega) ⟨(by decide), la.isLt, k.isLt, rb.isLt, ra.isLt, rd.isLt, (by decide), trivial⟩ rfl fun N at_ => ?_
  have p0 : bits N 0 7 = 2 := at_ 0
  have p1 : bits N 7 4 = la.val := at_ 1
  have p2 : bits N 11 3 = k.val := at_ 2
  have p3 : bits N 14 4 = rb.val := at_ 3
  have p4 : bits N 18 4 = ra.val := at_ 4
  have p5 : bits N 22 4 = rd.val := at_ 5
  have p6 : bits N 26 6 = 40 := at_ 6
  exact (raw p6).trans (show decodeOp28 N = _ from ((if_neg (differ p0 (by decide))).trans ((if_neg (differ p0 (by decide))).trans ((if_pos p0).trans (by simp only [p5, p4, p3, p2, p1, back_fin])))))

theorem RoundTrip.vunzip rd ra rb k la : RoundTrip.Statement (.vunzip rd ra rb k la) := by
  refine statement_of (l := [(3, 7), (la.val, 4), (k.val, 3), (rb.val, 4), (ra.val, 4), (rd.val, 4), (40, 6)]) rfl (by simp only [enc, wordOf]; omega) ⟨(by decide), la.isLt, k.isLt, rb.isLt, ra.isLt, rd.isLt, (by decide), trivial⟩ rfl fun N at_ => ?_
  have p0 : bits N 0 7 = 3 := at_ 0
  have p1 : bits N 7 4 = la.val := at_ 1
  have p2 : bits N 11 3 = k.val := at_ 2
  have p3 : bits N 14 4 = rb.val := at_ 3
  have p4 : bits N 18 4 = ra.val := at_ 4
  have p5 : bits N 22 4 = rd.val := at_ 5
  have p6 : bits N 26 6 = 40 := at_ 6
  exact (raw p6).trans (show decodeOp28 N = _ from ((if_neg (differ p0 (by decide))).trans ((if_neg (differ p0 (by decide))).trans ((if_neg (differ p0 (by decide))).trans ((if_pos p0).trans (by simp only [p5, p4, p3, p2, p1, back_fin]))))))

theorem RoundTrip.vcompress rd ra k la : RoundTrip.Statement (.vcompress rd ra k la) := by
  refine statement_of (l := [(4, 7), (la.val, 4), (k.val, 3), (0, 4), (ra.val, 4), (rd.val, 4), (40, 6)]) rfl (by simp only [enc, wordOf]; omega) ⟨(by decide), la.isLt, k.isLt, (by decide), ra.isLt, rd.isLt, (by decide), trivial⟩ rfl fun N at_ => ?_
  have p0 : bits N 0 7 = 4 := at_ 0
  have p1 : bits N 7 4 = la.val := at_ 1
  have p2 : bits N 11 3 = k.val := at_ 2
  have p3 : bits N 14 4 = 0 := at_ 3
  have p4 : bits N 18 4 = ra.val := at_ 4
  have p5 : bits N 22 4 = rd.val := at_ 5
  have p6 : bits N 26 6 = 40 := at_ 6
  exact (raw p6).trans (show decodeOp28 N = _ from ((if_neg (differ p0 (by decide))).trans ((if_neg (differ p0 (by decide))).trans ((if_neg (differ p0 (by decide))).trans ((if_neg (differ p0 (by decide))).trans ((if_pos ⟨p0, p3⟩).trans (by simp only [p5, p4, p2, p1, back_fin])))))))

theorem RoundTrip.vexpand rd ra k la : RoundTrip.Statement (.vexpand rd ra k la) := by
  refine statement_of (l := [(5, 7), (la.val, 4), (k.val, 3), (0, 4), (ra.val, 4), (rd.val, 4), (40, 6)]) rfl (by simp only [enc, wordOf]; omega) ⟨(by decide), la.isLt, k.isLt, (by decide), ra.isLt, rd.isLt, (by decide), trivial⟩ rfl fun N at_ => ?_
  have p0 : bits N 0 7 = 5 := at_ 0
  have p1 : bits N 7 4 = la.val := at_ 1
  have p2 : bits N 11 3 = k.val := at_ 2
  have p3 : bits N 14 4 = 0 := at_ 3
  have p4 : bits N 18 4 = ra.val := at_ 4
  have p5 : bits N 22 4 = rd.val := at_ 5
  have p6 : bits N 26 6 = 40 := at_ 6
  exact (raw p6).trans (show decodeOp28 N = _ from ((if_neg (differ p0 (by decide))).trans ((if_neg (differ p0 (by decide))).trans ((if_neg (differ p0 (by decide))).trans ((if_neg (differ p0 (by decide))).trans ((if_neg (fun h => (differ p0 (by decide)) h.1)).trans ((if_pos ⟨p0, p3⟩).trans (by simp only [p5, p4, p2, p1, back_fin]))))))))

theorem RoundTrip.vredadd rd ra k la : RoundTrip.Statement (.vredadd rd ra k la) := by
  refine statement_of (l := [(0, 7), (la.val, 4), (k.val, 3), (0, 4), (ra.val, 4), (rd.val, 4), (41, 6)]) rfl (by simp only [enc, wordOf]; omega) ⟨(by decide), la.isLt, k.isLt, (by decide), ra.isLt, rd.isLt, (by decide), trivial⟩ rfl fun N at_ => ?_
  have p0 : bits N 0 7 = 0 := at_ 0
  have p1 : bits N 7 4 = la.val := at_ 1
  have p2 : bits N 11 3 = k.val := at_ 2
  have p3 : bits N 14 4 = 0 := at_ 3
  have p4 : bits N 18 4 = ra.val := at_ 4
  have p5 : bits N 22 4 = rd.val := at_ 5
  have p6 : bits N 26 6 = 41 := at_ 6
  exact (raw p6).trans (show decodeOp29 N = _ from ((if_pos ⟨p0, p3⟩).trans (by simp only [p5, p4, p2, p1, back_fin])))

theorem RoundTrip.vredmax rd ra k la : RoundTrip.Statement (.vredmax rd ra k la) := by
  refine statement_of (l := [(1, 7), (la.val, 4), (k.val, 3), (0, 4), (ra.val, 4), (rd.val, 4), (41, 6)]) rfl (by simp only [enc, wordOf]; omega) ⟨(by decide), la.isLt, k.isLt, (by decide), ra.isLt, rd.isLt, (by decide), trivial⟩ rfl fun N at_ => ?_
  have p0 : bits N 0 7 = 1 := at_ 0
  have p1 : bits N 7 4 = la.val := at_ 1
  have p2 : bits N 11 3 = k.val := at_ 2
  have p3 : bits N 14 4 = 0 := at_ 3
  have p4 : bits N 18 4 = ra.val := at_ 4
  have p5 : bits N 22 4 = rd.val := at_ 5
  have p6 : bits N 26 6 = 41 := at_ 6
  exact (raw p6).trans (show decodeOp29 N = _ from ((if_neg (fun h => (differ p0 (by decide)) h.1)).trans ((if_pos ⟨p0, p3⟩).trans (by simp only [p5, p4, p2, p1, back_fin]))))

theorem RoundTrip.vredmin rd ra k la : RoundTrip.Statement (.vredmin rd ra k la) := by
  refine statement_of (l := [(2, 7), (la.val, 4), (k.val, 3), (0, 4), (ra.val, 4), (rd.val, 4), (41, 6)]) rfl (by simp only [enc, wordOf]; omega) ⟨(by decide), la.isLt, k.isLt, (by decide), ra.isLt, rd.isLt, (by decide), trivial⟩ rfl fun N at_ => ?_
  have p0 : bits N 0 7 = 2 := at_ 0
  have p1 : bits N 7 4 = la.val := at_ 1
  have p2 : bits N 11 3 = k.val := at_ 2
  have p3 : bits N 14 4 = 0 := at_ 3
  have p4 : bits N 18 4 = ra.val := at_ 4
  have p5 : bits N 22 4 = rd.val := at_ 5
  have p6 : bits N 26 6 = 41 := at_ 6
  exact (raw p6).trans (show decodeOp29 N = _ from ((if_neg (fun h => (differ p0 (by decide)) h.1)).trans ((if_neg (fun h => (differ p0 (by decide)) h.1)).trans ((if_pos ⟨p0, p3⟩).trans (by simp only [p5, p4, p2, p1, back_fin])))))

theorem RoundTrip.vredaddi rd ra k la : RoundTrip.Statement (.vredaddi rd ra k la) := by
  refine statement_of (l := [(3, 7), (la.val, 4), (k.val, 3), (0, 4), (ra.val, 4), (rd.val, 4), (41, 6)]) rfl (by simp only [enc, wordOf]; omega) ⟨(by decide), la.isLt, k.isLt, (by decide), ra.isLt, rd.isLt, (by decide), trivial⟩ rfl fun N at_ => ?_
  have p0 : bits N 0 7 = 3 := at_ 0
  have p1 : bits N 7 4 = la.val := at_ 1
  have p2 : bits N 11 3 = k.val := at_ 2
  have p3 : bits N 14 4 = 0 := at_ 3
  have p4 : bits N 18 4 = ra.val := at_ 4
  have p5 : bits N 22 4 = rd.val := at_ 5
  have p6 : bits N 26 6 = 41 := at_ 6
  exact (raw p6).trans (show decodeOp29 N = _ from ((if_neg (fun h => (differ p0 (by decide)) h.1)).trans ((if_neg (fun h => (differ p0 (by decide)) h.1)).trans ((if_neg (fun h => (differ p0 (by decide)) h.1)).trans ((if_pos ⟨p0, p3⟩).trans (by simp only [p5, p4, p2, p1, back_fin]))))))

theorem RoundTrip.vredmaxi rd ra k la : RoundTrip.Statement (.vredmaxi rd ra k la) := by
  refine statement_of (l := [(4, 7), (la.val, 4), (k.val, 3), (0, 4), (ra.val, 4), (rd.val, 4), (41, 6)]) rfl (by simp only [enc, wordOf]; omega) ⟨(by decide), la.isLt, k.isLt, (by decide), ra.isLt, rd.isLt, (by decide), trivial⟩ rfl fun N at_ => ?_
  have p0 : bits N 0 7 = 4 := at_ 0
  have p1 : bits N 7 4 = la.val := at_ 1
  have p2 : bits N 11 3 = k.val := at_ 2
  have p3 : bits N 14 4 = 0 := at_ 3
  have p4 : bits N 18 4 = ra.val := at_ 4
  have p5 : bits N 22 4 = rd.val := at_ 5
  have p6 : bits N 26 6 = 41 := at_ 6
  exact (raw p6).trans (show decodeOp29 N = _ from ((if_neg (fun h => (differ p0 (by decide)) h.1)).trans ((if_neg (fun h => (differ p0 (by decide)) h.1)).trans ((if_neg (fun h => (differ p0 (by decide)) h.1)).trans ((if_neg (fun h => (differ p0 (by decide)) h.1)).trans ((if_pos ⟨p0, p3⟩).trans (by simp only [p5, p4, p2, p1, back_fin])))))))

theorem RoundTrip.vredmini rd ra k la : RoundTrip.Statement (.vredmini rd ra k la) := by
  refine statement_of (l := [(5, 7), (la.val, 4), (k.val, 3), (0, 4), (ra.val, 4), (rd.val, 4), (41, 6)]) rfl (by simp only [enc, wordOf]; omega) ⟨(by decide), la.isLt, k.isLt, (by decide), ra.isLt, rd.isLt, (by decide), trivial⟩ rfl fun N at_ => ?_
  have p0 : bits N 0 7 = 5 := at_ 0
  have p1 : bits N 7 4 = la.val := at_ 1
  have p2 : bits N 11 3 = k.val := at_ 2
  have p3 : bits N 14 4 = 0 := at_ 3
  have p4 : bits N 18 4 = ra.val := at_ 4
  have p5 : bits N 22 4 = rd.val := at_ 5
  have p6 : bits N 26 6 = 41 := at_ 6
  exact (raw p6).trans (show decodeOp29 N = _ from ((if_neg (fun h => (differ p0 (by decide)) h.1)).trans ((if_neg (fun h => (differ p0 (by decide)) h.1)).trans ((if_neg (fun h => (differ p0 (by decide)) h.1)).trans ((if_neg (fun h => (differ p0 (by decide)) h.1)).trans ((if_neg (fun h => (differ p0 (by decide)) h.1)).trans ((if_pos ⟨p0, p3⟩).trans (by simp only [p5, p4, p2, p1, back_fin]))))))))

theorem RoundTrip.vredand rd ra k la : RoundTrip.Statement (.vredand rd ra k la) := by
  refine statement_of (l := [(6, 7), (la.val, 4), (k.val, 3), (0, 4), (ra.val, 4), (rd.val, 4), (41, 6)]) rfl (by simp only [enc, wordOf]; omega) ⟨(by decide), la.isLt, k.isLt, (by decide), ra.isLt, rd.isLt, (by decide), trivial⟩ rfl fun N at_ => ?_
  have p0 : bits N 0 7 = 6 := at_ 0
  have p1 : bits N 7 4 = la.val := at_ 1
  have p2 : bits N 11 3 = k.val := at_ 2
  have p3 : bits N 14 4 = 0 := at_ 3
  have p4 : bits N 18 4 = ra.val := at_ 4
  have p5 : bits N 22 4 = rd.val := at_ 5
  have p6 : bits N 26 6 = 41 := at_ 6
  exact (raw p6).trans (show decodeOp29 N = _ from ((if_neg (fun h => (differ p0 (by decide)) h.1)).trans ((if_neg (fun h => (differ p0 (by decide)) h.1)).trans ((if_neg (fun h => (differ p0 (by decide)) h.1)).trans ((if_neg (fun h => (differ p0 (by decide)) h.1)).trans ((if_neg (fun h => (differ p0 (by decide)) h.1)).trans ((if_neg (fun h => (differ p0 (by decide)) h.1)).trans ((if_pos ⟨p0, p3⟩).trans (by simp only [p5, p4, p2, p1, back_fin])))))))))

theorem RoundTrip.vredor rd ra k la : RoundTrip.Statement (.vredor rd ra k la) := by
  refine statement_of (l := [(7, 7), (la.val, 4), (k.val, 3), (0, 4), (ra.val, 4), (rd.val, 4), (41, 6)]) rfl (by simp only [enc, wordOf]; omega) ⟨(by decide), la.isLt, k.isLt, (by decide), ra.isLt, rd.isLt, (by decide), trivial⟩ rfl fun N at_ => ?_
  have p0 : bits N 0 7 = 7 := at_ 0
  have p1 : bits N 7 4 = la.val := at_ 1
  have p2 : bits N 11 3 = k.val := at_ 2
  have p3 : bits N 14 4 = 0 := at_ 3
  have p4 : bits N 18 4 = ra.val := at_ 4
  have p5 : bits N 22 4 = rd.val := at_ 5
  have p6 : bits N 26 6 = 41 := at_ 6
  exact (raw p6).trans (show decodeOp29 N = _ from ((if_neg (fun h => (differ p0 (by decide)) h.1)).trans ((if_neg (fun h => (differ p0 (by decide)) h.1)).trans ((if_neg (fun h => (differ p0 (by decide)) h.1)).trans ((if_neg (fun h => (differ p0 (by decide)) h.1)).trans ((if_neg (fun h => (differ p0 (by decide)) h.1)).trans ((if_neg (fun h => (differ p0 (by decide)) h.1)).trans ((if_neg (fun h => (differ p0 (by decide)) h.1)).trans ((if_pos ⟨p0, p3⟩).trans (by simp only [p5, p4, p2, p1, back_fin]))))))))))

theorem RoundTrip.vredxor rd ra k la : RoundTrip.Statement (.vredxor rd ra k la) := by
  refine statement_of (l := [(8, 7), (la.val, 4), (k.val, 3), (0, 4), (ra.val, 4), (rd.val, 4), (41, 6)]) rfl (by simp only [enc, wordOf]; omega) ⟨(by decide), la.isLt, k.isLt, (by decide), ra.isLt, rd.isLt, (by decide), trivial⟩ rfl fun N at_ => ?_
  have p0 : bits N 0 7 = 8 := at_ 0
  have p1 : bits N 7 4 = la.val := at_ 1
  have p2 : bits N 11 3 = k.val := at_ 2
  have p3 : bits N 14 4 = 0 := at_ 3
  have p4 : bits N 18 4 = ra.val := at_ 4
  have p5 : bits N 22 4 = rd.val := at_ 5
  have p6 : bits N 26 6 = 41 := at_ 6
  exact (raw p6).trans (show decodeOp29 N = _ from ((if_neg (fun h => (differ p0 (by decide)) h.1)).trans ((if_neg (fun h => (differ p0 (by decide)) h.1)).trans ((if_neg (fun h => (differ p0 (by decide)) h.1)).trans ((if_neg (fun h => (differ p0 (by decide)) h.1)).trans ((if_neg (fun h => (differ p0 (by decide)) h.1)).trans ((if_neg (fun h => (differ p0 (by decide)) h.1)).trans ((if_neg (fun h => (differ p0 (by decide)) h.1)).trans ((if_neg (fun h => (differ p0 (by decide)) h.1)).trans ((if_pos ⟨p0, p3⟩).trans (by simp only [p5, p4, p2, p1, back_fin])))))))))))

theorem RoundTrip.vsort rd ra k la x : RoundTrip.Statement (.vsort rd ra k la x) := by
  refine statement_of (l := [(x.toNat, 1), (0, 6), (la.val, 4), (k.val, 3), (0, 4), (ra.val, 4), (0, 1), (rd.val, 3), (42, 6)]) rfl (by have := flag_lt x; simp only [enc, wordOf]; omega) ⟨(flag_lt x), (by decide), la.isLt, k.isLt, (by decide), ra.isLt, (by decide), rd.isLt, (by decide), trivial⟩ rfl fun N at_ => ?_
  have p0 : bits N 0 1 = x.toNat := at_ 0
  have p1 : bits N 1 6 = 0 := at_ 1
  have p2 : bits N 7 4 = la.val := at_ 2
  have p3 : bits N 11 3 = k.val := at_ 3
  have p4 : bits N 14 4 = 0 := at_ 4
  have p5 : bits N 18 4 = ra.val := at_ 5
  have p6 : bits N 22 1 = 0 := at_ 6
  have p7 : bits N 23 3 = rd.val := at_ 7
  have p8 : bits N 26 6 = 42 := at_ 8
  exact (raw p8).trans (show decodeOp2A N = _ from ((if_pos ⟨p1, p4, p6⟩).trans (by simp only [p7, p5, p3, p2, p0, back_fin, back_flag])))

theorem RoundTrip.vselk rd ra rb k la x : RoundTrip.Statement (.vselk rd ra rb k la x) := by
  refine statement_of (l := [(x.toNat, 1), (1, 6), (la.val, 4), (k.val, 3), (rb.val, 4), (ra.val, 4), (0, 1), (rd.val, 3), (42, 6)]) rfl (by have := flag_lt x; simp only [enc, wordOf]; omega) ⟨(flag_lt x), (by decide), la.isLt, k.isLt, rb.isLt, ra.isLt, (by decide), rd.isLt, (by decide), trivial⟩ rfl fun N at_ => ?_
  have p0 : bits N 0 1 = x.toNat := at_ 0
  have p1 : bits N 1 6 = 1 := at_ 1
  have p2 : bits N 7 4 = la.val := at_ 2
  have p3 : bits N 11 3 = k.val := at_ 3
  have p4 : bits N 14 4 = rb.val := at_ 4
  have p5 : bits N 18 4 = ra.val := at_ 5
  have p6 : bits N 22 1 = 0 := at_ 6
  have p7 : bits N 23 3 = rd.val := at_ 7
  have p8 : bits N 26 6 = 42 := at_ 8
  exact (raw p8).trans (show decodeOp2A N = _ from ((if_neg (fun h => (differ p1 (by decide)) h.1)).trans ((if_pos ⟨p1, p6⟩).trans (by simp only [p7, p5, p4, p3, p2, p0, back_fin, back_flag]))))

theorem RoundTrip.vmergek rd ra rb k la x : RoundTrip.Statement (.vmergek rd ra rb k la x) := by
  refine statement_of (l := [(x.toNat, 1), (2, 6), (la.val, 4), (k.val, 3), (rb.val, 4), (0, 1), (ra.val, 3), (0, 1), (rd.val, 3), (42, 6)]) rfl (by have := flag_lt x; simp only [enc, wordOf]; omega) ⟨(flag_lt x), (by decide), la.isLt, k.isLt, rb.isLt, (by decide), ra.isLt, (by decide), rd.isLt, (by decide), trivial⟩ rfl fun N at_ => ?_
  have p0 : bits N 0 1 = x.toNat := at_ 0
  have p1 : bits N 1 6 = 2 := at_ 1
  have p2 : bits N 7 4 = la.val := at_ 2
  have p3 : bits N 11 3 = k.val := at_ 3
  have p4 : bits N 14 4 = rb.val := at_ 4
  have p5 : bits N 18 1 = 0 := at_ 5
  have p6 : bits N 19 3 = ra.val := at_ 6
  have p7 : bits N 22 1 = 0 := at_ 7
  have p8 : bits N 23 3 = rd.val := at_ 8
  have p9 : bits N 26 6 = 42 := at_ 9
  exact (raw p9).trans (show decodeOp2A N = _ from ((if_neg (fun h => (differ p1 (by decide)) h.1)).trans ((if_neg (fun h => (differ p1 (by decide)) h.1)).trans ((if_pos ⟨p1, p5, p7⟩).trans (by simp only [p8, p6, p4, p3, p2, p0, back_fin, back_flag])))))

theorem RoundTrip.vbcast rd ra la : RoundTrip.Statement (.vbcast rd ra la) := by
  refine statement_of (l := [(0, 7), (la.val, 4), (0, 5), (ra.val, 5), (rd.val, 4), (0, 1), (43, 6)]) rfl (by simp only [enc, wordOf]; omega) ⟨(by decide), la.isLt, (by decide), ra.isLt, rd.isLt, (by decide), (by decide), trivial⟩ rfl fun N at_ => ?_
  have p0 : bits N 0 7 = 0 := at_ 0
  have p1 : bits N 7 4 = la.val := at_ 1
  have p2 : bits N 11 5 = 0 := at_ 2
  have p3 : bits N 16 5 = ra.val := at_ 3
  have p4 : bits N 21 4 = rd.val := at_ 4
  have p5 : bits N 25 1 = 0 := at_ 5
  have p6 : bits N 26 6 = 43 := at_ 6
  exact (raw p6).trans (show decodeOp2B N = _ from ((if_pos ⟨p0, p2, p5⟩).trans (by simp only [p4, p3, p1, back_fin])))

theorem RoundTrip.vins rd ra rb la : RoundTrip.Statement (.vins rd ra rb la) := by
  refine statement_of (l := [(1, 7), (la.val, 4), (rb.val, 5), (ra.val, 5), (rd.val, 4), (0, 1), (43, 6)]) rfl (by simp only [enc, wordOf]; omega) ⟨(by decide), la.isLt, rb.isLt, ra.isLt, rd.isLt, (by decide), (by decide), trivial⟩ rfl fun N at_ => ?_
  have p0 : bits N 0 7 = 1 := at_ 0
  have p1 : bits N 7 4 = la.val := at_ 1
  have p2 : bits N 11 5 = rb.val := at_ 2
  have p3 : bits N 16 5 = ra.val := at_ 3
  have p4 : bits N 21 4 = rd.val := at_ 4
  have p5 : bits N 25 1 = 0 := at_ 5
  have p6 : bits N 26 6 = 43 := at_ 6
  exact (raw p6).trans (show decodeOp2B N = _ from ((if_neg (fun h => (differ p0 (by decide)) h.1)).trans ((if_pos ⟨p0, p5⟩).trans (by simp only [p4, p3, p2, p1, back_fin]))))

theorem RoundTrip.vext rd ra rb la : RoundTrip.Statement (.vext rd ra rb la) := by
  refine statement_of (l := [(2, 7), (la.val, 4), (rb.val, 5), (ra.val, 4), (0, 1), (rd.val, 5), (43, 6)]) rfl (by simp only [enc, wordOf]; omega) ⟨(by decide), la.isLt, rb.isLt, ra.isLt, (by decide), rd.isLt, (by decide), trivial⟩ rfl fun N at_ => ?_
  have p0 : bits N 0 7 = 2 := at_ 0
  have p1 : bits N 7 4 = la.val := at_ 1
  have p2 : bits N 11 5 = rb.val := at_ 2
  have p3 : bits N 16 4 = ra.val := at_ 3
  have p4 : bits N 20 1 = 0 := at_ 4
  have p5 : bits N 21 5 = rd.val := at_ 5
  have p6 : bits N 26 6 = 43 := at_ 6
  exact (raw p6).trans (show decodeOp2B N = _ from ((if_neg (fun h => (differ p0 (by decide)) h.1)).trans ((if_neg (fun h => (differ p0 (by decide)) h.1)).trans ((if_pos ⟨p0, p4⟩).trans (by simp only [p5, p3, p2, p1, back_fin])))))

theorem RoundTrip.kmovgk rd ra la : RoundTrip.Statement (.kmovgk rd ra la) := by
  refine statement_of (l := [(3, 7), (la.val, 4), (0, 5), (ra.val, 5), (rd.val, 3), (0, 2), (43, 6)]) rfl (by simp only [enc, wordOf]; omega) ⟨(by decide), la.isLt, (by decide), ra.isLt, rd.isLt, (by decide), (by decide), trivial⟩ rfl fun N at_ => ?_
  have p0 : bits N 0 7 = 3 := at_ 0
  have p1 : bits N 7 4 = la.val := at_ 1
  have p2 : bits N 11 5 = 0 := at_ 2
  have p3 : bits N 16 5 = ra.val := at_ 3
  have p4 : bits N 21 3 = rd.val := at_ 4
  have p5 : bits N 24 2 = 0 := at_ 5
  have p6 : bits N 26 6 = 43 := at_ 6
  exact (raw p6).trans (show decodeOp2B N = _ from ((if_neg (fun h => (differ p0 (by decide)) h.1)).trans ((if_neg (fun h => (differ p0 (by decide)) h.1)).trans ((if_neg (fun h => (differ p0 (by decide)) h.1)).trans ((if_pos ⟨p0, p2, p5⟩).trans (by simp only [p4, p3, p1, back_fin]))))))

theorem RoundTrip.kmovkg rd ra la : RoundTrip.Statement (.kmovkg rd ra la) := by
  refine statement_of (l := [(4, 7), (la.val, 4), (0, 5), (ra.val, 3), (0, 2), (rd.val, 5), (43, 6)]) rfl (by simp only [enc, wordOf]; omega) ⟨(by decide), la.isLt, (by decide), ra.isLt, (by decide), rd.isLt, (by decide), trivial⟩ rfl fun N at_ => ?_
  have p0 : bits N 0 7 = 4 := at_ 0
  have p1 : bits N 7 4 = la.val := at_ 1
  have p2 : bits N 11 5 = 0 := at_ 2
  have p3 : bits N 16 3 = ra.val := at_ 3
  have p4 : bits N 19 2 = 0 := at_ 4
  have p5 : bits N 21 5 = rd.val := at_ 5
  have p6 : bits N 26 6 = 43 := at_ 6
  exact (raw p6).trans (show decodeOp2B N = _ from ((if_neg (fun h => (differ p0 (by decide)) h.1)).trans ((if_neg (fun h => (differ p0 (by decide)) h.1)).trans ((if_neg (fun h => (differ p0 (by decide)) h.1)).trans ((if_neg (fun h => (differ p0 (by decide)) h.1)).trans ((if_pos ⟨p0, p2, p4⟩).trans (by simp only [p5, p3, p1, back_fin])))))))

theorem RoundTrip.kpopc rd ra la : RoundTrip.Statement (.kpopc rd ra la) := by
  refine statement_of (l := [(5, 7), (la.val, 4), (0, 5), (ra.val, 3), (0, 2), (rd.val, 5), (43, 6)]) rfl (by simp only [enc, wordOf]; omega) ⟨(by decide), la.isLt, (by decide), ra.isLt, (by decide), rd.isLt, (by decide), trivial⟩ rfl fun N at_ => ?_
  have p0 : bits N 0 7 = 5 := at_ 0
  have p1 : bits N 7 4 = la.val := at_ 1
  have p2 : bits N 11 5 = 0 := at_ 2
  have p3 : bits N 16 3 = ra.val := at_ 3
  have p4 : bits N 19 2 = 0 := at_ 4
  have p5 : bits N 21 5 = rd.val := at_ 5
  have p6 : bits N 26 6 = 43 := at_ 6
  exact (raw p6).trans (show decodeOp2B N = _ from ((if_neg (fun h => (differ p0 (by decide)) h.1)).trans ((if_neg (fun h => (differ p0 (by decide)) h.1)).trans ((if_neg (fun h => (differ p0 (by decide)) h.1)).trans ((if_neg (fun h => (differ p0 (by decide)) h.1)).trans ((if_neg (fun h => (differ p0 (by decide)) h.1)).trans ((if_pos ⟨p0, p2, p4⟩).trans (by simp only [p5, p3, p1, back_fin]))))))))

theorem RoundTrip.kand rd ra rb la : RoundTrip.Statement (.kand rd ra rb la) := by
  refine statement_of (l := [(0, 7), (la.val, 4), (0, 3), (rb.val, 3), (0, 1), (ra.val, 3), (0, 1), (rd.val, 3), (0, 1), (44, 6)]) rfl (by simp only [enc, wordOf]; omega) ⟨(by decide), la.isLt, (by decide), rb.isLt, (by decide), ra.isLt, (by decide), rd.isLt, (by decide), (by decide), trivial⟩ rfl fun N at_ => ?_
  have p0 : bits N 0 7 = 0 := at_ 0
  have p1 : bits N 7 4 = la.val := at_ 1
  have p2 : bits N 11 3 = 0 := at_ 2
  have p3 : bits N 14 3 = rb.val := at_ 3
  have p4 : bits N 17 1 = 0 := at_ 4
  have p5 : bits N 18 3 = ra.val := at_ 5
  have p6 : bits N 21 1 = 0 := at_ 6
  have p7 : bits N 22 3 = rd.val := at_ 7
  have p8 : bits N 25 1 = 0 := at_ 8
  have p9 : bits N 26 6 = 44 := at_ 9
  exact (raw p9).trans (show decodeOp2C N = _ from ((if_pos ⟨p0, p2, p4, p6, p8⟩).trans (by simp only [p7, p5, p3, p1, back_fin])))

theorem RoundTrip.kor rd ra rb la : RoundTrip.Statement (.kor rd ra rb la) := by
  refine statement_of (l := [(1, 7), (la.val, 4), (0, 3), (rb.val, 3), (0, 1), (ra.val, 3), (0, 1), (rd.val, 3), (0, 1), (44, 6)]) rfl (by simp only [enc, wordOf]; omega) ⟨(by decide), la.isLt, (by decide), rb.isLt, (by decide), ra.isLt, (by decide), rd.isLt, (by decide), (by decide), trivial⟩ rfl fun N at_ => ?_
  have p0 : bits N 0 7 = 1 := at_ 0
  have p1 : bits N 7 4 = la.val := at_ 1
  have p2 : bits N 11 3 = 0 := at_ 2
  have p3 : bits N 14 3 = rb.val := at_ 3
  have p4 : bits N 17 1 = 0 := at_ 4
  have p5 : bits N 18 3 = ra.val := at_ 5
  have p6 : bits N 21 1 = 0 := at_ 6
  have p7 : bits N 22 3 = rd.val := at_ 7
  have p8 : bits N 25 1 = 0 := at_ 8
  have p9 : bits N 26 6 = 44 := at_ 9
  exact (raw p9).trans (show decodeOp2C N = _ from ((if_neg (fun h => (differ p0 (by decide)) h.1)).trans ((if_pos ⟨p0, p2, p4, p6, p8⟩).trans (by simp only [p7, p5, p3, p1, back_fin]))))

theorem RoundTrip.kxor rd ra rb la : RoundTrip.Statement (.kxor rd ra rb la) := by
  refine statement_of (l := [(2, 7), (la.val, 4), (0, 3), (rb.val, 3), (0, 1), (ra.val, 3), (0, 1), (rd.val, 3), (0, 1), (44, 6)]) rfl (by simp only [enc, wordOf]; omega) ⟨(by decide), la.isLt, (by decide), rb.isLt, (by decide), ra.isLt, (by decide), rd.isLt, (by decide), (by decide), trivial⟩ rfl fun N at_ => ?_
  have p0 : bits N 0 7 = 2 := at_ 0
  have p1 : bits N 7 4 = la.val := at_ 1
  have p2 : bits N 11 3 = 0 := at_ 2
  have p3 : bits N 14 3 = rb.val := at_ 3
  have p4 : bits N 17 1 = 0 := at_ 4
  have p5 : bits N 18 3 = ra.val := at_ 5
  have p6 : bits N 21 1 = 0 := at_ 6
  have p7 : bits N 22 3 = rd.val := at_ 7
  have p8 : bits N 25 1 = 0 := at_ 8
  have p9 : bits N 26 6 = 44 := at_ 9
  exact (raw p9).trans (show decodeOp2C N = _ from ((if_neg (fun h => (differ p0 (by decide)) h.1)).trans ((if_neg (fun h => (differ p0 (by decide)) h.1)).trans ((if_pos ⟨p0, p2, p4, p6, p8⟩).trans (by simp only [p7, p5, p3, p1, back_fin])))))

theorem RoundTrip.kandn rd ra rb la : RoundTrip.Statement (.kandn rd ra rb la) := by
  refine statement_of (l := [(3, 7), (la.val, 4), (0, 3), (rb.val, 3), (0, 1), (ra.val, 3), (0, 1), (rd.val, 3), (0, 1), (44, 6)]) rfl (by simp only [enc, wordOf]; omega) ⟨(by decide), la.isLt, (by decide), rb.isLt, (by decide), ra.isLt, (by decide), rd.isLt, (by decide), (by decide), trivial⟩ rfl fun N at_ => ?_
  have p0 : bits N 0 7 = 3 := at_ 0
  have p1 : bits N 7 4 = la.val := at_ 1
  have p2 : bits N 11 3 = 0 := at_ 2
  have p3 : bits N 14 3 = rb.val := at_ 3
  have p4 : bits N 17 1 = 0 := at_ 4
  have p5 : bits N 18 3 = ra.val := at_ 5
  have p6 : bits N 21 1 = 0 := at_ 6
  have p7 : bits N 22 3 = rd.val := at_ 7
  have p8 : bits N 25 1 = 0 := at_ 8
  have p9 : bits N 26 6 = 44 := at_ 9
  exact (raw p9).trans (show decodeOp2C N = _ from ((if_neg (fun h => (differ p0 (by decide)) h.1)).trans ((if_neg (fun h => (differ p0 (by decide)) h.1)).trans ((if_neg (fun h => (differ p0 (by decide)) h.1)).trans ((if_pos ⟨p0, p2, p4, p6, p8⟩).trans (by simp only [p7, p5, p3, p1, back_fin]))))))

theorem RoundTrip.knot rd ra la : RoundTrip.Statement (.knot rd ra la) := by
  refine statement_of (l := [(4, 7), (la.val, 4), (0, 7), (ra.val, 3), (0, 1), (rd.val, 3), (0, 1), (44, 6)]) rfl (by simp only [enc, wordOf]; omega) ⟨(by decide), la.isLt, (by decide), ra.isLt, (by decide), rd.isLt, (by decide), (by decide), trivial⟩ rfl fun N at_ => ?_
  have p0 : bits N 0 7 = 4 := at_ 0
  have p1 : bits N 7 4 = la.val := at_ 1
  have p2 : bits N 11 7 = 0 := at_ 2
  have p3 : bits N 18 3 = ra.val := at_ 3
  have p4 : bits N 21 1 = 0 := at_ 4
  have p5 : bits N 22 3 = rd.val := at_ 5
  have p6 : bits N 25 1 = 0 := at_ 6
  have p7 : bits N 26 6 = 44 := at_ 7
  exact (raw p7).trans (show decodeOp2C N = _ from ((if_neg (fun h => (differ p0 (by decide)) h.1)).trans ((if_neg (fun h => (differ p0 (by decide)) h.1)).trans ((if_neg (fun h => (differ p0 (by decide)) h.1)).trans ((if_neg (fun h => (differ p0 (by decide)) h.1)).trans ((if_pos ⟨p0, p2, p4, p6⟩).trans (by simp only [p5, p3, p1, back_fin])))))))

theorem RoundTrip.mclaim zt : RoundTrip.Statement (.mclaim zt) := by
  refine statement_of (l := [(0, 23), (zt.val, 3), (48, 6)]) rfl (by simp only [enc, wordOf]; omega) ⟨(by decide), zt.isLt, (by decide), trivial⟩ rfl fun N at_ => ?_
  have p0 : bits N 0 23 = 0 := at_ 0
  have p1 : bits N 23 3 = zt.val := at_ 1
  have p2 : bits N 26 6 = 48 := at_ 2
  exact (raw p2).trans (show decodeOp30 N = _ from ((if_pos p0).trans (by simp only [p1, back_fin])))

theorem RoundTrip.mfree zt : RoundTrip.Statement (.mfree zt) := by
  refine statement_of (l := [(1, 23), (zt.val, 3), (48, 6)]) rfl (by simp only [enc, wordOf]; omega) ⟨(by decide), zt.isLt, (by decide), trivial⟩ rfl fun N at_ => ?_
  have p0 : bits N 0 23 = 1 := at_ 0
  have p1 : bits N 23 3 = zt.val := at_ 1
  have p2 : bits N 26 6 = 48 := at_ 2
  exact (raw p2).trans (show decodeOp30 N = _ from ((if_neg (differ p0 (by decide))).trans ((if_pos p0).trans (by simp only [p1, back_fin]))))

theorem RoundTrip.mlda fmt ra rh : RoundTrip.Statement (.mlda fmt ra rh) := by
  refine statement_of (l := [(2, 9), (rh.val, 5), (ra.val, 5), (fmt.val, 4), (0, 3), (48, 6)]) rfl (by simp only [enc, wordOf]; omega) ⟨(by decide), rh.isLt, ra.isLt, fmt.isLt, (by decide), (by decide), trivial⟩ rfl fun N at_ => ?_
  have p0 : bits N 0 9 = 2 := at_ 0
  have p1 : bits N 9 5 = rh.val := at_ 1
  have p2 : bits N 14 5 = ra.val := at_ 2
  have p3 : bits N 19 4 = fmt.val := at_ 3
  have p4 : bits N 23 3 = 0 := at_ 4
  have p5 : bits N 26 6 = 48 := at_ 5
  have h0 : bits N 0 23 ≠ 0 := by rw [bits_join N 0 9 14, bits_join N 9 5 9, bits_join N 14 5 4, p0, p1, p2, p3]; omega
  have h1 : bits N 0 23 ≠ 1 := by rw [bits_join N 0 9 14, bits_join N 9 5 9, bits_join N 14 5 4, p0, p1, p2, p3]; omega
  exact (raw p5).trans (show decodeOp30 N = _ from ((if_neg (h0)).trans ((if_neg (h1)).trans ((if_pos ⟨p0, p4⟩).trans (by simp only [p3, p2, p1, back_fin])))))

theorem RoundTrip.mldb fmt ra rh : RoundTrip.Statement (.mldb fmt ra rh) := by
  refine statement_of (l := [(3, 9), (rh.val, 5), (ra.val, 5), (fmt.val, 4), (0, 3), (48, 6)]) rfl (by simp only [enc, wordOf]; omega) ⟨(by decide), rh.isLt, ra.isLt, fmt.isLt, (by decide), (by decide), trivial⟩ rfl fun N at_ => ?_
  have p0 : bits N 0 9 = 3 := at_ 0
  have p1 : bits N 9 5 = rh.val := at_ 1
  have p2 : bits N 14 5 = ra.val := at_ 2
  have p3 : bits N 19 4 = fmt.val := at_ 3
  have p4 : bits N 23 3 = 0 := at_ 4
  have p5 : bits N 26 6 = 48 := at_ 5
  have h0 : bits N 0 23 ≠ 0 := by rw [bits_join N 0 9 14, bits_join N 9 5 9, bits_join N 14 5 4, p0, p1, p2, p3]; omega
  have h1 : bits N 0 23 ≠ 1 := by rw [bits_join N 0 9 14, bits_join N 9 5 9, bits_join N 14 5 4, p0, p1, p2, p3]; omega
  exact (raw p5).trans (show decodeOp30 N = _ from ((if_neg (h0)).trans ((if_neg (h1)).trans ((if_neg (fun h => (differ p0 (by decide)) h.1)).trans ((if_pos ⟨p0, p4⟩).trans (by simp only [p3, p2, p1, back_fin]))))))

theorem RoundTrip.rpass rh : RoundTrip.Statement (.rpass rh) := by
  refine statement_of (l := [(4, 9), (rh.val, 5), (0, 9), (0, 3), (48, 6)]) rfl (by simp only [enc, wordOf]; omega) ⟨(by decide), rh.isLt, (by decide), (by decide), (by decide), trivial⟩ rfl fun N at_ => ?_
  have p0 : bits N 0 9 = 4 := at_ 0
  have p1 : bits N 9 5 = rh.val := at_ 1
  have p2 : bits N 14 9 = 0 := at_ 2
  have p3 : bits N 23 3 = 0 := at_ 3
  have p4 : bits N 26 6 = 48 := at_ 4
  have h0 : bits N 14 12 = 0 := by rw [bits_join N 14 9 3, p2, p3]; rfl
  have h1 : bits N 0 23 ≠ 0 := by rw [bits_join N 0 9 14, bits_join N 9 5 9, p0, p1, p2]; omega
  have h2 : bits N 0 23 ≠ 1 := by rw [bits_join N 0 9 14, bits_join N 9 5 9, p0, p1, p2]; omega
  exact (raw p4).trans (show decodeOp30 N = _ from ((if_neg (h1)).trans ((if_neg (h2)).trans ((if_neg (fun h => (differ p0 (by decide)) h.1)).trans ((if_neg (fun h => (differ p0 (by decide)) h.1)).trans ((if_pos ⟨p0, h0⟩).trans (by simp only [p1, back_fin])))))))

theorem RoundTrip.mma zt fmt rh : RoundTrip.Statement (.mma zt fmt rh) := by
  refine statement_of (l := [(5, 9), (rh.val, 5), (0, 5), (fmt.val, 4), (zt.val, 3), (48, 6)]) rfl (by simp only [enc, wordOf]; omega) ⟨(by decide), rh.isLt, (by decide), fmt.isLt, zt.isLt, (by decide), trivial⟩ rfl fun N at_ => ?_
  have p0 : bits N 0 9 = 5 := at_ 0
  have p1 : bits N 9 5 = rh.val := at_ 1
  have p2 : bits N 14 5 = 0 := at_ 2
  have p3 : bits N 19 4 = fmt.val := at_ 3
  have p4 : bits N 23 3 = zt.val := at_ 4
  have p5 : bits N 26 6 = 48 := at_ 5
  have h0 : bits N 0 23 ≠ 0 := by rw [bits_join N 0 9 14, bits_join N 9 5 9, bits_join N 14 5 4, p0, p1, p2, p3]; omega
  have h1 : bits N 0 23 ≠ 1 := by rw [bits_join N 0 9 14, bits_join N 9 5 9, bits_join N 14 5 4, p0, p1, p2, p3]; omega
  exact (raw p5).trans (show decodeOp30 N = _ from ((if_neg (h0)).trans ((if_neg (h1)).trans ((if_neg (fun h => (differ p0 (by decide)) h.1)).trans ((if_neg (fun h => (differ p0 (by decide)) h.1)).trans ((if_neg (fun h => (differ p0 (by decide)) h.1)).trans ((if_pos ⟨p0, p2⟩).trans (by simp only [p4, p3, p1, back_fin]))))))))

theorem RoundTrip.mmab y fmt rh : RoundTrip.Statement (.mmab y fmt rh) := by
  refine statement_of (l := [(6, 9), (rh.val, 5), (0, 5), (fmt.val, 4), (y.val, 1), (0, 2), (48, 6)]) rfl (by simp only [enc, wordOf]; omega) ⟨(by decide), rh.isLt, (by decide), fmt.isLt, y.isLt, (by decide), (by decide), trivial⟩ rfl fun N at_ => ?_
  have p0 : bits N 0 9 = 6 := at_ 0
  have p1 : bits N 9 5 = rh.val := at_ 1
  have p2 : bits N 14 5 = 0 := at_ 2
  have p3 : bits N 19 4 = fmt.val := at_ 3
  have p4 : bits N 23 1 = y.val := at_ 4
  have p5 : bits N 24 2 = 0 := at_ 5
  have p6 : bits N 26 6 = 48 := at_ 6
  have h0 : bits N 0 23 ≠ 0 := by rw [bits_join N 0 9 14, bits_join N 9 5 9, bits_join N 14 5 4, p0, p1, p2, p3]; omega
  have h1 : bits N 0 23 ≠ 1 := by rw [bits_join N 0 9 14, bits_join N 9 5 9, bits_join N 14 5 4, p0, p1, p2, p3]; omega
  exact (raw p6).trans (show decodeOp30 N = _ from ((if_neg (h0)).trans ((if_neg (h1)).trans ((if_neg (fun h => (differ p0 (by decide)) h.1)).trans ((if_neg (fun h => (differ p0 (by decide)) h.1)).trans ((if_neg (fun h => (differ p0 (by decide)) h.1)).trans ((if_neg (fun h => (differ p0 (by decide)) h.1)).trans ((if_pos ⟨p0, p2, p5⟩).trans (by simp only [p4, p3, p1, back_fin])))))))))

theorem RoundTrip.mmai y fmt ra rh : RoundTrip.Statement (.mmai y fmt ra rh) := by
  refine statement_of (l := [(7, 9), (rh.val, 5), (ra.val, 5), (fmt.val, 4), (y.val, 1), (0, 2), (48, 6)]) rfl (by simp only [enc, wordOf]; omega) ⟨(by decide), rh.isLt, ra.isLt, fmt.isLt, y.isLt, (by decide), (by decide), trivial⟩ rfl fun N at_ => ?_
  have p0 : bits N 0 9 = 7 := at_ 0
  have p1 : bits N 9 5 = rh.val := at_ 1
  have p2 : bits N 14 5 = ra.val := at_ 2
  have p3 : bits N 19 4 = fmt.val := at_ 3
  have p4 : bits N 23 1 = y.val := at_ 4
  have p5 : bits N 24 2 = 0 := at_ 5
  have p6 : bits N 26 6 = 48 := at_ 6
  have h0 : bits N 0 23 ≠ 0 := by rw [bits_join N 0 9 14, bits_join N 9 5 9, bits_join N 14 5 4, p0, p1, p2, p3]; omega
  have h1 : bits N 0 23 ≠ 1 := by rw [bits_join N 0 9 14, bits_join N 9 5 9, bits_join N 14 5 4, p0, p1, p2, p3]; omega
  exact (raw p6).trans (show decodeOp30 N = _ from ((if_neg (h0)).trans ((if_neg (h1)).trans ((if_neg (fun h => (differ p0 (by decide)) h.1)).trans ((if_neg (fun h => (differ p0 (by decide)) h.1)).trans ((if_neg (fun h => (differ p0 (by decide)) h.1)).trans ((if_neg (fun h => (differ p0 (by decide)) h.1)).trans ((if_neg (fun h => (differ p0 (by decide)) h.1)).trans ((if_pos ⟨p0, p5⟩).trans (by simp only [p4, p3, p2, p1, back_fin]))))))))))

theorem RoundTrip.msca zt k u ra rh : RoundTrip.Statement (.msca zt k u ra rh) := by
  refine statement_of (l := [(8, 9), (rh.val, 5), (ra.val, 5), (u.val, 1), (k.val, 3), (zt.val, 3), (48, 6)]) rfl (by simp only [enc, wordOf]; omega) ⟨(by decide), rh.isLt, ra.isLt, u.isLt, k.isLt, zt.isLt, (by decide), trivial⟩ rfl fun N at_ => ?_
  have p0 : bits N 0 9 = 8 := at_ 0
  have p1 : bits N 9 5 = rh.val := at_ 1
  have p2 : bits N 14 5 = ra.val := at_ 2
  have p3 : bits N 19 1 = u.val := at_ 3
  have p4 : bits N 20 3 = k.val := at_ 4
  have p5 : bits N 23 3 = zt.val := at_ 5
  have p6 : bits N 26 6 = 48 := at_ 6
  have h0 : bits N 0 23 ≠ 0 := by rw [bits_join N 0 9 14, bits_join N 9 5 9, bits_join N 14 5 4, bits_join N 19 1 3, p0, p1, p2, p3, p4]; omega
  have h1 : bits N 0 23 ≠ 1 := by rw [bits_join N 0 9 14, bits_join N 9 5 9, bits_join N 14 5 4, bits_join N 19 1 3, p0, p1, p2, p3, p4]; omega
  exact (raw p6).trans (show decodeOp30 N = _ from ((if_neg (h0)).trans ((if_neg (h1)).trans ((if_neg (fun h => (differ p0 (by decide)) h.1)).trans ((if_neg (fun h => (differ p0 (by decide)) h.1)).trans ((if_neg (fun h => (differ p0 (by decide)) h.1)).trans ((if_neg (fun h => (differ p0 (by decide)) h.1)).trans ((if_neg (fun h => (differ p0 (by decide)) h.1)).trans ((if_neg (fun h => (differ p0 (by decide)) h.1)).trans ((if_pos p0).trans (by simp only [p5, p4, p3, p2, p1, back_fin])))))))))))

theorem RoundTrip.mzero zt rh : RoundTrip.Statement (.mzero zt rh) := by
  refine statement_of (l := [(9, 9), (rh.val, 5), (0, 9), (zt.val, 3), (48, 6)]) rfl (by simp only [enc, wordOf]; omega) ⟨(by decide), rh.isLt, (by decide), zt.isLt, (by decide), trivial⟩ rfl fun N at_ => ?_
  have p0 : bits N 0 9 = 9 := at_ 0
  have p1 : bits N 9 5 = rh.val := at_ 1
  have p2 : bits N 14 9 = 0 := at_ 2
  have p3 : bits N 23 3 = zt.val := at_ 3
  have p4 : bits N 26 6 = 48 := at_ 4
  have h0 : bits N 0 23 ≠ 0 := by rw [bits_join N 0 9 14, bits_join N 9 5 9, p0, p1, p2]; omega
  have h1 : bits N 0 23 ≠ 1 := by rw [bits_join N 0 9 14, bits_join N 9 5 9, p0, p1, p2]; omega
  exact (raw p4).trans (show decodeOp30 N = _ from ((if_neg (h0)).trans ((if_neg (h1)).trans ((if_neg (fun h => (differ p0 (by decide)) h.1)).trans ((if_neg (fun h => (differ p0 (by decide)) h.1)).trans ((if_neg (fun h => (differ p0 (by decide)) h.1)).trans ((if_neg (fun h => (differ p0 (by decide)) h.1)).trans ((if_neg (fun h => (differ p0 (by decide)) h.1)).trans ((if_neg (fun h => (differ p0 (by decide)) h.1)).trans ((if_neg (differ p0 (by decide))).trans ((if_pos ⟨p0, p2⟩).trans (by simp only [p3, p1, back_fin]))))))))))))

theorem RoundTrip.mdrain zt fmt ra rh : RoundTrip.Statement (.mdrain zt fmt ra rh) := by
  refine statement_of (l := [(10, 9), (rh.val, 5), (ra.val, 5), (fmt.val, 4), (zt.val, 3), (48, 6)]) rfl (by simp only [enc, wordOf]; omega) ⟨(by decide), rh.isLt, ra.isLt, fmt.isLt, zt.isLt, (by decide), trivial⟩ rfl fun N at_ => ?_
  have p0 : bits N 0 9 = 10 := at_ 0
  have p1 : bits N 9 5 = rh.val := at_ 1
  have p2 : bits N 14 5 = ra.val := at_ 2
  have p3 : bits N 19 4 = fmt.val := at_ 3
  have p4 : bits N 23 3 = zt.val := at_ 4
  have p5 : bits N 26 6 = 48 := at_ 5
  have h0 : bits N 0 23 ≠ 0 := by rw [bits_join N 0 9 14, bits_join N 9 5 9, bits_join N 14 5 4, p0, p1, p2, p3]; omega
  have h1 : bits N 0 23 ≠ 1 := by rw [bits_join N 0 9 14, bits_join N 9 5 9, bits_join N 14 5 4, p0, p1, p2, p3]; omega
  exact (raw p5).trans (show decodeOp30 N = _ from ((if_neg (h0)).trans ((if_neg (h1)).trans ((if_neg (fun h => (differ p0 (by decide)) h.1)).trans ((if_neg (fun h => (differ p0 (by decide)) h.1)).trans ((if_neg (fun h => (differ p0 (by decide)) h.1)).trans ((if_neg (fun h => (differ p0 (by decide)) h.1)).trans ((if_neg (fun h => (differ p0 (by decide)) h.1)).trans ((if_neg (fun h => (differ p0 (by decide)) h.1)).trans ((if_neg (differ p0 (by decide))).trans ((if_neg (fun h => (differ p0 (by decide)) h.1)).trans ((if_pos p0).trans (by simp only [p4, p3, p2, p1, back_fin])))))))))))))

theorem RoundTrip.mtwin on : RoundTrip.Statement (.mtwin on) := by
  refine statement_of (l := [(11, 9), (0, 5), (on.toNat, 1), (0, 8), (0, 3), (48, 6)]) rfl (by have := flag_lt on; simp only [enc, wordOf]; omega) ⟨(by decide), (by decide), (flag_lt on), (by decide), (by decide), (by decide), trivial⟩ rfl fun N at_ => ?_
  have p0 : bits N 0 9 = 11 := at_ 0
  have p1 : bits N 9 5 = 0 := at_ 1
  have p2 : bits N 14 1 = on.toNat := at_ 2
  have p3 : bits N 15 8 = 0 := at_ 3
  have p4 : bits N 23 3 = 0 := at_ 4
  have p5 : bits N 26 6 = 48 := at_ 5
  have h0 : bits N 0 14 = 11 := by rw [bits_join N 0 9 5, p0, p1]; rfl
  have h1 : bits N 15 11 = 0 := by rw [bits_join N 15 8 3, p3, p4]; rfl
  have h2 : bits N 0 23 ≠ 0 := by rw [bits_join N 0 9 14, bits_join N 9 5 9, bits_join N 14 1 8, p0, p1, p2, p3]; omega
  have h3 : bits N 0 23 ≠ 1 := by rw [bits_join N 0 9 14, bits_join N 9 5 9, bits_join N 14 1 8, p0, p1, p2, p3]; omega
  exact (raw p5).trans (show decodeOp30 N = _ from ((if_neg (h2)).trans ((if_neg (h3)).trans ((if_neg (fun h => (differ p0 (by decide)) h.1)).trans ((if_neg (fun h => (differ p0 (by decide)) h.1)).trans ((if_neg (fun h => (differ p0 (by decide)) h.1)).trans ((if_neg (fun h => (differ p0 (by decide)) h.1)).trans ((if_neg (fun h => (differ p0 (by decide)) h.1)).trans ((if_neg (fun h => (differ p0 (by decide)) h.1)).trans ((if_neg (differ p0 (by decide))).trans ((if_neg (fun h => (differ p0 (by decide)) h.1)).trans ((if_neg (differ p0 (by decide))).trans ((if_pos ⟨h0, h1⟩).trans (by simp only [p2, back_flag]))))))))))))))

theorem RoundTrip.xpush rd ra n : RoundTrip.Statement (.xpush rd ra n) := by
  refine statement_of (l := [(0, 4), (n.val, 2), (0, 10), (ra.val, 5), (rd.val, 5), (50, 6)]) rfl (by simp only [enc, wordOf]; omega) ⟨(by decide), n.isLt, (by decide), ra.isLt, rd.isLt, (by decide), trivial⟩ rfl fun N at_ => ?_
  have p0 : bits N 0 4 = 0 := at_ 0
  have p1 : bits N 4 2 = n.val := at_ 1
  have p2 : bits N 6 10 = 0 := at_ 2
  have p3 : bits N 16 5 = ra.val := at_ 3
  have p4 : bits N 21 5 = rd.val := at_ 4
  have p5 : bits N 26 6 = 50 := at_ 5
  exact (raw p5).trans (show decodeOp32 N = _ from ((if_pos ⟨p0, p2⟩).trans (by simp only [p4, p3, p1, back_fin])))

theorem RoundTrip.xpushr rd ra n : RoundTrip.Statement (.xpushr rd ra n) := by
  refine statement_of (l := [(1, 4), (n.val, 2), (0, 10), (ra.val, 5), (rd.val, 5), (50, 6)]) rfl (by simp only [enc, wordOf]; omega) ⟨(by decide), n.isLt, (by decide), ra.isLt, rd.isLt, (by decide), trivial⟩ rfl fun N at_ => ?_
  have p0 : bits N 0 4 = 1 := at_ 0
  have p1 : bits N 4 2 = n.val := at_ 1
  have p2 : bits N 6 10 = 0 := at_ 2
  have p3 : bits N 16 5 = ra.val := at_ 3
  have p4 : bits N 21 5 = rd.val := at_ 4
  have p5 : bits N 26 6 = 50 := at_ 5
  exact (raw p5).trans (show decodeOp32 N = _ from ((if_neg (fun h => (differ p0 (by decide)) h.1)).trans ((if_pos ⟨p0, p2⟩).trans (by simp only [p4, p3, p1, back_fin]))))

theorem RoundTrip.xwait ra n : RoundTrip.Statement (.xwait ra n) := by
  refine statement_of (l := [(2, 4), (n.val, 2), (0, 10), (ra.val, 5), (0, 5), (50, 6)]) rfl (by simp only [enc, wordOf]; omega) ⟨(by decide), n.isLt, (by decide), ra.isLt, (by decide), (by decide), trivial⟩ rfl fun N at_ => ?_
  have p0 : bits N 0 4 = 2 := at_ 0
  have p1 : bits N 4 2 = n.val := at_ 1
  have p2 : bits N 6 10 = 0 := at_ 2
  have p3 : bits N 16 5 = ra.val := at_ 3
  have p4 : bits N 21 5 = 0 := at_ 4
  have p5 : bits N 26 6 = 50 := at_ 5
  exact (raw p5).trans (show decodeOp32 N = _ from ((if_neg (fun h => (differ p0 (by decide)) h.1)).trans ((if_neg (fun h => (differ p0 (by decide)) h.1)).trans ((if_pos ⟨p0, p2, p4⟩).trans (by simp only [p3, p1, back_fin])))))

theorem RoundTrip.expect rd ra : RoundTrip.Statement (.expect rd ra) := by
  refine statement_of (l := [(3, 4), (0, 12), (ra.val, 5), (rd.val, 5), (50, 6)]) rfl (by simp only [enc, wordOf]; omega) ⟨(by decide), (by decide), ra.isLt, rd.isLt, (by decide), trivial⟩ rfl fun N at_ => ?_
  have p0 : bits N 0 4 = 3 := at_ 0
  have p1 : bits N 4 12 = 0 := at_ 1
  have p2 : bits N 16 5 = ra.val := at_ 2
  have p3 : bits N 21 5 = rd.val := at_ 3
  have p4 : bits N 26 6 = 50 := at_ 4
  have h0 : bits N 0 16 = 3 := by rw [bits_join N 0 4 12, p0, p1]; rfl
  exact (raw p4).trans (show decodeOp32 N = _ from ((if_neg (fun h => (differ p0 (by decide)) h.1)).trans ((if_neg (fun h => (differ p0 (by decide)) h.1)).trans ((if_neg (fun h => (differ p0 (by decide)) h.1)).trans ((if_pos h0).trans (by simp only [p3, p2, back_fin]))))))

theorem RoundTrip.trayGather rd ra off p : RoundTrip.Statement (.trayGather rd ra off p) := by
  refine statement_of (l := [(0, 4), (p.val, 5), (off.toNat, 1), (0, 6), (ra.val, 5), (rd.val, 5), (51, 6)]) rfl (by have := flag_lt off; simp only [enc, wordOf]; omega) ⟨(by decide), p.isLt, (flag_lt off), (by decide), ra.isLt, rd.isLt, (by decide), trivial⟩ rfl fun N at_ => ?_
  have p0 : bits N 0 4 = 0 := at_ 0
  have p1 : bits N 4 5 = p.val := at_ 1
  have p2 : bits N 9 1 = off.toNat := at_ 2
  have p3 : bits N 10 6 = 0 := at_ 3
  have p4 : bits N 16 5 = ra.val := at_ 4
  have p5 : bits N 21 5 = rd.val := at_ 5
  have p6 : bits N 26 6 = 51 := at_ 6
  exact (raw p6).trans (show decodeOp33 N = _ from ((if_pos ⟨p0, p3⟩).trans (by simp only [p5, p4, p2, p1, back_fin, back_flag])))

theorem RoundTrip.trayScatter rd ra off p : RoundTrip.Statement (.trayScatter rd ra off p) := by
  refine statement_of (l := [(1, 4), (p.val, 5), (off.toNat, 1), (0, 6), (ra.val, 5), (rd.val, 5), (51, 6)]) rfl (by have := flag_lt off; simp only [enc, wordOf]; omega) ⟨(by decide), p.isLt, (flag_lt off), (by decide), ra.isLt, rd.isLt, (by decide), trivial⟩ rfl fun N at_ => ?_
  have p0 : bits N 0 4 = 1 := at_ 0
  have p1 : bits N 4 5 = p.val := at_ 1
  have p2 : bits N 9 1 = off.toNat := at_ 2
  have p3 : bits N 10 6 = 0 := at_ 3
  have p4 : bits N 16 5 = ra.val := at_ 4
  have p5 : bits N 21 5 = rd.val := at_ 5
  have p6 : bits N 26 6 = 51 := at_ 6
  exact (raw p6).trans (show decodeOp33 N = _ from ((if_neg (fun h => (differ p0 (by decide)) h.1)).trans ((if_pos ⟨p0, p3⟩).trans (by simp only [p5, p4, p2, p1, back_fin, back_flag]))))

theorem RoundTrip.trayReduce rd ra off p : RoundTrip.Statement (.trayReduce rd ra off p) := by
  refine statement_of (l := [(2, 4), (p.val, 5), (off.toNat, 1), (0, 6), (ra.val, 5), (rd.val, 5), (51, 6)]) rfl (by have := flag_lt off; simp only [enc, wordOf]; omega) ⟨(by decide), p.isLt, (flag_lt off), (by decide), ra.isLt, rd.isLt, (by decide), trivial⟩ rfl fun N at_ => ?_
  have p0 : bits N 0 4 = 2 := at_ 0
  have p1 : bits N 4 5 = p.val := at_ 1
  have p2 : bits N 9 1 = off.toNat := at_ 2
  have p3 : bits N 10 6 = 0 := at_ 3
  have p4 : bits N 16 5 = ra.val := at_ 4
  have p5 : bits N 21 5 = rd.val := at_ 5
  have p6 : bits N 26 6 = 51 := at_ 6
  exact (raw p6).trans (show decodeOp33 N = _ from ((if_neg (fun h => (differ p0 (by decide)) h.1)).trans ((if_neg (fun h => (differ p0 (by decide)) h.1)).trans ((if_pos ⟨p0, p3⟩).trans (by simp only [p5, p4, p2, p1, back_fin, back_flag])))))

theorem RoundTrip.traySub rd ra off p : RoundTrip.Statement (.traySub rd ra off p) := by
  refine statement_of (l := [(3, 4), (p.val, 5), (off.toNat, 1), (0, 6), (ra.val, 5), (rd.val, 5), (51, 6)]) rfl (by have := flag_lt off; simp only [enc, wordOf]; omega) ⟨(by decide), p.isLt, (flag_lt off), (by decide), ra.isLt, rd.isLt, (by decide), trivial⟩ rfl fun N at_ => ?_
  have p0 : bits N 0 4 = 3 := at_ 0
  have p1 : bits N 4 5 = p.val := at_ 1
  have p2 : bits N 9 1 = off.toNat := at_ 2
  have p3 : bits N 10 6 = 0 := at_ 3
  have p4 : bits N 16 5 = ra.val := at_ 4
  have p5 : bits N 21 5 = rd.val := at_ 5
  have p6 : bits N 26 6 = 51 := at_ 6
  exact (raw p6).trans (show decodeOp33 N = _ from ((if_neg (fun h => (differ p0 (by decide)) h.1)).trans ((if_neg (fun h => (differ p0 (by decide)) h.1)).trans ((if_neg (fun h => (differ p0 (by decide)) h.1)).trans ((if_pos ⟨p0, p3⟩).trans (by simp only [p5, p4, p2, p1, back_fin, back_flag]))))))

theorem RoundTrip.trayUnsub rd ra off p : RoundTrip.Statement (.trayUnsub rd ra off p) := by
  refine statement_of (l := [(4, 4), (p.val, 5), (off.toNat, 1), (0, 6), (ra.val, 5), (rd.val, 5), (51, 6)]) rfl (by have := flag_lt off; simp only [enc, wordOf]; omega) ⟨(by decide), p.isLt, (flag_lt off), (by decide), ra.isLt, rd.isLt, (by decide), trivial⟩ rfl fun N at_ => ?_
  have p0 : bits N 0 4 = 4 := at_ 0
  have p1 : bits N 4 5 = p.val := at_ 1
  have p2 : bits N 9 1 = off.toNat := at_ 2
  have p3 : bits N 10 6 = 0 := at_ 3
  have p4 : bits N 16 5 = ra.val := at_ 4
  have p5 : bits N 21 5 = rd.val := at_ 5
  have p6 : bits N 26 6 = 51 := at_ 6
  exact (raw p6).trans (show decodeOp33 N = _ from ((if_neg (fun h => (differ p0 (by decide)) h.1)).trans ((if_neg (fun h => (differ p0 (by decide)) h.1)).trans ((if_neg (fun h => (differ p0 (by decide)) h.1)).trans ((if_neg (fun h => (differ p0 (by decide)) h.1)).trans ((if_pos ⟨p0, p3⟩).trans (by simp only [p5, p4, p2, p1, back_fin, back_flag])))))))

theorem RoundTrip.mbw ra n : RoundTrip.Statement (.mbw ra n) := by
  refine statement_of (l := [(0, 4), (n.val, 2), (0, 10), (ra.val, 5), (0, 5), (52, 6)]) rfl (by simp only [enc, wordOf]; omega) ⟨(by decide), n.isLt, (by decide), ra.isLt, (by decide), (by decide), trivial⟩ rfl fun N at_ => ?_
  have p0 : bits N 0 4 = 0 := at_ 0
  have p1 : bits N 4 2 = n.val := at_ 1
  have p2 : bits N 6 10 = 0 := at_ 2
  have p3 : bits N 16 5 = ra.val := at_ 3
  have p4 : bits N 21 5 = 0 := at_ 4
  have p5 : bits N 26 6 = 52 := at_ 5
  exact (raw p5).trans (show decodeOp34 N = _ from ((if_pos ⟨p0, p2, p4⟩).trans (by simp only [p3, p1, back_fin])))

theorem RoundTrip.mbr rd n : RoundTrip.Statement (.mbr rd n) := by
  refine statement_of (l := [(1, 4), (n.val, 2), (0, 15), (rd.val, 5), (52, 6)]) rfl (by simp only [enc, wordOf]; omega) ⟨(by decide), n.isLt, (by decide), rd.isLt, (by decide), trivial⟩ rfl fun N at_ => ?_
  have p0 : bits N 0 4 = 1 := at_ 0
  have p1 : bits N 4 2 = n.val := at_ 1
  have p2 : bits N 6 15 = 0 := at_ 2
  have p3 : bits N 21 5 = rd.val := at_ 3
  have p4 : bits N 26 6 = 52 := at_ 4
  exact (raw p4).trans (show decodeOp34 N = _ from ((if_neg (fun h => (differ p0 (by decide)) h.1)).trans ((if_pos ⟨p0, p2⟩).trans (by simp only [p3, p1, back_fin]))))

theorem RoundTrip.dld ra sz : RoundTrip.Statement (.dld ra sz) := by
  refine statement_of (l := [(2, 4), (sz.val, 2), (0, 10), (ra.val, 5), (0, 5), (52, 6)]) rfl (by simp only [enc, wordOf]; omega) ⟨(by decide), sz.isLt, (by decide), ra.isLt, (by decide), (by decide), trivial⟩ rfl fun N at_ => ?_
  have p0 : bits N 0 4 = 2 := at_ 0
  have p1 : bits N 4 2 = sz.val := at_ 1
  have p2 : bits N 6 10 = 0 := at_ 2
  have p3 : bits N 16 5 = ra.val := at_ 3
  have p4 : bits N 21 5 = 0 := at_ 4
  have p5 : bits N 26 6 = 52 := at_ 5
  exact (raw p5).trans (show decodeOp34 N = _ from ((if_neg (fun h => (differ p0 (by decide)) h.1)).trans ((if_neg (fun h => (differ p0 (by decide)) h.1)).trans ((if_pos ⟨p0, p2, p4⟩).trans (by simp only [p3, p1, back_fin])))))

theorem RoundTrip.dpop rd : RoundTrip.Statement (.dpop rd) := by
  refine statement_of (l := [(3, 4), (0, 17), (rd.val, 5), (52, 6)]) rfl (by simp only [enc, wordOf]; omega) ⟨(by decide), (by decide), rd.isLt, (by decide), trivial⟩ rfl fun N at_ => ?_
  have p0 : bits N 0 4 = 3 := at_ 0
  have p1 : bits N 4 17 = 0 := at_ 1
  have p2 : bits N 21 5 = rd.val := at_ 2
  have p3 : bits N 26 6 = 52 := at_ 3
  have h0 : bits N 0 21 = 3 := by rw [bits_join N 0 4 17, p0, p1]; rfl
  exact (raw p3).trans (show decodeOp34 N = _ from ((if_neg (fun h => (differ p0 (by decide)) h.1)).trans ((if_neg (fun h => (differ p0 (by decide)) h.1)).trans ((if_neg (fun h => (differ p0 (by decide)) h.1)).trans ((if_pos h0).trans (by simp only [p2, back_fin]))))))

theorem RoundTrip.ppush ra : RoundTrip.Statement (.ppush ra) := by
  refine statement_of (l := [(4, 4), (0, 12), (ra.val, 5), (0, 5), (52, 6)]) rfl (by simp only [enc, wordOf]; omega) ⟨(by decide), (by decide), ra.isLt, (by decide), (by decide), trivial⟩ rfl fun N at_ => ?_
  have p0 : bits N 0 4 = 4 := at_ 0
  have p1 : bits N 4 12 = 0 := at_ 1
  have p2 : bits N 16 5 = ra.val := at_ 2
  have p3 : bits N 21 5 = 0 := at_ 3
  have p4 : bits N 26 6 = 52 := at_ 4
  have h0 : bits N 0 16 = 4 := by rw [bits_join N 0 4 12, p0, p1]; rfl
  have h1 : bits N 0 21 ≠ 3 := by rw [bits_join N 0 4 17, bits_join N 4 12 5, p0, p1, p2]; omega
  exact (raw p4).trans (show decodeOp34 N = _ from ((if_neg (fun h => (differ p0 (by decide)) h.1)).trans ((if_neg (fun h => (differ p0 (by decide)) h.1)).trans ((if_neg (fun h => (differ p0 (by decide)) h.1)).trans ((if_neg (h1)).trans ((if_pos ⟨h0, p3⟩).trans (by simp only [p2, back_fin])))))))

theorem RoundTrip.pst ra sz : RoundTrip.Statement (.pst ra sz) := by
  refine statement_of (l := [(5, 4), (sz.val, 2), (0, 10), (ra.val, 5), (0, 5), (52, 6)]) rfl (by simp only [enc, wordOf]; omega) ⟨(by decide), sz.isLt, (by decide), ra.isLt, (by decide), (by decide), trivial⟩ rfl fun N at_ => ?_
  have p0 : bits N 0 4 = 5 := at_ 0
  have p1 : bits N 4 2 = sz.val := at_ 1
  have p2 : bits N 6 10 = 0 := at_ 2
  have p3 : bits N 16 5 = ra.val := at_ 3
  have p4 : bits N 21 5 = 0 := at_ 4
  have p5 : bits N 26 6 = 52 := at_ 5
  have h0 : bits N 0 21 ≠ 3 := by rw [bits_join N 0 4 17, bits_join N 4 2 15, bits_join N 6 10 5, p0, p1, p2, p3]; omega
  have h1 : bits N 0 16 ≠ 4 := by rw [bits_join N 0 4 12, bits_join N 4 2 10, p0, p1, p2]; omega
  exact (raw p5).trans (show decodeOp34 N = _ from ((if_neg (fun h => (differ p0 (by decide)) h.1)).trans ((if_neg (fun h => (differ p0 (by decide)) h.1)).trans ((if_neg (fun h => (differ p0 (by decide)) h.1)).trans ((if_neg (h0)).trans ((if_neg (fun h => (h1) h.1)).trans ((if_pos ⟨p0, p2, p4⟩).trans (by simp only [p3, p1, back_fin]))))))))

theorem RoundTrip.qcnt rd q : RoundTrip.Statement (.qcnt rd q) := by
  refine statement_of (l := [(6, 4), (q.toNat, 1), (0, 11), (0, 5), (rd.val, 5), (52, 6)]) rfl (by have := flag_lt q; simp only [enc, wordOf]; omega) ⟨(by decide), (flag_lt q), (by decide), (by decide), rd.isLt, (by decide), trivial⟩ rfl fun N at_ => ?_
  have p0 : bits N 0 4 = 6 := at_ 0
  have p1 : bits N 4 1 = q.toNat := at_ 1
  have p2 : bits N 5 11 = 0 := at_ 2
  have p3 : bits N 16 5 = 0 := at_ 3
  have p4 : bits N 21 5 = rd.val := at_ 4
  have p5 : bits N 26 6 = 52 := at_ 5
  have h0 : bits N 5 16 = 0 := by rw [bits_join N 5 11 5, p2, p3]; rfl
  have h1 : bits N 0 21 ≠ 3 := by rw [bits_join N 0 4 17, bits_join N 4 1 16, bits_join N 5 11 5, p0, p1, p2, p3]; omega
  have h2 : bits N 0 16 ≠ 4 := by rw [bits_join N 0 4 12, bits_join N 4 1 11, p0, p1, p2]; omega
  exact (raw p5).trans (show decodeOp34 N = _ from ((if_neg (fun h => (differ p0 (by decide)) h.1)).trans ((if_neg (fun h => (differ p0 (by decide)) h.1)).trans ((if_neg (fun h => (differ p0 (by decide)) h.1)).trans ((if_neg (h1)).trans ((if_neg (fun h => (h2) h.1)).trans ((if_neg (fun h => (differ p0 (by decide)) h.1)).trans ((if_pos ⟨p0, h0⟩).trans (by simp only [p4, p1, back_fin, back_flag])))))))))

theorem RoundTrip.allred rd ra off : RoundTrip.Statement (.allred rd ra off) := by
  refine statement_of (l := [(0, 4), (off.val, 2), (0, 10), (ra.val, 5), (rd.val, 5), (53, 6)]) rfl (by simp only [enc, wordOf]; omega) ⟨(by decide), off.isLt, (by decide), ra.isLt, rd.isLt, (by decide), trivial⟩ rfl fun N at_ => ?_
  have p0 : bits N 0 4 = 0 := at_ 0
  have p1 : bits N 4 2 = off.val := at_ 1
  have p2 : bits N 6 10 = 0 := at_ 2
  have p3 : bits N 16 5 = ra.val := at_ 3
  have p4 : bits N 21 5 = rd.val := at_ 4
  have p5 : bits N 26 6 = 53 := at_ 5
  exact (raw p5).trans (show decodeOp35 N = _ from ((if_pos ⟨p0, p2⟩).trans (by simp only [p4, p3, p1, back_fin])))

theorem RoundTrip.allgath rd ra : RoundTrip.Statement (.allgath rd ra) := by
  refine statement_of (l := [(1, 4), (0, 12), (ra.val, 5), (rd.val, 5), (53, 6)]) rfl (by simp only [enc, wordOf]; omega) ⟨(by decide), (by decide), ra.isLt, rd.isLt, (by decide), trivial⟩ rfl fun N at_ => ?_
  have p0 : bits N 0 4 = 1 := at_ 0
  have p1 : bits N 4 12 = 0 := at_ 1
  have p2 : bits N 16 5 = ra.val := at_ 2
  have p3 : bits N 21 5 = rd.val := at_ 3
  have p4 : bits N 26 6 = 53 := at_ 4
  have h0 : bits N 0 16 = 1 := by rw [bits_join N 0 4 12, p0, p1]; rfl
  exact (raw p4).trans (show decodeOp35 N = _ from ((if_neg (fun h => (differ p0 (by decide)) h.1)).trans ((if_pos h0).trans (by simp only [p3, p2, back_fin]))))

theorem RoundTrip.waddr rd ra k : RoundTrip.Statement (.waddr rd ra k) := by
  refine statement_of (l := [(2, 4), (k.val, 5), (0, 7), (ra.val, 5), (rd.val, 5), (53, 6)]) rfl (by simp only [enc, wordOf]; omega) ⟨(by decide), k.isLt, (by decide), ra.isLt, rd.isLt, (by decide), trivial⟩ rfl fun N at_ => ?_
  have p0 : bits N 0 4 = 2 := at_ 0
  have p1 : bits N 4 5 = k.val := at_ 1
  have p2 : bits N 9 7 = 0 := at_ 2
  have p3 : bits N 16 5 = ra.val := at_ 3
  have p4 : bits N 21 5 = rd.val := at_ 4
  have p5 : bits N 26 6 = 53 := at_ 5
  have h0 : bits N 0 16 ≠ 1 := by rw [bits_join N 0 4 12, bits_join N 4 5 7, p0, p1, p2]; omega
  exact (raw p5).trans (show decodeOp35 N = _ from ((if_neg (fun h => (differ p0 (by decide)) h.1)).trans ((if_neg (h0)).trans ((if_pos ⟨p0, p2⟩).trans (by simp only [p4, p3, p1, back_fin])))))

theorem RoundTrip.wres rd ra s : RoundTrip.Statement (.wres rd ra s) := by
  refine statement_of (l := [(3, 4), (s.toNat, 1), (0, 11), (ra.val, 5), (rd.val, 5), (53, 6)]) rfl (by have := flag_lt s; simp only [enc, wordOf]; omega) ⟨(by decide), (flag_lt s), (by decide), ra.isLt, rd.isLt, (by decide), trivial⟩ rfl fun N at_ => ?_
  have p0 : bits N 0 4 = 3 := at_ 0
  have p1 : bits N 4 1 = s.toNat := at_ 1
  have p2 : bits N 5 11 = 0 := at_ 2
  have p3 : bits N 16 5 = ra.val := at_ 3
  have p4 : bits N 21 5 = rd.val := at_ 4
  have p5 : bits N 26 6 = 53 := at_ 5
  have h0 : bits N 0 16 ≠ 1 := by rw [bits_join N 0 4 12, bits_join N 4 1 11, p0, p1, p2]; omega
  exact (raw p5).trans (show decodeOp35 N = _ from ((if_neg (fun h => (differ p0 (by decide)) h.1)).trans ((if_neg (h0)).trans ((if_neg (fun h => (differ p0 (by decide)) h.1)).trans ((if_pos ⟨p0, p2⟩).trans (by simp only [p4, p3, p1, back_fin, back_flag]))))))

theorem RoundTrip.stvec rd ra c : RoundTrip.Statement (.stvec rd ra c) := by
  refine statement_of (l := [(0, 4), (c.val, 6), (0, 6), (ra.val, 5), (rd.val, 5), (54, 6)]) rfl (by simp only [enc, wordOf]; omega) ⟨(by decide), c.isLt, (by decide), ra.isLt, rd.isLt, (by decide), trivial⟩ rfl fun N at_ => ?_
  have p0 : bits N 0 4 = 0 := at_ 0
  have p1 : bits N 4 6 = c.val := at_ 1
  have p2 : bits N 10 6 = 0 := at_ 2
  have p3 : bits N 16 5 = ra.val := at_ 3
  have p4 : bits N 21 5 = rd.val := at_ 4
  have p5 : bits N 26 6 = 54 := at_ 5
  exact (raw p5).trans (show decodeOp36 N = _ from ((if_pos ⟨p0, p2⟩).trans (by simp only [p4, p3, p1, back_fin])))

theorem RoundTrip.ldnear rd ra v c : RoundTrip.Statement (.ldnear rd ra v c) := by
  refine statement_of (l := [(1, 4), (c.val, 6), (0, 1), (v.val, 3), (0, 2), (ra.val, 5), (rd.val, 5), (54, 6)]) rfl (by simp only [enc, wordOf]; omega) ⟨(by decide), c.isLt, (by decide), v.isLt, (by decide), ra.isLt, rd.isLt, (by decide), trivial⟩ rfl fun N at_ => ?_
  have p0 : bits N 0 4 = 1 := at_ 0
  have p1 : bits N 4 6 = c.val := at_ 1
  have p2 : bits N 10 1 = 0 := at_ 2
  have p3 : bits N 11 3 = v.val := at_ 3
  have p4 : bits N 14 2 = 0 := at_ 4
  have p5 : bits N 16 5 = ra.val := at_ 5
  have p6 : bits N 21 5 = rd.val := at_ 6
  have p7 : bits N 26 6 = 54 := at_ 7
  exact (raw p7).trans (show decodeOp36 N = _ from ((if_neg (fun h => (differ p0 (by decide)) h.1)).trans ((if_pos ⟨p0, p2, p4⟩).trans (by simp only [p6, p5, p3, p1, back_fin]))))

theorem RoundTrip.ixdel rd ra c : RoundTrip.Statement (.ixdel rd ra c) := by
  refine statement_of (l := [(2, 4), (c.val, 6), (0, 6), (ra.val, 5), (rd.val, 5), (54, 6)]) rfl (by simp only [enc, wordOf]; omega) ⟨(by decide), c.isLt, (by decide), ra.isLt, rd.isLt, (by decide), trivial⟩ rfl fun N at_ => ?_
  have p0 : bits N 0 4 = 2 := at_ 0
  have p1 : bits N 4 6 = c.val := at_ 1
  have p2 : bits N 10 6 = 0 := at_ 2
  have p3 : bits N 16 5 = ra.val := at_ 3
  have p4 : bits N 21 5 = rd.val := at_ 4
  have p5 : bits N 26 6 = 54 := at_ 5
  exact (raw p5).trans (show decodeOp36 N = _ from ((if_neg (fun h => (differ p0 (by decide)) h.1)).trans ((if_neg (fun h => (differ p0 (by decide)) h.1)).trans ((if_pos ⟨p0, p2⟩).trans (by simp only [p4, p3, p1, back_fin])))))

theorem RoundTrip.ixsnap rd ra v c : RoundTrip.Statement (.ixsnap rd ra v c) := by
  refine statement_of (l := [(3, 4), (c.val, 6), (v.val, 4), (0, 2), (ra.val, 5), (rd.val, 5), (54, 6)]) rfl (by simp only [enc, wordOf]; omega) ⟨(by decide), c.isLt, v.isLt, (by decide), ra.isLt, rd.isLt, (by decide), trivial⟩ rfl fun N at_ => ?_
  have p0 : bits N 0 4 = 3 := at_ 0
  have p1 : bits N 4 6 = c.val := at_ 1
  have p2 : bits N 10 4 = v.val := at_ 2
  have p3 : bits N 14 2 = 0 := at_ 3
  have p4 : bits N 16 5 = ra.val := at_ 4
  have p5 : bits N 21 5 = rd.val := at_ 5
  have p6 : bits N 26 6 = 54 := at_ 6
  exact (raw p6).trans (show decodeOp36 N = _ from ((if_neg (fun h => (differ p0 (by decide)) h.1)).trans ((if_neg (fun h => (differ p0 (by decide)) h.1)).trans ((if_neg (fun h => (differ p0 (by decide)) h.1)).trans ((if_pos ⟨p0, p3⟩).trans (by simp only [p5, p4, p2, p1, back_fin]))))))

theorem RoundTrip.send rd ra k : RoundTrip.Statement (.send rd ra k) := by
  refine statement_of (l := [(0, 4), (k.toNat, 1), (0, 11), (ra.val, 5), (rd.val, 5), (56, 6)]) rfl (by have := flag_lt k; simp only [enc, wordOf]; omega) ⟨(by decide), (flag_lt k), (by decide), ra.isLt, rd.isLt, (by decide), trivial⟩ rfl fun N at_ => ?_
  have p0 : bits N 0 4 = 0 := at_ 0
  have p1 : bits N 4 1 = k.toNat := at_ 1
  have p2 : bits N 5 11 = 0 := at_ 2
  have p3 : bits N 16 5 = ra.val := at_ 3
  have p4 : bits N 21 5 = rd.val := at_ 4
  have p5 : bits N 26 6 = 56 := at_ 5
  exact (raw p5).trans (show decodeOp38 N = _ from ((if_pos ⟨p0, p2⟩).trans (by simp only [p4, p3, p1, back_fin, back_flag])))

theorem RoundTrip.recv rd ra off : RoundTrip.Statement (.recv rd ra off) := by
  refine statement_of (l := [(1, 4), (off.toNat, 1), (0, 11), (ra.val, 5), (rd.val, 5), (56, 6)]) rfl (by have := flag_lt off; simp only [enc, wordOf]; omega) ⟨(by decide), (flag_lt off), (by decide), ra.isLt, rd.isLt, (by decide), trivial⟩ rfl fun N at_ => ?_
  have p0 : bits N 0 4 = 1 := at_ 0
  have p1 : bits N 4 1 = off.toNat := at_ 1
  have p2 : bits N 5 11 = 0 := at_ 2
  have p3 : bits N 16 5 = ra.val := at_ 3
  have p4 : bits N 21 5 = rd.val := at_ 4
  have p5 : bits N 26 6 = 56 := at_ 5
  exact (raw p5).trans (show decodeOp38 N = _ from ((if_neg (fun h => (differ p0 (by decide)) h.1)).trans ((if_pos ⟨p0, p2⟩).trans (by simp only [p4, p3, p1, back_fin, back_flag]))))

theorem RoundTrip.rqn rd s : RoundTrip.Statement (.rqn rd s) := by
  refine statement_of (l := [(2, 4), (s.val, 2), (0, 15), (rd.val, 5), (56, 6)]) rfl (by simp only [enc, wordOf]; omega) ⟨(by decide), s.isLt, (by decide), rd.isLt, (by decide), trivial⟩ rfl fun N at_ => ?_
  have p0 : bits N 0 4 = 2 := at_ 0
  have p1 : bits N 4 2 = s.val := at_ 1
  have p2 : bits N 6 15 = 0 := at_ 2
  have p3 : bits N 21 5 = rd.val := at_ 3
  have p4 : bits N 26 6 = 56 := at_ 4
  exact (raw p4).trans (show decodeOp38 N = _ from ((if_neg (fun h => (differ p0 (by decide)) h.1)).trans ((if_neg (fun h => (differ p0 (by decide)) h.1)).trans ((if_pos ⟨p0, p2⟩).trans (by simp only [p3, p1, back_fin])))))

theorem RoundTrip.tstart rd ra p rg : RoundTrip.Statement (.tstart rd ra p rg) := by
  refine statement_of (l := [(3, 4), (rg.val, 5), (p.val, 7), (ra.val, 5), (rd.val, 5), (56, 6)]) rfl (by simp only [enc, wordOf]; omega) ⟨(by decide), rg.isLt, p.isLt, ra.isLt, rd.isLt, (by decide), trivial⟩ rfl fun N at_ => ?_
  have p0 : bits N 0 4 = 3 := at_ 0
  have p1 : bits N 4 5 = rg.val := at_ 1
  have p2 : bits N 9 7 = p.val := at_ 2
  have p3 : bits N 16 5 = ra.val := at_ 3
  have p4 : bits N 21 5 = rd.val := at_ 4
  have p5 : bits N 26 6 = 56 := at_ 5
  exact (raw p5).trans (show decodeOp38 N = _ from ((if_neg (fun h => (differ p0 (by decide)) h.1)).trans ((if_neg (fun h => (differ p0 (by decide)) h.1)).trans ((if_neg (fun h => (differ p0 (by decide)) h.1)).trans ((if_pos p0).trans (by simp only [p4, p3, p2, p1, back_fin]))))))

theorem RoundTrip.prio rd ra : RoundTrip.Statement (.prio rd ra) := by
  refine statement_of (l := [(6, 4), (0, 12), (ra.val, 5), (rd.val, 5), (56, 6)]) rfl (by simp only [enc, wordOf]; omega) ⟨(by decide), (by decide), ra.isLt, rd.isLt, (by decide), trivial⟩ rfl fun N at_ => ?_
  have p0 : bits N 0 4 = 6 := at_ 0
  have p1 : bits N 4 12 = 0 := at_ 1
  have p2 : bits N 16 5 = ra.val := at_ 2
  have p3 : bits N 21 5 = rd.val := at_ 3
  have p4 : bits N 26 6 = 56 := at_ 4
  have h0 : bits N 0 16 = 6 := by rw [bits_join N 0 4 12, p0, p1]; rfl
  exact (raw p4).trans (show decodeOp38 N = _ from ((if_neg (fun h => (differ p0 (by decide)) h.1)).trans ((if_neg (fun h => (differ p0 (by decide)) h.1)).trans ((if_neg (fun h => (differ p0 (by decide)) h.1)).trans ((if_neg (differ p0 (by decide))).trans ((if_pos h0).trans (by simp only [p3, p2, back_fin])))))))

theorem RoundTrip.migr rd ra : RoundTrip.Statement (.migr rd ra) := by
  refine statement_of (l := [(7, 4), (0, 12), (ra.val, 5), (rd.val, 5), (56, 6)]) rfl (by simp only [enc, wordOf]; omega) ⟨(by decide), (by decide), ra.isLt, rd.isLt, (by decide), trivial⟩ rfl fun N at_ => ?_
  have p0 : bits N 0 4 = 7 := at_ 0
  have p1 : bits N 4 12 = 0 := at_ 1
  have p2 : bits N 16 5 = ra.val := at_ 2
  have p3 : bits N 21 5 = rd.val := at_ 3
  have p4 : bits N 26 6 = 56 := at_ 4
  have h0 : bits N 0 16 = 7 := by rw [bits_join N 0 4 12, p0, p1]; rfl
  exact (raw p4).trans (show decodeOp38 N = _ from ((if_neg (fun h => (differ p0 (by decide)) h.1)).trans ((if_neg (fun h => (differ p0 (by decide)) h.1)).trans ((if_neg (fun h => (differ p0 (by decide)) h.1)).trans ((if_neg (differ p0 (by decide))).trans ((if_neg (differ h0 (by decide))).trans ((if_pos h0).trans (by simp only [p3, p2, back_fin]))))))))

theorem RoundTrip.htest rd ra : RoundTrip.Statement (.htest rd ra) := by
  refine statement_of (l := [(0, 16), (ra.val, 5), (rd.val, 5), (57, 6)]) rfl (by simp only [enc, wordOf]; omega) ⟨(by decide), ra.isLt, rd.isLt, (by decide), trivial⟩ rfl fun N at_ => ?_
  have p0 : bits N 0 16 = 0 := at_ 0
  have p1 : bits N 16 5 = ra.val := at_ 1
  have p2 : bits N 21 5 = rd.val := at_ 2
  have p3 : bits N 26 6 = 57 := at_ 3
  exact (raw p3).trans (show decodeOp39 N = _ from ((if_pos p0).trans (by simp only [p2, p1, back_fin])))

theorem RoundTrip.hpass rd ra : RoundTrip.Statement (.hpass rd ra) := by
  refine statement_of (l := [(1, 16), (ra.val, 5), (rd.val, 5), (57, 6)]) rfl (by simp only [enc, wordOf]; omega) ⟨(by decide), ra.isLt, rd.isLt, (by decide), trivial⟩ rfl fun N at_ => ?_
  have p0 : bits N 0 16 = 1 := at_ 0
  have p1 : bits N 16 5 = ra.val := at_ 1
  have p2 : bits N 21 5 = rd.val := at_ 2
  have p3 : bits N 26 6 = 57 := at_ 3
  exact (raw p3).trans (show decodeOp39 N = _ from ((if_neg (differ p0 (by decide))).trans ((if_pos p0).trans (by simp only [p2, p1, back_fin]))))

theorem RoundTrip.hcancel ra : RoundTrip.Statement (.hcancel ra) := by
  refine statement_of (l := [(2, 16), (ra.val, 5), (0, 5), (57, 6)]) rfl (by simp only [enc, wordOf]; omega) ⟨(by decide), ra.isLt, (by decide), (by decide), trivial⟩ rfl fun N at_ => ?_
  have p0 : bits N 0 16 = 2 := at_ 0
  have p1 : bits N 16 5 = ra.val := at_ 1
  have p2 : bits N 21 5 = 0 := at_ 2
  have p3 : bits N 26 6 = 57 := at_ 3
  exact (raw p3).trans (show decodeOp39 N = _ from ((if_neg (differ p0 (by decide))).trans ((if_neg (differ p0 (by decide))).trans ((if_pos ⟨p0, p2⟩).trans (by simp only [p1, back_fin])))))

theorem RoundTrip.crd rd n : RoundTrip.Statement (.crd rd n) := by
  refine statement_of (l := [(0, 4), (n.val, 12), (0, 5), (rd.val, 5), (58, 6)]) rfl (by simp only [enc, wordOf]; omega) ⟨(by decide), n.isLt, (by decide), rd.isLt, (by decide), trivial⟩ rfl fun N at_ => ?_
  have p0 : bits N 0 4 = 0 := at_ 0
  have p1 : bits N 4 12 = n.val := at_ 1
  have p2 : bits N 16 5 = 0 := at_ 2
  have p3 : bits N 21 5 = rd.val := at_ 3
  have p4 : bits N 26 6 = 58 := at_ 4
  exact (raw p4).trans (show decodeOp3A N = _ from ((if_pos ⟨p0, p2⟩).trans (by simp only [p3, p1, back_fin])))

theorem RoundTrip.tmark ra k : RoundTrip.Statement (.tmark ra k) := by
  refine statement_of (l := [(1, 4), (k.val, 2), (0, 10), (ra.val, 5), (0, 5), (58, 6)]) rfl (by simp only [enc, wordOf]; omega) ⟨(by decide), k.isLt, (by decide), ra.isLt, (by decide), (by decide), trivial⟩ rfl fun N at_ => ?_
  have p0 : bits N 0 4 = 1 := at_ 0
  have p1 : bits N 4 2 = k.val := at_ 1
  have p2 : bits N 6 10 = 0 := at_ 2
  have p3 : bits N 16 5 = ra.val := at_ 3
  have p4 : bits N 21 5 = 0 := at_ 4
  have p5 : bits N 26 6 = 58 := at_ 5
  exact (raw p5).trans (show decodeOp3A N = _ from ((if_neg (fun h => (differ p0 (by decide)) h.1)).trans ((if_pos ⟨p0, p2, p4⟩).trans (by simp only [p3, p1, back_fin]))))

theorem RoundTrip.srd rd n : RoundTrip.Statement (.srd rd n) := by
  refine statement_of (l := [(0, 4), (n.val, 12), (0, 5), (rd.val, 5), (60, 6)]) rfl (by simp only [enc, wordOf]; omega) ⟨(by decide), n.isLt, (by decide), rd.isLt, (by decide), trivial⟩ rfl fun N at_ => ?_
  have p0 : bits N 0 4 = 0 := at_ 0
  have p1 : bits N 4 12 = n.val := at_ 1
  have p2 : bits N 16 5 = 0 := at_ 2
  have p3 : bits N 21 5 = rd.val := at_ 3
  have p4 : bits N 26 6 = 60 := at_ 4
  exact (raw p4).trans (show decodeOp3C N = _ from ((if_pos ⟨p0, p2⟩).trans (by simp only [p3, p1, back_fin])))

theorem RoundTrip.swr ra n : RoundTrip.Statement (.swr ra n) := by
  refine statement_of (l := [(1, 4), (n.val, 12), (ra.val, 5), (0, 5), (60, 6)]) rfl (by simp only [enc, wordOf]; omega) ⟨(by decide), n.isLt, ra.isLt, (by decide), (by decide), trivial⟩ rfl fun N at_ => ?_
  have p0 : bits N 0 4 = 1 := at_ 0
  have p1 : bits N 4 12 = n.val := at_ 1
  have p2 : bits N 16 5 = ra.val := at_ 2
  have p3 : bits N 21 5 = 0 := at_ 3
  have p4 : bits N 26 6 = 60 := at_ 4
  exact (raw p4).trans (show decodeOp3C N = _ from ((if_neg (fun h => (differ p0 (by decide)) h.1)).trans ((if_pos ⟨p0, p3⟩).trans (by simp only [p2, p1, back_fin]))))

theorem RoundTrip.icinv ra : RoundTrip.Statement (.icinv ra) := by
  refine statement_of (l := [(3, 4), (0, 12), (ra.val, 5), (0, 5), (60, 6)]) rfl (by simp only [enc, wordOf]; omega) ⟨(by decide), (by decide), ra.isLt, (by decide), (by decide), trivial⟩ rfl fun N at_ => ?_
  have p0 : bits N 0 4 = 3 := at_ 0
  have p1 : bits N 4 12 = 0 := at_ 1
  have p2 : bits N 16 5 = ra.val := at_ 2
  have p3 : bits N 21 5 = 0 := at_ 3
  have p4 : bits N 26 6 = 60 := at_ 4
  have h0 : bits N 0 16 = 3 := by rw [bits_join N 0 4 12, p0, p1]; rfl
  exact (raw p4).trans (show decodeOp3C N = _ from ((if_neg (fun h => (differ p0 (by decide)) h.1)).trans ((if_neg (fun h => (differ p0 (by decide)) h.1)).trans ((if_pos ⟨h0, p3⟩).trans (by simp only [p2, back_fin])))))

theorem RoundTrip.icinvG rd ra : RoundTrip.Statement (.icinvG rd ra) := by
  refine statement_of (l := [(4, 4), (0, 12), (ra.val, 5), (rd.val, 5), (60, 6)]) rfl (by simp only [enc, wordOf]; omega) ⟨(by decide), (by decide), ra.isLt, rd.isLt, (by decide), trivial⟩ rfl fun N at_ => ?_
  have p0 : bits N 0 4 = 4 := at_ 0
  have p1 : bits N 4 12 = 0 := at_ 1
  have p2 : bits N 16 5 = ra.val := at_ 2
  have p3 : bits N 21 5 = rd.val := at_ 3
  have p4 : bits N 26 6 = 60 := at_ 4
  have h0 : bits N 0 16 = 4 := by rw [bits_join N 0 4 12, p0, p1]; rfl
  exact (raw p4).trans (show decodeOp3C N = _ from ((if_neg (fun h => (differ p0 (by decide)) h.1)).trans ((if_neg (fun h => (differ p0 (by decide)) h.1)).trans ((if_neg (fun h => (differ h0 (by decide)) h.1)).trans ((if_pos h0).trans (by simp only [p3, p2, back_fin]))))))

theorem RoundTrip.brk c : RoundTrip.Statement (.brk c) := by
  refine statement_of (l := [(c.toNat, 26), (63, 6)]) rfl (by simp only [enc, wordOf]; omega) ⟨c.isLt, (by decide), trivial⟩ rfl fun N at_ => ?_
  have p0 : bits N 0 26 = c.toNat := at_ 0
  have p1 : bits N 26 6 = 63 := at_ 1
  exact (raw p1).trans (show decodeOp3F N = _ from (by unfold decodeOp3F; simp only [p0, back_bits]))

theorem RoundTrip.nop : RoundTrip.Statement (.nop) := by
  refine statement_of (l := [(1, 16), (0, 10), (3, 6)]) rfl (by simp only [enc, wordOf]; omega) ⟨(by decide), (by decide), (by decide), trivial⟩ rfl fun N at_ => ?_
  have p0 : bits N 0 16 = 1 := at_ 0
  have p1 : bits N 16 10 = 0 := at_ 1
  have p2 : bits N 26 6 = 3 := at_ 2
  have h0 : bits N 0 26 = 1 := by rw [bits_join N 0 16 10, p0, p1]; rfl
  exact (raw p2).trans (show decodeOp03 N = _ from ((if_neg (differ p0 (by decide))).trans ((if_pos h0).trans rfl)))

theorem RoundTrip.xfence : RoundTrip.Statement (.xfence) := by
  refine statement_of (l := [(1, 4), (0, 12), (0, 10), (33, 6)]) rfl (by simp only [enc, wordOf]; omega) ⟨(by decide), (by decide), (by decide), (by decide), trivial⟩ rfl fun N at_ => ?_
  have p0 : bits N 0 4 = 1 := at_ 0
  have p1 : bits N 4 12 = 0 := at_ 1
  have p2 : bits N 16 10 = 0 := at_ 2
  have p3 : bits N 26 6 = 33 := at_ 3
  have h0 : bits N 0 16 = 1 := by rw [bits_join N 0 4 12, p0, p1]; rfl
  have h1 : bits N 0 26 = 1 := by rw [bits_join N 0 4 22, bits_join N 4 12 10, p0, p1, p2]; rfl
  exact (raw p3).trans (show decodeOp21 N = _ from ((if_neg (fun h => (differ p0 (by decide)) h.1)).trans ((if_neg (differ h0 (by decide))).trans ((if_pos h1).trans rfl))))

theorem RoundTrip.texit : RoundTrip.Statement (.texit) := by
  refine statement_of (l := [(4, 4), (0, 12), (0, 10), (56, 6)]) rfl (by simp only [enc, wordOf]; omega) ⟨(by decide), (by decide), (by decide), (by decide), trivial⟩ rfl fun N at_ => ?_
  have p0 : bits N 0 4 = 4 := at_ 0
  have p1 : bits N 4 12 = 0 := at_ 1
  have p2 : bits N 16 10 = 0 := at_ 2
  have p3 : bits N 26 6 = 56 := at_ 3
  have h0 : bits N 0 16 = 4 := by rw [bits_join N 0 4 12, p0, p1]; rfl
  have h1 : bits N 0 26 = 4 := by rw [bits_join N 0 4 22, bits_join N 4 12 10, p0, p1, p2]; rfl
  exact (raw p3).trans (show decodeOp38 N = _ from ((if_neg (fun h => (differ p0 (by decide)) h.1)).trans ((if_neg (fun h => (differ p0 (by decide)) h.1)).trans ((if_neg (fun h => (differ p0 (by decide)) h.1)).trans ((if_neg (differ p0 (by decide))).trans ((if_neg (differ h0 (by decide))).trans ((if_neg (differ h0 (by decide))).trans ((if_pos h1).trans rfl))))))))

theorem RoundTrip.yield : RoundTrip.Statement (.yield) := by
  refine statement_of (l := [(5, 4), (0, 12), (0, 10), (56, 6)]) rfl (by simp only [enc, wordOf]; omega) ⟨(by decide), (by decide), (by decide), (by decide), trivial⟩ rfl fun N at_ => ?_
  have p0 : bits N 0 4 = 5 := at_ 0
  have p1 : bits N 4 12 = 0 := at_ 1
  have p2 : bits N 16 10 = 0 := at_ 2
  have p3 : bits N 26 6 = 56 := at_ 3
  have h0 : bits N 0 16 = 5 := by rw [bits_join N 0 4 12, p0, p1]; rfl
  have h1 : bits N 0 26 = 5 := by rw [bits_join N 0 4 22, bits_join N 4 12 10, p0, p1, p2]; rfl
  exact (raw p3).trans (show decodeOp38 N = _ from ((if_neg (fun h => (differ p0 (by decide)) h.1)).trans ((if_neg (fun h => (differ p0 (by decide)) h.1)).trans ((if_neg (fun h => (differ p0 (by decide)) h.1)).trans ((if_neg (differ p0 (by decide))).trans ((if_neg (differ h0 (by decide))).trans ((if_neg (differ h0 (by decide))).trans ((if_neg (differ h1 (by decide))).trans ((if_pos h1).trans rfl)))))))))

theorem RoundTrip.barc : RoundTrip.Statement (.barc) := by
  refine statement_of (l := [(8, 4), (0, 12), (0, 10), (56, 6)]) rfl (by simp only [enc, wordOf]; omega) ⟨(by decide), (by decide), (by decide), (by decide), trivial⟩ rfl fun N at_ => ?_
  have p0 : bits N 0 4 = 8 := at_ 0
  have p1 : bits N 4 12 = 0 := at_ 1
  have p2 : bits N 16 10 = 0 := at_ 2
  have p3 : bits N 26 6 = 56 := at_ 3
  have h0 : bits N 0 16 = 8 := by rw [bits_join N 0 4 12, p0, p1]; rfl
  have h1 : bits N 0 26 = 8 := by rw [bits_join N 0 4 22, bits_join N 4 12 10, p0, p1, p2]; rfl
  exact (raw p3).trans (show decodeOp38 N = _ from ((if_neg (fun h => (differ p0 (by decide)) h.1)).trans ((if_neg (fun h => (differ p0 (by decide)) h.1)).trans ((if_neg (fun h => (differ p0 (by decide)) h.1)).trans ((if_neg (differ p0 (by decide))).trans ((if_neg (differ h0 (by decide))).trans ((if_neg (differ h0 (by decide))).trans ((if_neg (differ h1 (by decide))).trans ((if_neg (differ h1 (by decide))).trans ((if_pos h1).trans rfl))))))))))

theorem RoundTrip.barg : RoundTrip.Statement (.barg) := by
  refine statement_of (l := [(9, 4), (0, 12), (0, 10), (56, 6)]) rfl (by simp only [enc, wordOf]; omega) ⟨(by decide), (by decide), (by decide), (by decide), trivial⟩ rfl fun N at_ => ?_
  have p0 : bits N 0 4 = 9 := at_ 0
  have p1 : bits N 4 12 = 0 := at_ 1
  have p2 : bits N 16 10 = 0 := at_ 2
  have p3 : bits N 26 6 = 56 := at_ 3
  have h0 : bits N 0 16 = 9 := by rw [bits_join N 0 4 12, p0, p1]; rfl
  have h1 : bits N 0 26 = 9 := by rw [bits_join N 0 4 22, bits_join N 4 12 10, p0, p1, p2]; rfl
  exact (raw p3).trans (show decodeOp38 N = _ from ((if_neg (fun h => (differ p0 (by decide)) h.1)).trans ((if_neg (fun h => (differ p0 (by decide)) h.1)).trans ((if_neg (fun h => (differ p0 (by decide)) h.1)).trans ((if_neg (differ p0 (by decide))).trans ((if_neg (differ h0 (by decide))).trans ((if_neg (differ h0 (by decide))).trans ((if_neg (differ h1 (by decide))).trans ((if_neg (differ h1 (by decide))).trans ((if_neg (differ h1 (by decide))).trans ((if_pos h1).trans rfl)))))))))))

theorem RoundTrip.barb : RoundTrip.Statement (.barb) := by
  refine statement_of (l := [(10, 4), (0, 12), (0, 10), (56, 6)]) rfl (by simp only [enc, wordOf]; omega) ⟨(by decide), (by decide), (by decide), (by decide), trivial⟩ rfl fun N at_ => ?_
  have p0 : bits N 0 4 = 10 := at_ 0
  have p1 : bits N 4 12 = 0 := at_ 1
  have p2 : bits N 16 10 = 0 := at_ 2
  have p3 : bits N 26 6 = 56 := at_ 3
  have h0 : bits N 0 16 = 10 := by rw [bits_join N 0 4 12, p0, p1]; rfl
  have h1 : bits N 0 26 = 10 := by rw [bits_join N 0 4 22, bits_join N 4 12 10, p0, p1, p2]; rfl
  exact (raw p3).trans (show decodeOp38 N = _ from ((if_neg (fun h => (differ p0 (by decide)) h.1)).trans ((if_neg (fun h => (differ p0 (by decide)) h.1)).trans ((if_neg (fun h => (differ p0 (by decide)) h.1)).trans ((if_neg (differ p0 (by decide))).trans ((if_neg (differ h0 (by decide))).trans ((if_neg (differ h0 (by decide))).trans ((if_neg (differ h1 (by decide))).trans ((if_neg (differ h1 (by decide))).trans ((if_neg (differ h1 (by decide))).trans ((if_neg (differ h1 (by decide))).trans ((if_pos h1).trans rfl))))))))))))

theorem RoundTrip.eret : RoundTrip.Statement (.eret) := by
  refine statement_of (l := [(2, 4), (0, 12), (0, 10), (60, 6)]) rfl (by simp only [enc, wordOf]; omega) ⟨(by decide), (by decide), (by decide), (by decide), trivial⟩ rfl fun N at_ => ?_
  have p0 : bits N 0 4 = 2 := at_ 0
  have p1 : bits N 4 12 = 0 := at_ 1
  have p2 : bits N 16 10 = 0 := at_ 2
  have p3 : bits N 26 6 = 60 := at_ 3
  have h0 : bits N 0 16 = 2 := by rw [bits_join N 0 4 12, p0, p1]; rfl
  have h1 : bits N 0 26 = 2 := by rw [bits_join N 0 4 22, bits_join N 4 12 10, p0, p1, p2]; rfl
  exact (raw p3).trans (show decodeOp3C N = _ from ((if_neg (fun h => (differ p0 (by decide)) h.1)).trans ((if_neg (fun h => (differ p0 (by decide)) h.1)).trans ((if_neg (fun h => (differ h0 (by decide)) h.1)).trans ((if_neg (differ h0 (by decide))).trans ((if_pos h1).trans rfl))))))

theorem RoundTrip.illegalWord : RoundTrip.Statement .illegalWord := statement_of_no_word rfl

theorem RoundTrip.trapEntry : RoundTrip.Statement .trapEntry := statement_of_no_word rfl

theorem RoundTrip.resultWrite : RoundTrip.Statement .resultWrite := statement_of_no_word rfl

theorem RoundTrip.mailboxMove : RoundTrip.Statement .mailboxMove := statement_of_no_word rfl

theorem RoundTrip.rotationEnd : RoundTrip.Statement .rotationEnd := statement_of_no_word rfl

theorem RoundTrip.vectorUnitAccept : RoundTrip.Statement .vectorUnitAccept := statement_of_no_word rfl

theorem RoundTrip.matrixStreamAccept : RoundTrip.Statement .matrixStreamAccept := statement_of_no_word rfl

theorem RoundTrip.matrixCommandFinish : RoundTrip.Statement .matrixCommandFinish := statement_of_no_word rfl

theorem RoundTrip.ringMove : RoundTrip.Statement .ringMove := statement_of_no_word rfl

theorem RoundTrip.handleResolution : RoundTrip.Statement .handleResolution := statement_of_no_word rfl

theorem RoundTrip.depart : RoundTrip.Statement .depart := statement_of_no_word rfl

theorem RoundTrip.arrive : RoundTrip.Statement .arrive := statement_of_no_word rfl

theorem RoundTrip.rnrRetry : RoundTrip.Statement .rnrRetry := statement_of_no_word rfl

theorem RoundTrip.perform : RoundTrip.Statement .perform := statement_of_no_word rfl

theorem RoundTrip.ldsPerform : RoundTrip.Statement .ldsPerform := statement_of_no_word rfl

theorem RoundTrip.echo : RoundTrip.Statement .echo := statement_of_no_word rfl

theorem RoundTrip.reply : RoundTrip.Statement .reply := statement_of_no_word rfl

theorem RoundTrip.engine : RoundTrip.Statement .engine := statement_of_no_word rfl

theorem RoundTrip.blockReadReturn : RoundTrip.Statement .blockReadReturn := statement_of_no_word rfl

theorem RoundTrip.copyChannelTake : RoundTrip.Statement .copyChannelTake := statement_of_no_word rfl

theorem RoundTrip.engineCommandComplete : RoundTrip.Statement .engineCommandComplete := statement_of_no_word rfl

theorem RoundTrip.trayDepart : RoundTrip.Statement .trayDepart := statement_of_no_word rfl

theorem RoundTrip.trayCommandStart : RoundTrip.Statement .trayCommandStart := statement_of_no_word rfl

theorem RoundTrip.subscriptionTileLoad : RoundTrip.Statement .subscriptionTileLoad := statement_of_no_word rfl

theorem RoundTrip.subscriptionTileStore : RoundTrip.Statement .subscriptionTileStore := statement_of_no_word rfl

theorem RoundTrip.subscriptionEnd : RoundTrip.Statement .subscriptionEnd := statement_of_no_word rfl

theorem RoundTrip.dldReply : RoundTrip.Statement .dldReply := statement_of_no_word rfl

theorem RoundTrip.collJoin : RoundTrip.Statement .collJoin := statement_of_no_word rfl

theorem RoundTrip.collComplete : RoundTrip.Statement .collComplete := statement_of_no_word rfl

theorem RoundTrip.caddyHomeArrival : RoundTrip.Statement .caddyHomeArrival := statement_of_no_word rfl

theorem RoundTrip.caddyShardCommand : RoundTrip.Statement .caddyShardCommand := statement_of_no_word rfl

theorem RoundTrip.caddyMerge : RoundTrip.Statement .caddyMerge := statement_of_no_word rfl

theorem RoundTrip.caddyClearApply : RoundTrip.Statement .caddyClearApply := statement_of_no_word rfl

theorem RoundTrip.flitCrcFail : RoundTrip.Statement .flitCrcFail := statement_of_no_word rfl

theorem RoundTrip.residencyBroadcast : RoundTrip.Statement .residencyBroadcast := statement_of_no_word rfl

theorem RoundTrip.launchRecordTake : RoundTrip.Statement .launchRecordTake := statement_of_no_word rfl

theorem RoundTrip.dependencyMet : RoundTrip.Statement .dependencyMet := statement_of_no_word rfl

theorem RoundTrip.gangDispatch : RoundTrip.Statement .gangDispatch := statement_of_no_word rfl

theorem RoundTrip.residencyRequest : RoundTrip.Statement .residencyRequest := statement_of_no_word rfl

theorem RoundTrip.blendReport : RoundTrip.Statement .blendReport := statement_of_no_word rfl

theorem RoundTrip.startMessageArrival : RoundTrip.Statement .startMessageArrival := statement_of_no_word rfl

theorem RoundTrip.spillReturn : RoundTrip.Statement .spillReturn := statement_of_no_word rfl

theorem RoundTrip.bind : RoundTrip.Statement .bind := statement_of_no_word rfl

theorem RoundTrip.park : RoundTrip.Statement .park := statement_of_no_word rfl

theorem RoundTrip.agingStep : RoundTrip.Statement .agingStep := statement_of_no_word rfl

theorem RoundTrip.messageArrival : RoundTrip.Statement .messageArrival := statement_of_no_word rfl

theorem RoundTrip.sachetArrival : RoundTrip.Statement .sachetArrival := statement_of_no_word rfl

theorem RoundTrip.migrAnswer : RoundTrip.Statement .migrAnswer := statement_of_no_word rfl

theorem RoundTrip.barrierArrival : RoundTrip.Statement .barrierArrival := statement_of_no_word rfl

theorem RoundTrip.barrierCompletion : RoundTrip.Statement .barrierCompletion := statement_of_no_word rfl

theorem RoundTrip.gangDetach : RoundTrip.Statement .gangDetach := statement_of_no_word rfl

theorem RoundTrip.hostInterrupt : RoundTrip.Statement .hostInterrupt := statement_of_no_word rfl

theorem RoundTrip.gangEnd : RoundTrip.Statement .gangEnd := statement_of_no_word rfl

theorem RoundTrip.drain : RoundTrip.Statement .drain := statement_of_no_word rfl

theorem RoundTrip.abort : RoundTrip.Statement .abort := statement_of_no_word rfl

theorem RoundTrip.preempt : RoundTrip.Statement .preempt := statement_of_no_word rfl

theorem RoundTrip.resume : RoundTrip.Statement .resume := statement_of_no_word rfl

theorem RoundTrip.force : RoundTrip.Statement .force := statement_of_no_word rfl

theorem RoundTrip.reopen : RoundTrip.Statement .reopen := statement_of_no_word rfl

theorem RoundTrip.gangRestore : RoundTrip.Statement .gangRestore := statement_of_no_word rfl

theorem RoundTrip.tlbWalk : RoundTrip.Statement .tlbWalk := statement_of_no_word rfl

theorem RoundTrip.pte : RoundTrip.Statement .pte := statement_of_no_word rfl

theorem RoundTrip.inval : RoundTrip.Statement .inval := statement_of_no_word rfl

theorem RoundTrip.revoke : RoundTrip.Statement .revoke := statement_of_no_word rfl

theorem RoundTrip.bufreg : RoundTrip.Statement .bufreg := statement_of_no_word rfl

theorem RoundTrip.bufdel : RoundTrip.Statement .bufdel := statement_of_no_word rfl

theorem RoundTrip.caddy : RoundTrip.Statement .caddy := statement_of_no_word rfl

theorem RoundTrip.icinvAck : RoundTrip.Statement .icinvAck := statement_of_no_word rfl

theorem RoundTrip.traceRecordWrite : RoundTrip.Statement .traceRecordWrite := statement_of_no_word rfl

theorem RoundTrip.pcSample : RoundTrip.Statement .pcSample := statement_of_no_word rfl

theorem RoundTrip.hostRequest : RoundTrip.Statement .hostRequest := statement_of_no_word rfl

theorem RoundTrip.reset : RoundTrip.Statement .reset := statement_of_no_word rfl

theorem RoundTrip.attreq : RoundTrip.Statement .attreq := statement_of_no_word rfl

theorem RoundTrip.freeze : RoundTrip.Statement .freeze := statement_of_no_word rfl

theorem RoundTrip.freezecmd : RoundTrip.Statement .freezecmd := statement_of_no_word rfl

theorem RoundTrip.thermalTrip : RoundTrip.Statement .thermalTrip := statement_of_no_word rfl

theorem RoundTrip.powerSample : RoundTrip.Statement .powerSample := statement_of_no_word rfl

theorem RoundTrip.clockStepUp : RoundTrip.Statement .clockStepUp := statement_of_no_word rfl

theorem RoundTrip.stop : RoundTrip.Statement .stop := statement_of_no_word rfl

theorem RoundTrip.dbgctlResume : RoundTrip.Statement .dbgctlResume := statement_of_no_word rfl

theorem RoundTrip.registerWrite : RoundTrip.Statement .registerWrite := statement_of_no_word rfl

theorem RoundTrip.position : RoundTrip.Statement .position := statement_of_no_word rfl

theorem RoundTrip.cycle : RoundTrip.Statement .cycle := statement_of_no_word rfl

theorem RoundTrip.softError : RoundTrip.Statement .softError := statement_of_no_word rfl

theorem RoundTrip.pageMove : RoundTrip.Statement .pageMove := statement_of_no_word rfl

theorem RoundTrip.pageMoveEnd : RoundTrip.Statement .pageMoveEnd := statement_of_no_word rfl

theorem RoundTrip.retrainingEnd : RoundTrip.Statement .retrainingEnd := statement_of_no_word rfl

theorem RoundTrip.residencyRelease : RoundTrip.Statement .residencyRelease := statement_of_no_word rfl

end Sys2Proof.Laws
end

