-- ==== Sys2Proof/Tests/Slice0.lean ====
section
/-! SUPPORT. Tests: the words of every instruction as the encoding tables give them, terms and words that are refused, states that meet the hypotheses of each statement, and single steps worked out by hand from the rules. -/

namespace Sys2Proof

open Machine

set_option Elab.async false

/-! ## Words written out from the encodings (R44-R50) -/

/-- Major opcode 0x04 (R97, R98), each word cut at its fields. -/
theorem test_words_04_a : ∀ p ∈ ([
  (0b000100_00110_00011_00000_00000000000, .add 6 3 0),
  (0b000100_11101_11010_10110_00000000001, .sub 29 26 22),
  (0b000100_10011_10000_01101_00000000010, .addw 19 16 13),
  (0b000100_01010_00111_00100_00000000011, .subw 10 7 4),
  (0b000100_00000_11101_11010_00000000100, .and 0 29 26),
  (0b000100_10111_10100_10001_00000000101, .or 23 20 17),
  (0b000100_01101_01010_00111_00000000110, .xor 13 10 7),
  (0b000100_00100_00001_11110_00000000111, .andn 4 1 30),
  (0b000100_11011_10111_10100_00000001000, .orn 27 23 20),
  (0b000100_10001_01110_01011_00000001001, .xnor 17 14 11),
  (0b000100_01000_00100_00001_00000001010, .shl 8 4 1),
  (0b000100_11110_11011_11000_00000001011, .shr 30 27 24)] : List (Lane × Instr)), decode p.1 = .ok p.2 := by decide +kernel

/-- Major opcode 0x04 (R98, R99, R100), each word cut at its fields. -/
theorem test_words_04_b : ∀ p ∈ ([
  (0b000100_10101_10010_01110_00000001100, .sra 21 18 14),
  (0b000100_01011_01000_00101_00000001101, .rol 11 8 5),
  (0b000100_00010_11111_11011_00000001110, .ror 2 31 27),
  (0b000100_11000_10101_10010_00000010000, .slt 24 21 18),
  (0b000100_01111_01100_01001_00000010001, .sltu 15 12 9),
  (0b000100_00101_00010_11111_00000010010, .seq 5 2 31),
  (0b000100_11100_11001_10110_00000010011, .sne 28 25 22),
  (0b000100_10010_01111_01100_00000010100, .min 18 15 12),
  (0b000100_01001_00110_00011_00000010101, .max 9 6 3),
  (0b000100_00000_11100_11001_00000010110, .minu 0 28 25),
  (0b000100_10110_10011_10000_00000010111, .maxu 22 19 16),
  (0b000100_01101_01001_00110_00000011000, .selnz 13 9 6)] : List (Lane × Instr)), decode p.1 = .ok p.2 := by decide +kernel

/-- Major opcode 0x04 (R100, R97, R101, R102), each word cut at its fields. -/
theorem test_words_04_c : ∀ p ∈ ([
  (0b000100_00011_00000_11101_00000011001, .selz 3 0 29),
  (0b000100_11010_10111_10011_00000011010, .shadd1 26 23 19),
  (0b000100_10000_01101_01010_00000011011, .shadd2 16 13 10),
  (0b000100_00111_00100_00000_00000011100, .shadd3 7 4 0),
  (0b000100_11101_11010_10111_00000011101, .shadd4 29 26 23),
  (0b000100_10100_10001_01110_00000100000, .mul 20 17 14),
  (0b000100_01010_00111_00100_00000100001, .mulh 10 7 4),
  (0b000100_00001_11110_11011_00000100010, .mulhu 1 30 27),
  (0b000100_10111_10100_10001_00000100011, .mulw 23 20 17),
  (0b000100_01110_01011_01000_0101_0101000, .div 14 11 8 5),
  (0b000100_00001_11110_11011_1000_0101001, .divu 1 30 27 8),
  (0b000100_10101_10010_01110_1011_0101010, .rem 21 18 14 11)] : List (Lane × Instr)), decode p.1 = .ok p.2 := by decide +kernel

/-- Major opcode 0x04 (R102, R103), each word cut at its fields. -/
theorem test_words_04_d : ∀ p ∈ ([
  (0b000100_01000_00101_00010_1111_0101011, .remu 8 5 2 15),
  (0b000100_11100_11000_0000000000110000, .clz 28 24),
  (0b000100_10101_10010_0000000000110001, .ctz 21 18),
  (0b000100_01111_01100_0000000000110010, .popc 15 12),
  (0b000100_01001_00101_0000000000110011, .brev 9 5),
  (0b000100_00010_11111_0000000000110100, .bswap 2 31),
  (0b000100_11100_11001_0000000000110101, .sextb 28 25),
  (0b000100_10110_10011_0000000000110110, .sexth 22 19),
  (0b000100_01111_01100_0000000000110111, .sextw 15 12),
  (0b000100_01001_00110_0000000000111000, .zextw 9 6)] : List (Lane × Instr)), decode p.1 = .ok p.2 := by decide +kernel

/-- Major opcode 0x05 (R105), each word cut at its fields. -/
theorem test_words_05 : ∀ p ∈ ([
  (0b000101_00011_00000_0111111001111100, .addi 3 0 0x7e7c)] : List (Lane × Instr)), decode p.1 = .ok p.2 := by decide +kernel

/-- Major opcode 0x06 (R105), each word cut at its fields. -/
theorem test_words_06 : ∀ p ∈ ([
  (0b000110_11001_10110_1101000110110011, .andi 25 22 0xd1b3)] : List (Lane × Instr)), decode p.1 = .ok p.2 := by decide +kernel

/-- Major opcode 0x07 (R105), each word cut at its fields. -/
theorem test_words_07 : ∀ p ∈ ([
  (0b000111_10000_01101_0010010011101010, .ori 16 13 0x24ea)] : List (Lane × Instr)), decode p.1 = .ok p.2 := by decide +kernel

/-- Major opcode 0x08 (R105), each word cut at its fields. -/
theorem test_words_08 : ∀ p ∈ ([
  (0b001000_00110_00011_0111100000100000, .xori 6 3 0x7820)] : List (Lane × Instr)), decode p.1 = .ok p.2 := by decide +kernel

/-- Major opcode 0x09 (R105), each word cut at its fields. -/
theorem test_words_09 : ∀ p ∈ ([
  (0b001001_11101_11010_1100101101010111, .slti 29 26 0xcb57)] : List (Lane × Instr)), decode p.1 = .ok p.2 := by decide +kernel

/-- Major opcode 0x0A (R105), each word cut at its fields. -/
theorem test_words_0a : ∀ p ∈ ([
  (0b001010_10011_10000_0001111010001101, .sltiu 19 16 0x1e8d)] : List (Lane × Instr)), decode p.1 = .ok p.2 := by decide +kernel

/-- Major opcode 0x0B (R105), each word cut at its fields. -/
theorem test_words_0b : ∀ p ∈ ([
  (0b001011_01010_00111_0111000111000100, .muli 10 7 0x71c4)] : List (Lane × Instr)), decode p.1 = .ok p.2 := by decide +kernel

/-- Major opcode 0x0C (R106), each word cut at its fields. -/
theorem test_words_0c : ∀ p ∈ ([
  (0b001100_00001_11101_0000000000_111010, .shli 1 29 0x3a),
  (0b001100_10111_10100_0000000001_110001, .shri 23 20 0x31),
  (0b001100_01110_01010_0000000010_100111, .srai 14 10 0x27),
  (0b001100_00100_00001_0000000011_011110, .rori 4 1 30)] : List (Lane × Instr)), decode p.1 = .ok p.2 := by decide +kernel

/-- Major opcode 0x0D (R107), each word cut at its fields. -/
theorem test_words_0d : ∀ p ∈ ([
  (0b001101_11011_000_11_0001000111010100, .insh 27 3 0x11d4)] : List (Lane × Instr)), decode p.1 = .ok p.2 := by decide +kernel

/-- Major opcode 0x01 (R109), each word cut at its fields. -/
theorem test_words_01 : ∀ p ∈ ([
  (0b000001_10001_01110_000_0010100001011, .beq 17 14 0x50b),
  (0b000001_01000_00101_001_1100001000001, .bne 8 5 0x1841),
  (0b000001_11110_11011_010_0101101111000, .blt 30 27 0xb78),
  (0b000001_10101_10010_011_1111010101110, .bge 21 18 0x1eae),
  (0b000001_01011_01000_100_1000111100101, .bltu 11 8 0x11e5),
  (0b000001_00010_11111_101_0010100011100, .bgeu 2 31 0x51c)] : List (Lane × Instr)), decode p.1 = .ok p.2 := by decide +kernel

/-- Major opcode 0x02 (R111), each word cut at its fields. -/
theorem test_words_02 : ∀ p ∈ ([
  (0b000010_11000_100010011110010010101, .jal 24 0x113c95)] : List (Lane × Instr)), decode p.1 = .ok p.2 := by decide +kernel

/-- Major opcode 0x03 (R112, R113), each word cut at its fields. -/
theorem test_words_03 : ∀ p ∈ ([
  (0b000011_10010_01111_0000000000000000, .jalr 18 15),
  (0b000011_00000000000000000000000001, .nop)] : List (Lane × Instr)), decode p.1 = .ok p.2 := by decide +kernel

/-- Major opcode 0x10 (R116, R117, R118), each word cut at its fields. -/
theorem test_words_10_a : ∀ p ∈ ([
  (0b010000_01100_01001_00101_0000_10_00000, .fadd 12 9 5 .rup),
  (0b010000_11111_11100_11001_0000_10_00001, .fsub 31 28 25 .rup),
  (0b010000_10011_01111_01100_0000_01_00010, .fmul 19 15 12 .rtz),
  (0b010000_00110_00011_00000_0000_00_00011, .fmac 6 3 0 .rne),
  (0b010000_11001_10110_10011_0000_01_00100, .fdiv 25 22 19 0 .rtz),
  (0b010000_01010_00110_00000_0011_00_00101, .fsqrt 10 6 3 .rne),
  (0b010000_11101_11010_10111_00000000110, .fmin 29 26 23),
  (0b010000_10011_10000_01101_00000000111, .fmax 19 16 13),
  (0b010000_01010_00111_0000000000001000, .fabs 10 7),
  (0b010000_00100_00001_0000000000001001, .fneg 4 1),
  (0b010000_11101_11010_10111_00000001010, .feq 29 26 23),
  (0b010000_10100_10001_01110_00000001011, .flt 20 17 14)] : List (Lane × Instr)), decode p.1 = .ok p.2 := by decide +kernel

/-- Major opcode 0x10 (R118, R119, R120), each word cut at its fields. -/
theorem test_words_10_b : ∀ p ∈ ([
  (0b010000_01010_00111_00100_00000001100, .fle 10 7 4),
  (0b010000_00001_11110_0000000000001101, .fclass 1 30),
  (0b010000_11011_11000_000000000_00_01110, .fcvtSL 27 24 .rne),
  (0b010000_10001_01110_000000000_00_01111, .fcvtSLU 17 14 .rne),
  (0b010000_01000_00101_000000000_01_10000, .fcvtLS 8 5 .rtz),
  (0b010000_11110_11011_000000000_00_10001, .fcvtLUS 30 27 .rne),
  (0b010000_10101_10010_0000000000010010, .fcvtSH 21 18),
  (0b010000_01111_01011_000000000_00_10011, .fcvtHS 15 11 .rne),
  (0b010000_00101_00010_0000000000010100, .fcvtSBF 5 2),
  (0b010000_11111_11100_000000000_00_10101, .fcvtBFS 31 28 .rne)] : List (Lane × Instr)), decode p.1 = .ok p.2 := by decide +kernel

/-- Major opcode 0x14 (R127), each word cut at its fields. -/
theorem test_words_14 : ∀ p ∈ ([
  (0b010100_10101_10010_1111_01_00_1_0100110, .ld 21 18 15 1 true 0x26)] : List (Lane × Instr)), decode p.1 = .ok p.2 := by decide +kernel

/-- Major opcode 0x15 (R232), each word cut at its fields. -/
theorem test_words_15 : ∀ p ∈ ([
  (0b010101_00010_11111_1100_01_001_0010011, .ldAcq 2 31 12 1 .clu 19)] : List (Lane × Instr)), decode p.1 = .ok p.2 := by decide +kernel

/-- Major opcode 0x16 (R128, R240), each word cut at its fields. -/
theorem test_words_16 : ∀ p ∈ ([
  (0b010110_01111_01100_0000_01_000_0000110, .st 15 12 1 6),
  (0b010110_00011_00000_0000_01_001_1111001, .stf 3 0 1 0x79)] : List (Lane × Instr)), decode p.1 = .ok p.2 := by decide +kernel

/-- Major opcode 0x17 (R233), each word cut at its fields. -/
theorem test_words_17 : ∀ p ∈ ([
  (0b010111_10110_10011_0000_00_000_0101010, .stRel 22 19 0 .core 0x2a)] : List (Lane × Instr)), decode p.1 = .ok p.2 := by decide +kernel

/-- Major opcode 0x18 (R241), each word cut at its fields. -/
theorem test_words_18 : ∀ p ∈ ([
  (0b011000_00110_00011_0000_01_00_0_0010111, .lds 6 3 0 1 false 23)] : List (Lane × Instr)), decode p.1 = .ok p.2 := by decide +kernel

/-- Major opcode 0x19 (R133), each word cut at its fields. -/
theorem test_words_19 : ∀ p ∈ ([
  (0b011001_10100_10000_0000_01_000_0001010, .ldf 20 16 1 10)] : List (Lane × Instr)), decode p.1 = .ok p.2 := by decide +kernel

/-- Major opcode 0x1A (R129), each word cut at its fields. -/
theorem test_words_1a : ∀ p ∈ ([
  (0b011010_0_0111_00100_0001_10_101_0111010, .vld 7 4 1 5 0x3a)] : List (Lane × Instr)), decode p.1 = .ok p.2 := by decide +kernel

/-- Major opcode 0x1C (R129), each word cut at its fields. -/
theorem test_words_1c : ∀ p ∈ ([
  (0b011100_0_0111_10100_000010_001_0101110, .vst 7 20 1 0x2e)] : List (Lane × Instr)), decode p.1 = .ok p.2 := by decide +kernel

/-- Major opcode 0x1B (R131, R132), each word cut at its fields. -/
theorem test_words_1b : ∀ p ∈ ([
  (0b011011_0_1011_00111_00100_0001_110_1000, .vlds 11 7 4 1 6),
  (0b011011_0_1011_11000_10100_0000_001_1001, .vsts 11 24 20 1),
  (0b011011_0_1110_01011_0_1000_0101_010_1010, .vldi 14 11 8 5 2),
  (0b011011_0_1110_11011_0_1000_0000_101_1011, .vsti 14 27 8 5)] : List (Lane × Instr)), decode p.1 = .ok p.2 := by decide +kernel

/-- Major opcode 0x1E (R236), each word cut at its fields. -/
theorem test_words_1e : ∀ p ∈ ([
  (0b011110_10010_01111_01011_1000_000_0000, .aswapW 18 15 11 8 .core),
  (0b011110_00010_11111_11100_1001_001_0001, .aaddW 2 31 28 9 .clu),
  (0b011110_00011_00000_11101_1001_001_0010, .aandW 3 0 29 9 .clu),
  (0b011110_00011_00000_11101_1010_010_0011, .aorW 3 0 29 10 .pot),
  (0b011110_00100_00001_11101_1010_010_0100, .axorW 4 1 29 10 .pot),
  (0b011110_00100_00001_11110_1011_000_0101, .aminW 4 1 30 11 .core),
  (0b011110_00101_00010_11110_1011_000_0110, .amaxW 5 2 30 11 .core),
  (0b011110_00101_00010_11111_1100_001_0111, .aminuW 5 2 31 12 .clu),
  (0b011110_00110_00010_11111_1100_001_1000, .amaxuW 6 2 31 12 .clu),
  (0b011110_00110_00011_00000_1101_001_1001, .afadd 6 3 0 13 .clu),
  (0b011110_10110_10011_10000_1101_010_1010, .acasW 22 19 16 13 .pot)] : List (Lane × Instr)), decode p.1 = .ok p.2 := by decide +kernel

/-- Major opcode 0x1F (R236), each word cut at its fields. -/
theorem test_words_1f : ∀ p ∈ ([
  (0b011111_00010_11111_11100_1001_000_0000, .aswapD 2 31 28 9 .core),
  (0b011111_10011_01111_01100_1001_001_0001, .aaddD 19 15 12 9 .clu),
  (0b011111_10011_10000_01101_1010_001_0010, .aandD 19 16 13 10 .clu),
  (0b011111_10100_10000_01101_1010_010_0011, .aorD 20 16 13 10 .pot),
  (0b011111_10100_10001_01110_1011_010_0100, .axorD 20 17 14 11 .pot),
  (0b011111_10100_10001_01110_1011_000_0101, .aminD 20 17 14 11 .core),
  (0b011111_10101_10010_01111_1011_000_0110, .amaxD 21 18 15 11 .core),
  (0b011111_10101_10010_01111_1100_001_0111, .aminuD 21 18 15 12 .clu),
  (0b011111_10110_10011_10000_1100_001_1000, .amaxuD 22 19 16 12 .clu),
  (0b011111_00111_00011_00000_1101_010_1010, .acasD 7 3 0 13 .pot)] : List (Lane × Instr)), decode p.1 = .ok p.2 := by decide +kernel

/-- Major opcode 0x20 (R237), each word cut at its fields. -/
theorem test_words_20 : ∀ p ∈ ([
  (0b100000_0010_0_01111_1100_0_1001_001_0000, .aswapQ 2 15 12 9 .clu),
  (0b100000_0111_0_10100_0000_0_1101_010_1010, .acasQ 7 20 0 13 .pot)] : List (Lane × Instr)), decode p.1 = .ok p.2 := by decide +kernel

/-- Major opcode 0x21 (R244, R245, R243), each word cut at its fields. -/
theorem test_words_21 : ∀ p ∈ ([
  (0b100001_0000000000000000000_010_0000, .fence .pot),
  (0b100001_00000000000000000000000001, .xfence),
  (0b100001_00100_00001_0000000000000010, .feclr 4 1)] : List (Lane × Instr)), decode p.1 = .ok p.2 := by decide +kernel

/-- Major opcode 0x22 (R246, R247), each word cut at its fields. -/
theorem test_words_22 : ∀ p ∈ ([
  (0b100010_00000_11110_00_1001111010_0000, .fset 30 0x27a),
  (0b100010_00000_10111_00_0111110100_0001, .fclr 23 0x1f4),
  (0b100010_10001_01110_00_0100101011_0010, .ftst 17 14 0x12b),
  (0b100010_00000_00111_0_0_0001100001_0011, .fwait 7 false 0x61)] : List (Lane × Instr)), decode p.1 = .ok p.2 := by decide +kernel

/-- Major opcode 0x24 (R158, R159), each word cut at its fields. -/
theorem test_words_24_a : ∀ p ∈ ([
  (0b100100_1110_1011_1000_101_0001_10_00000, .vfadd 14 11 8 5 1 .rup),
  (0b100100_1011_1000_0101_010_1110_00_00001, .vfsub 11 8 5 2 14 .rne),
  (0b100100_1000_0101_0010_111_1100_00_00010, .vfmul 8 5 2 7 12 .rne),
  (0b100100_0101_0010_1111_100_1001_01_00011, .vfma 5 2 15 4 9 .rtz),
  (0b100100_0010_1111_1100_001_0110_0000100, .vfmin 2 15 12 1 6),
  (0b100100_0011_1111_1100_001_0110_0000101, .vfmax 3 15 12 1 6),
  (0b100100_0011_0000_0000_100_1001_0000110, .vfabs 3 0 4 9),
  (0b100100_0110_0011_0000_000_1101_0000111, .vfneg 6 3 0 13),
  (0b100100_1010_0110_0011_000_1101_10_01000, .vfdiv 10 6 3 0 13 .rup),
  (0b100100_0111_0011_0000_000_1101_10_01001, .vfsqrt 7 3 0 13 .rup),
  (0b100100_0111_0100_0000_001_1101_0001010, .vrcp 7 4 1 13),
  (0b100100_1010_0111_0000_100_0001_0001011, .vrsq 10 7 4 1)] : List (Lane × Instr)), decode p.1 = .ok p.2 := by decide +kernel

/-- Major opcode 0x24 (R76), each word cut at its fields. -/
theorem test_words_24_b : ∀ p ∈ ([
  (0b100100_1110_1010_0000_111_0100_0001100, .vexp2 14 10 7 4)] : List (Lane × Instr)), decode p.1 = .ok p.2 := by decide +kernel

/-- Major opcode 0x25 (R160), each word cut at its fields. -/
theorem test_words_25_a : ∀ p ∈ ([
  (0b100101_0001_1110_1011_111_0100_01_00000, .vadd 1 14 11 7 4 .h),
  (0b100101_1110_1011_1000_101_0001_10_00001, .vsub 14 11 8 5 1 .w),
  (0b100101_1011_1000_0101_010_1110_00_00010, .vmul 11 8 5 2 14 .b),
  (0b100101_1000_0101_0010_111_1100_00_00011, .vmin 8 5 2 7 12 .b),
  (0b100101_0101_0010_1111_100_1001_01_00100, .vmax 5 2 15 4 9 .h),
  (0b100101_0010_1111_1100_001_0110_00_00101, .vminu 2 15 12 1 6 .b),
  (0b100101_1111_1100_1001_110_0011_00_00110, .vmaxu 15 12 9 6 3 .b),
  (0b100101_1100_1001_0110_011_0000_01_00111, .vand 12 9 6 3 0 .h),
  (0b100101_1010_0110_0011_000_1101_10_01000, .vor 10 6 3 0 13 .w),
  (0b100101_0111_0011_0000_101_1010_00_01001, .vxor 7 3 0 5 10 .b),
  (0b100101_0100_0001_1101_010_0111_00_01010, .vshl 4 1 13 2 7 .b),
  (0b100101_0001_1110_1010_111_0100_01_01011, .vshr 1 14 10 7 4 .h)] : List (Lane × Instr)), decode p.1 = .ok p.2 := by decide +kernel

/-- Major opcode 0x25 (R160), each word cut at its fields. -/
theorem test_words_25_b : ∀ p ∈ ([
  (0b100101_1110_1011_1000_100_0001_10_01100, .vsra 14 11 8 4 1 .w),
  (0b100101_1011_1000_0101_001_1110_00_01101, .vadds 11 8 5 1 14 .b),
  (0b100101_1000_0101_0010_111_1011_00_01110, .vsubs 8 5 2 7 11 .b),
  (0b100101_0101_0010_1111_100_1000_01_01111, .vaddus 5 2 15 4 8 .h),
  (0b100101_0010_1111_1100_001_0110_10_10000, .vsubus 2 15 12 1 6 .w),
  (0b100101_1111_1100_0000_001_0110_00_10001, .vabs 15 12 1 6 .b)] : List (Lane × Instr)), decode p.1 = .ok p.2 := by decide +kernel

/-- Major opcode 0x26 (R161), each word cut at its fields. -/
theorem test_words_26 : ∀ p ∈ ([
  (0b100110_0_111_1100_1001_110_0011_00_00001, .vcmp 7 12 9 6 3 .f .ne)] : List (Lane × Instr)), decode p.1 = .ok p.2 := by decide +kernel

/-- Major opcode 0x27 (R164), each word cut at its fields. -/
theorem test_words_27 : ∀ p ∈ ([
  (0b100111_1001_0110_00_00_000_1101_10_01101, .vcvt 9 6 0 0 13 .rup 13)] : List (Lane × Instr)), decode p.1 = .ok p.2 := by decide +kernel

/-- Major opcode 0x28 (R165), each word cut at its fields. -/
theorem test_words_28 : ∀ p ∈ ([
  (0b101000_0011_0000_1101_010_0111_0000000, .vperm 3 0 13 2 7),
  (0b101000_0100_0000_1101_010_0111_0000001, .vsel 4 0 13 2 7),
  (0b101000_0100_0001_1101_010_0111_0000010, .vzip 4 1 13 2 7),
  (0b101000_0100_0001_1110_011_0111_0000011, .vunzip 4 1 14 3 7),
  (0b101000_0100_0001_0000_110_1011_0000100, .vcompress 4 1 6 11),
  (0b101000_1000_0100_0000_001_1110_0000101, .vexpand 8 4 1 14)] : List (Lane × Instr)), decode p.1 = .ok p.2 := by decide +kernel

/-- Major opcode 0x29 (R166), each word cut at its fields. -/
theorem test_words_29 : ∀ p ∈ ([
  (0b101001_1011_1000_0000_101_0010_0000000, .vredadd 11 8 5 2),
  (0b101001_1110_1011_0000_000_0101_0000001, .vredmax 14 11 0 5),
  (0b101001_0010_1111_0000_011_1000_0000010, .vredmin 2 15 3 8),
  (0b101001_0101_0010_0000_111_1100_0000011, .vredaddi 5 2 7 12),
  (0b101001_1000_0101_0000_010_1111_0000100, .vredmaxi 8 5 2 15),
  (0b101001_1100_1001_0000_110_0010_0000101, .vredmini 12 9 6 2),
  (0b101001_1111_1100_0000_001_0110_0000110, .vredand 15 12 1 6),
  (0b101001_0011_1111_0000_100_1001_0000111, .vredor 3 15 4 9),
  (0b101001_0110_0011_0000_000_1101_0001000, .vredxor 6 3 0 13)] : List (Lane × Instr)), decode p.1 = .ok p.2 := by decide +kernel

/-- Major opcode 0x2A (R168, R169), each word cut at its fields. -/
theorem test_words_2a : ∀ p ∈ ([
  (0b101010_001_0_0110_0000_011_0000_000000_1, .vsort 1 6 3 0 true),
  (0b101010_110_0_0110_1011_000_1101_000001_0, .vselk 6 6 11 0 13 false),
  (0b101010_110_0_100_0_1011_101_1010_000010_1, .vmergek 6 4 11 5 10 true)] : List (Lane × Instr)), decode p.1 = .ok p.2 := by decide +kernel

/-- Major opcode 0x2B (R163), each word cut at its fields. -/
theorem test_words_2b : ∀ p ∈ ([
  (0b101011_0_0100_10001_00000_1101_0000000, .vbcast 4 17 13),
  (0b101011_0_1010_00111_00100_0001_0000001, .vins 10 7 4 1),
  (0b101011_11110_0_1011_10111_0100_0000010, .vext 30 11 23 4),
  (0b101011_00_001_01110_00000_1011_0000011, .kmovgk 1 14 11),
  (0b101011_01000_00_100_00000_0001_0000100, .kmovkg 8 4 1),
  (0b101011_11110_00_011_00000_1000_0000101, .kpopc 30 3 8)] : List (Lane × Instr)), decode p.1 = .ok p.2 := by decide +kernel

/-- Major opcode 0x2C (R162), each word cut at its fields. -/
theorem test_words_2c : ∀ p ∈ ([
  (0b101100_0_101_0_010_0_110_000_1011_0000000, .kand 5 2 6 11),
  (0b101100_0_000_0_101_0_010_000_1111_0000001, .kor 0 5 2 15),
  (0b101100_0_011_0_000_0_101_000_0010_0000010, .kxor 3 0 5 2),
  (0b101100_0_111_0_100_0_001_000_0101_0000011, .kandn 7 4 1 5),
  (0b101100_0_010_0_111_0000000_1100_0000100, .knot 2 7 12)] : List (Lane × Instr)), decode p.1 = .ok p.2 := by decide +kernel

/-- Major opcode 0x30 (R182, R183, R184, R185, R186, R187, R188, R189, R190), each word cut at its fields. -/
theorem test_words_30 : ∀ p ∈ ([
  (0b110000_001_00000000000000000000000, .mclaim 1),
  (0b110000_110_00000000000000000000001, .mfree 6),
  (0b110000_000_0111_01111_01100_000000010, .mlda 7 15 12),
  (0b110000_000_0010_00110_00011_000000011, .mldb 2 6 3),
  (0b110000_000000000000_00000_000000100, .rpass 0),
  (0b110000_100_0011_00000_10110_000000101, .mma 4 3 22),
  (0b110000_00_1_0100_00000_01101_000000110, .mmab 1 4 13),
  (0b110000_00_1_0111_00011_00000_000000111, .mmai 1 7 3 0),
  (0b110000_101_001_1_10011_10000_000001000, .msca 5 1 1 19 16),
  (0b110000_101_000000000_01010_000001001, .mzero 5 10),
  (0b110000_111_1001_00000_11101_000001010, .mdrain 7 9 0 29),
  (0b110000_00000000000_0_00000000001011, .mtwin false)] : List (Lane × Instr)), decode p.1 = .ok p.2 := by decide +kernel

/-- Major opcode 0x32 (R256, R257, R259, R405), each word cut at its fields. -/
theorem test_words_32 : ∀ p ∈ ([
  (0b110010_10111_10100_0000000000_01_0000, .xpush 23 20 1),
  (0b110010_01110_01010_0000000000_11_0001, .xpushr 14 10 3),
  (0b110010_00000_00100_0000000000_01_0010, .xwait 4 1),
  (0b110010_11110_11011_0000000000000011, .expect 30 27)] : List (Lane × Instr)), decode p.1 = .ok p.2 := by decide +kernel

/-- Major opcode 0x33 (R264, R265, R266, R267), each word cut at its fields. -/
theorem test_words_33 : ∀ p ∈ ([
  (0b110011_10111_10100_000000_0_01110_0000, .trayGather 23 20 false 14),
  (0b110011_01011_01000_000000_0_00001_0001, .trayScatter 11 8 false 1),
  (0b110011_11110_11011_000000_0_10101_0010, .trayReduce 30 27 false 21),
  (0b110011_10010_01110_000000_0_01000_0011, .traySub 18 14 false 8),
  (0b110011_00101_00010_000000_0_11100_0100, .trayUnsub 5 2 false 28)] : List (Lane × Instr)), decode p.1 = .ok p.2 := by decide +kernel

/-- Major opcode 0x34 (R84, R271, R272), each word cut at its fields. -/
theorem test_words_34 : ∀ p ∈ ([
  (0b110100_00000_11000_0000000000_01_0000, .mbw 24 1),
  (0b110100_10010_000000000000000_11_0001, .mbr 18 3),
  (0b110100_00000_01100_0000000000_01_0010, .dld 12 1),
  (0b110100_00101_000000000000000000011, .dpop 5),
  (0b110100_00000_00010_0000000000000100, .ppush 2),
  (0b110100_00000_11111_0000000000_00_0101, .pst 31 0),
  (0b110100_11001_0000000000000000_0_0110, .qcnt 25 false)] : List (Lane × Instr)), decode p.1 = .ok p.2 := by decide +kernel

/-- Major opcode 0x35 (R295, R296, R287, R288), each word cut at its fields. -/
theorem test_words_35 : ∀ p ∈ ([
  (0b110101_10011_01111_0000000000_10_0000, .allred 19 15 2),
  (0b110101_01001_00110_0000000000000001, .allgath 9 6),
  (0b110101_00011_00000_0000000_11100_0010, .waddr 3 0 28),
  (0b110101_11001_10110_00000000000_0_0011, .wres 25 22 false)] : List (Lane × Instr)), decode p.1 = .ok p.2 := by decide +kernel

/-- Major opcode 0x36 (R380, R381, R382, R383), each word cut at its fields. -/
theorem test_words_36 : ∀ p ∈ ([
  (0b110110_10000_01101_000000_001010_0000, .stvec 16 13 10),
  (0b110110_00110_00011_00_000_0_111101_0001, .ldnear 6 3 0 0x3d),
  (0b110110_11010_10111_000000_110011_0010, .ixdel 26 23 0x33),
  (0b110110_10000_01101_00_1010_100111_0011, .ixsnap 16 13 10 0x27)] : List (Lane × Instr)), decode p.1 = .ok p.2 := by decide +kernel

/-- Major opcode 0x38 (R346, R347, R348, R332, R333, R334, R335, R361, R336), each word cut at its fields. -/
theorem test_words_38 : ∀ p ∈ ([
  (0b111000_00100_11100_00000000000_1_0000, .send 4 28 true),
  (0b111000_01000_01001_00000000000_0_0001, .recv 8 9 false),
  (0b111000_10001_000000000000000_10_0010, .rqn 17 2),
  (0b111000_01010_00111_0000100_00001_0011, .tstart 10 7 4 1),
  (0b111000_00000000000000000000000100, .texit),
  (0b111000_00000000000000000000000101, .yield),
  (0b111000_11110_11011_0000000000000110, .prio 30 27),
  (0b111000_10111_10100_0000000000000111, .migr 23 20),
  (0b111000_00000000000000000000001000, .barc),
  (0b111000_00000000000000000000001001, .barg),
  (0b111000_00000000000000000000001010, .barb)] : List (Lane × Instr)), decode p.1 = .ok p.2 := by decide +kernel

/-- Major opcode 0x39 (R396), each word cut at its fields. -/
theorem test_words_39 : ∀ p ∈ ([
  (0b111001_10001_01110_0000000000000000, .htest 17 14),
  (0b111001_01011_01000_0000000000000001, .hpass 11 8),
  (0b111001_00000_00101_0000000000000010, .hcancel 5)] : List (Lane × Instr)), decode p.1 = .ok p.2 := by decide +kernel

/-- Major opcode 0x3A (R407, R413), each word cut at its fields. -/
theorem test_words_3a : ∀ p ∈ ([
  (0b111010_00001_00000_000001000100_0000, .crd 1 0x44),
  (0b111010_00000_11011_0000000000_10_0001, .tmark 27 2)] : List (Lane × Instr)), decode p.1 = .ok p.2 := by decide +kernel

/-- Major opcode 0x3C (R147, R148, R149), each word cut at its fields. -/
theorem test_words_3c : ∀ p ∈ ([
  (0b111100_10101_00000_000000100000_0000, .srd 21 0x20),
  (0b111100_00000_01110_000000011011_0001, .swr 14 27),
  (0b111100_00000000000000000000000010, .eret),
  (0b111100_00000_01000_0000000000000011, .icinv 8),
  (0b111100_00101_00010_0000000000000100, .icinvG 5 2)] : List (Lane × Instr)), decode p.1 = .ok p.2 := by decide +kernel

/-- Major opcode 0x3F (R53), each word cut at its fields. -/
theorem test_words_3f : ∀ p ∈ ([
  (0b111111_11111100111100000110111111, .brk 0x3f3c1bf)] : List (Lane × Instr)), decode p.1 = .ok p.2 := by decide +kernel

/-! ## Words and terms that are refused -/

/-- The decoder refuses a word. -/
def refuses (w : Lane) : Bool :=
  match decode w with
  | .ok _ => false
  | .error _ => true

/-- R52: opcode 0; a reserved function code of INT; NOP with a register field set; BR with a reserved condition; a v field with bit 4 set; STF with lookahead; a CTRL function code that is none; FENCE of a reserved scope; VSEL with a rounding field; TSTART with a reserved low field. -/
theorem test_words_refused : ([
  0b000000_00000_00000_00000_00000000000,
  0b000100_00000_00000_00000_00000001111,
  0b000011_00001_00000_00000_00000000001,
  0b000001_00000_00000_110_0000000000000,
  0b011010_11111_00100_0110_10_111_1000000,
  0b010110_00011_00100_1111_10_001_0000001,
  0b000011_00000_00000_00000_11111111111,
  0b100001_0000000000000000000_101_0000,
  0b101000_0001_0010_0011_000_0111_01_00001,
  0b111000_00001_00010_1111111_00011_1111] : List Lane).all refuses = true := by decide +kernel

/-- R47, R161, R164: a sign-extended doubleword load, an unordered comparison of integers, and VCVT with a reserved code, a rounding mode, a part, a mask and register pairs that its code does not take. -/
theorem test_wf_load_compare_convert : ∀ i ∈ ([.ld 1 2 0 3 true 0, .vcmp 1 2 3 0 0 .i .unord, .vcmp 1 2 3 0 0 .u .unord,
  .vcvt 1 2 0 0 0 .rne 19, .vcvt 1 2 0 0 0 .rtz 8, .vcvt 1 2 0 0 0 .rup 15, .vcvt 1 2 2 0 0 .rne 0, .vcvt 1 2 1 0 0 .rne 13,
  .vcvt 1 2 0 1 0 .rne 2, .vcvt 1 3 0 0 0 .rne 4, .vcvt 3 2 0 0 0 .rne 12] : List Instr), wf i = false := by decide +kernel

/-- R169: VSELK and VMERGEK whose vb is one of the destination pair. -/
theorem test_wf_selections : ∀ i ∈ ([.vselk 3 0 6 0 0 false, .vselk 3 0 7 0 0 true, .vmergek 0 1 0 0 0 false, .vmergek 0 1 1 0 0 true] : List Instr),
  wf i = false := by decide +kernel

/-- R183-R190: formats that the matrix instructions do not take. -/
theorem test_wf_matrix : ∀ i ∈ ([.mlda 6 1 2, .mlda 8 1 2, .mldb 6 1 2, .mma 0 4 1, .mmab 0 1 1, .mmab 0 5 1, .mmai 0 4 1 2, .mmai 0 6 1 2,
  .msca 0 2 0 1 2, .mdrain 0 4 1 2, .mdrain 0 10 1 2] : List Instr), wf i = false := by decide +kernel

/-- R50 and the entries: the own-tray forms with a tray number; ALLRED with a reserved form; WRES.s with a register; SEND and RECV whose group leaves the registers, or holds rd; RQN and TMARK of a reserved kind; CRD, SRD and SWR of numbers that name nothing they may read or write. -/
theorem test_wf_units_and_numbers : ∀ i ∈ ([.trayGather 1 2 true 1, .trayScatter 1 2 true 1, .trayReduce 1 2 true 1, .traySub 1 2 true 1, .trayUnsub 1 2 true 31,
  .allred 1 2 3, .wres 1 2 true, .send 1 29 false, .recv 1 29 false, .recv 9 8 false, .recv 8 8 true, .rqn 1 3, .tmark 1 3,
  .crd 1 0x004, .crd 1 0x045, .srd 1 0x009, .srd 1 0x016, .swr 1 0x005, .swr 1 0x020] : List Instr), wf i = false := by decide +kernel

/-- The neighbours of those terms that are well formed. -/
theorem test_wf_admits : ∀ i ∈ ([.ld 1 2 0 2 true 0, .vcmp 1 2 3 0 0 .f .unord, .vcvt 1 2 3 0 0 .rdn 2, .vcvt 1 2 0 5 0 .rtz 14, .vcvt 2 4 0 0 0 .rne 12,
  .vselk 3 0 5 0 0 false, .vmergek 0 1 2 0 0 true, .mlda 7 1 2, .mma 0 3 1, .mmab 0 2 1, .mmai 0 5 1 2, .msca 0 1 0 1 2, .mdrain 0 8 1 2,
  .trayGather 1 2 true 0, .allred 1 2 2, .wres 1 0 true, .send 1 28 false, .recv 8 9 false, .recv 0 0 true, .crd 1 0x044, .srd 1 0x023, .swr 1 0x01B] : List Instr),
  wf i = true := by decide +kernel

/-! ## Small states -/

/-- A module with a gang on core 0, whose thread stands at the one word of the one block there is, in a lease of the first MiB of pot 0, with nothing due. -/
def tst : State :=
  let s := { State.reset.place 0 with agenda := [], cur := .ctx 0 0 }
  s.setCtx s.cur { s.ctx s.cur with pc := placedHdr + 8, blk := ⟨placedHdr, 1, 0, 0⟩, enter := .none }

/-- The same with the thread's state changed. -/
def tstCtx (f : Ctx → Ctx) : State := tst.setCtx tst.cur (f (tst.ctx tst.cur))

/-- The same with g registers set. -/
def tstG (l : List (Nat × Word)) : State := tstCtx (fun c => l.foldl (fun c p => c.setG p.1 p.2) c)

/-- The same with core 0 changed. -/
def tstCore (f : Core → Core) : State := tst.setCore 0 (f (tst.core 0))

/-- The address of a byte of core 0's scratchpad, in the lease. -/
def pad (off : Nat) : Word := 0xFFF0000000000000 + word off

/-- An address of an owner that does not exist. -/
def noOwner : Word := 0xFFF0000000000000 + word (67 * 2 ^ 45)

/-- A state with a further block, its header at a scratchpad offset and its map bit set. -/
def withBlock (s : State) (off len kind : Nat) : State :=
  let m := mkLoc ownModule 0 (0x8000 + off / 64)
  let s := s.writeLocs m [s.readLoc m ||| BitVec.ofNat 8 (2 ^ (off / 8 % 8))]
  s.writeLocs (mkLoc ownModule 0 off) (leBytes 8 (encodeHeader { len := len, liveg := 0, livev := 0, livek := 0, pf := 0, kind := kind }).toNat)

/-- An admitted target's block. -/
def okBlock : EnterRes → Option Block
  | .ok _ b => some b
  | _ => none

theorem admitted_of (s : State) (a : Word) (h : (okBlock (s.target a)).isSome = true) : s.admitted a := by
  unfold State.admitted
  revert h
  cases s.target a <;> simp [okBlock]

/-- A refused target's fault. -/
def faultOf : EnterRes → Option (Nat × Word)
  | .fault c a => some (c, a)
  | _ => none

theorem fault_of (r : EnterRes) (c : Nat) (a : Word) (h : faultOf r = some (c, a)) : r = .fault c a := by
  revert h
  cases r <;> simp [faultOf]

theorem ok_of (r : EnterRes) (b : Block) (h : okBlock r = some b) : ∃ s, r = .ok s b := by
  revert h
  cases r <;> simp [okBlock]

/-! ## Witnesses: states and operands that meet the hypotheses of each statement, clause by clause -/

theorem witness_IntegerResults : tst.clear (useRRR 0 31 31) = true ∧ tst.clear (useRRRd 31 0 31) = true ∧ always tst := by
  unfold always
  decide +kernel

theorem witness_UnaryImmediateAndBitForms : tst.clear (useRR 0 31) = true ∧ tst.clear (useRR 31 31) = true
    ∧ (clz64 0).toNat = 64 ∧ (clz64 1).toNat = 63 ∧ ctzFrom 64 (0 : Word).toNat = 64 ∧ ctzFrom 64 (0x8000000000000000 : Word).toNat = 63 := by
  decide +kernel

theorem witness_LongScalarForms : tst.clear ((useRRR 0 1 2).long 15) = true ∧ tst.clear ((useRRR 3 1 0).long 0) = true ∧ (0 : GReg).val = 0 ∧ (3 : GReg).val ≠ 0 := by decide +kernel

theorem witness_FloatResults : tst.clear (useRRR 1 2 3) = true ∧ tst.clear (useRRRd 1 2 1) = true ∧ tst.clear (useRR 0 0) = true := by decide +kernel

theorem witness_ControlTransfers :
    (tst.clear (useS [0, 0]) = true ∧ tst.reg 0 = tst.reg 0 ∧ tst.admitted (tst.blockTarget 0) ∧ tst.target (tst.blockTarget 1) = .fault cBAD_TARGET (placedHdr + 8))
    ∧ ((tstG [(1, 1)]).clear (useS [0, 1]) = true ∧ (tstG [(1, 1)]).reg 0 ≠ (tstG [(1, 1)]).reg 1 ∧ ((tstG [(1, 1)]).reg 0).toNat < ((tstG [(1, 1)]).reg 1).toNat)
    ∧ (tstG [(1, placedHdr)]).admitted ((tstG [(1, placedHdr)]).reg 1) ∧ (tstG [(1, placedHdr)]).clear (useRR 0 1) = true
    ∧ (tstG [(1, noOwner)]).target ((tstG [(1, noOwner)]).reg 1) = .fault cBAD_OWNER noOwner ∧ tst.clear (useD 31) = true ∧ tst.clear {} = true := by
  refine ⟨⟨?_, rfl, admitted_of _ _ ?_, fault_of _ _ _ ?_⟩, ?_, admitted_of _ _ ?_, ?_, fault_of _ _ _ ?_, ?_⟩ <;> decide +kernel

/-- An instruction answers a next state. -/
def goes : Host.Outcome State Fault Refusal → Bool
  | .next _ => true
  | _ => false

theorem goes_next (o : Host.Outcome State Fault Refusal) (h : goes o = true) : ∃ t, o = .next t := by
  cases o
  · exact ⟨_, rfl⟩
  all_goals cases h

theorem witness_ScalarFrames : tst.clear (useRRR 3 1 2) = true ∧ tst.clear (useRRRd 3 1 2) = true ∧ tst.clear (useRR 0 1) = true
    ∧ tst.clear ((useRRR 3 1 2).long 0) = true ∧ (∃ t, exec (.add 3 1 2) tst = .next t) ∧ (∃ t, exec (.fsub 31 0 0 .rup) tst = .next t)
    ∧ (∃ t, exec (.fdiv 3 1 2 0 .rdn) tst = .next t) ∧ ∃ t, exec (.fsqrt 0 1 0 .rdn) tst = .next t := by
  refine ⟨?_, ?_, ?_, ?_, goes_next _ ?_, goes_next _ ?_, goes_next _ ?_, goes_next _ ?_⟩ <;> decide +kernel

theorem witness_ConstantRegisters : (31 : Nat) ≠ 0 ∧ (7 : Nat) ≠ 6 := by decide

/-- A trap handler at an offset of the scratchpad. -/
def trapState : State :=
  let s := withBlock tst 0x2000 1 1
  s.setCore 0 { s.core 0 with tvec := pad 0x2000 }

/-- A deferred failure of a load of g1. -/
def fail1 : Fail := { dest := some (RegSet.ofG 1), ecc := false, epc := 0, vaddr := 0 }

/-- A thread whose trap waits for its pending bits. -/
def trapWaits (f : Ctx → Ctx) : State := tstCtx (fun c => f { c with trap := some ⟨cBRK, 0, 0, 0, false⟩ })

/-- A deferred failure of a store. -/
def failStore1 : Fail := { fail1 with dest := none, acc := 7 }

theorem witness_TrapEntry :
    (∃ s', trapState.checkTarget 0 (trapState.core 0).tvec (fun k => k == 1) = .ok s' ⟨pad 0x2000, 1, 1, 0⟩) ∧ (cBRK < 256 ∧ 15 < 16)
    ∧ ((trapWaits id).ctx (.ctx 0 0)).trap = some ⟨cBRK, 0, 0, 0, false⟩ ∧ ((trapWaits id).ctx (.ctx 0 0)).st = .bound
    ∧ ((trapWaits id).ctx (.ctx 0 0)).awaited.empty = true ∧ ((trapWaits id).ctx (.ctx 0 0)).fails = []
    ∧ (let s := trapWaits (fun c => { c with fails := [fail1], pend := RegSet.ofG 1 }); (s.ctx (.ctx 0 0)).awaited.empty = true ∧ (s.ctx (.ctx 0 0)).fails = [fail1] ∧ fail1.dest ≠ none)
    ∧ (let s := trapWaits (fun c => { c with fails := [failStore1] }); (s.ctx (.ctx 0 0)).awaited.empty = true ∧ ∀ f ∈ (s.ctx (.ctx 0 0)).fails, f.dest = none)
    ∧ ((trapWaits (fun c => { c with pend := RegSet.ofG 1 })).ctx (.ctx 0 0)).awaited.empty = false := by
  refine ⟨ok_of _ _ ?_, ?_⟩ <;> decide +kernel

/-- Where a return point lies: 0 at a header, 1 inside a block at a word, 2 nowhere. -/
def pointOf : Point → Option (Nat × Block × Nat)
  | .header _ b => some (0, b, 0)
  | .inside _ b i => some (1, b, i)
  | .bad => some (2, {}, 0)
  | .wait _ => none

theorem header_of (p : Point) (b : Block) (h : pointOf p = some (0, b, 0)) : ∃ s, p = .header s b := by
  revert h
  cases p <;> simp [pointOf]

theorem inside_of (p : Point) (b : Block) (i : Nat) (h : pointOf p = some (1, b, i)) : ∃ s, p = .inside s b i := by
  revert h
  cases p <;> simp [pointOf]

theorem bad_of (p : Point) (h : pointOf p = some (2, {}, 0)) : p = .bad := by
  revert h
  cases p <;> simp [pointOf]

/-- A return that waits for its lines. -/
def waitsOf : Point → Bool
  | .wait _ => true
  | _ => false

theorem wait_of (p : Point) (h : waitsOf p = true) : ∃ s, p = .wait s := by
  revert h
  cases p <;> simp [waitsOf]

/-- A thread in supervisor mode whose s.epc is given. -/
def retState (epc : Word) : State := tstCtx (fun c => { c with sup := true, epc := epc })

/-- An address of the first HBM owner, and a lease range there, whose translations no owner holds. -/
def farHdr : Word := 0xFFF0000000000000 + word (32 * 2 ^ 45)
def farLease : Lease := { placedLease with base := farHdr, map := farHdr + 0x80000 }
def retFar : State := (retState farHdr).setCore 0 { (retState farHdr).core 0 with lease := [(0, placedLease), (1, farLease)] }

theorem witness_EretReturns :
    (∀ a, a = placedHdr ∨ a = placedHdr + 8 ∨ a = placedHdr + 12 ∨ a = 0 → (retState a).clear { priv := true, all := true } = true)
    ∧ (∃ s', (retState placedHdr).returnTo = .header s' ⟨placedHdr, 1, 0, 0⟩)
    ∧ (∃ s', (retState (placedHdr + 8)).returnTo = .inside s' ⟨placedHdr, 1, 0, 0⟩ 0)
    ∧ (∃ s', (retState (placedHdr + 12)).returnTo = .inside s' ⟨placedHdr, 1, 0, 0⟩ 1) ∧ (retState 0).returnTo = .bad
    ∧ retFar.clear { priv := true, all := true } = true ∧ ∃ s', retFar.returnTo = .wait s' := by
  refine ⟨?_, header_of _ _ ?_, inside_of _ _ _ ?_, inside_of _ _ _ ?_, bad_of _ ?_, ?_, wait_of _ ?_⟩
  · rintro a (rfl | rfl | rfl | rfl) <;> decide +kernel
  all_goals decide +kernel

theorem witness_BreakAndIllegal : tst.clear {} = true := by decide +kernel

/-- A thread with a window open on g3. -/
def windowOnG3 : State := tstCtx (fun c => { c with windows := [⟨1, RegSet.ofG 3⟩] })

theorem witness_PrivAndHazard :
    (tst.ctx tst.cur).sup = false ∧ tst.dueAt tst.cur (({ priv := true, all := true } : Use).src.union {}) true = none
    ∧ ((0x010 : Nat) ≤ (0x010 : Fin 4096).val ∧ (0x01B : Fin 4096).val ≤ 0x01B)
    ∧ (windowOnG3.ctx windowOnG3.cur).hazard (useRRR 3 0 0) = true ∧ (windowOnG3.ctx windowOnG3.cur).hazard (useRRR 0 3 0) = true
    ∧ windowOnG3.dueAt windowOnG3.cur ((useRRR 3 0 0).src.union (useRRR 3 0 0).dst) false = none
    ∧ ((tstCtx (fun c => { c with sup := true, windows := [⟨127, RegSet.ofV 15⟩] })).ctx tst.cur).hazard
        { src := useV [15, 0] [] [1], dst := RegSet.ofV 1, la := some 0 } = true := by
  decide +kernel

/-- A thread in supervisor mode, of a core of either world. -/
def supState (secure : Bool) : State :=
  let s := tstCtx (fun c => { c with sup := true })
  s.setCore 0 { s.core 0 with secure := secure }

theorem witness_SystemRegisterAccess :
    (supState true).clear { useS [1] with priv := true } = true ∧ ((supState true).core (supState true).cur.core).secure = true
    ∧ (supState false).clear { useS [1] with priv := true } = true ∧ ((supState false).core (supState false).cur.core).secure = false
    ∧ (supState false).clear { useD 1 with priv := sysReadS 0x010, all := false } = true ∧ tst.clear { useD 1 with priv := sysReadS 0, all := true } = true
    ∧ tst.clear { useS [1] with priv := false } = true ∧ tst.clear (useD 1) = true ∧ (0x018 ∈ writableSysRegs ∧ 0x023 ∈ sysRegs ∧ (0x023 : Nat) ≠ 0x018) := by
  decide +kernel

/-- A thread with the addresses of a byte of the lease, of its last byte, and of the byte behind it in g4, g5 and g6, and of an owner that does not exist in g8. -/
def memState : State := tstG [(4, pad 0x4000), (5, pad 0xFFFFF), (6, pad 0x100000), (7, 1), (8, noOwner), (9, pad 0x7FFF0)]

theorem witness_ScalarAccesses :
    memState.clear ((useRR 1 4).long 0) = true ∧ memState.clear (useRR 1 4).waits = true ∧ memState.clear (useS [1, 4]) = true
    ∧ memState.allows permR [(memState.addr 4 63 8, 8)] ∧ memState.allows permW [(memState.addr 5 0 1, 1)]
    ∧ memState.checkAccess 0 permR [(memState.addr 5 0 8, 8)] = some (cLEASE, pad 0x100000)
    ∧ memState.checkAccess 0 permW [(memState.addr 8 0 1, 1)] = some (cBAD_OWNER, noOwner)
    ∧ ((memState.addr 4 0 8).toNat % 8 = 0 ∧ memState.checkFull 0 [(memState.addr 4 0 8, 8)] = none ∧ memState.allows permW [(memState.addr 4 0 8, 8)])
    ∧ (memState.addr 5 0 8).toNat % 8 ≠ 0
    ∧ ((memState.addr 8 0 8).toNat % 8 = 0 ∧ memState.checkFull 0 [(memState.addr 8 0 8, 8)] = some noOwner)
    ∧ ((memState.addr 6 0 8).toNat % 8 = 0 ∧ memState.checkFull 0 [(memState.addr 6 0 8, 8)] = none
        ∧ memState.checkAccess 0 permR [(memState.addr 6 0 8, 8)] = some (cLEASE, pad 0x100000)) := by
  unfold State.allows
  decide +kernel

/-- A thread with k1 empty, k2 with lanes 0 and 63, and the address in g4 of 256 bytes of the lease. -/
def laneState : State := tstCtx (fun c => ((c.setG 4 (pad 0x4000)).setG 6 (pad 0x100000)).setK 2 0x8000000000000001)

theorem witness_VectorAccesses :
    laneState.clear (useVLoad 1 [] [4] 2 0) = true ∧ activeLanes (laneState.kreg 2) ≠ []
    ∧ laneState.allows permR (laneRanges (activeLanes (laneState.kreg 2)) (fun i => laneState.addr 4 0 256 + word (4 * i)))
    ∧ laneState.allows permW (laneRanges (activeLanes (laneState.kreg 0)) (fun i => laneState.addr 4 0 256 + word (4 * i)))
    ∧ activeLanes (laneState.kreg 1) = [] ∧ laneState.clear { src := useV [1] [4] [2] } = true
    ∧ laneState.checkAccess 0 permR (laneRanges (activeLanes (laneState.kreg 2)) (fun i => laneState.addr 6 0 256 + word (4 * i))) = some (cLEASE, pad 0x100000)
    ∧ maskBit 0x8000000000000001 63 = true ∧ laneState.vloc 0 (pad 0x4000 + word 3) = laneState.vloc 0 (pad 0x4003) := by
  unfold State.allows
  decide +kernel

theorem witness_AccessesEnterAndFrame :
    contiguous (pad 0x4000) 0 8 [] ≠ [] ∧ memState.clear ((useRR 1 4).long 15) = true ∧ memState.clear (useS [1, 4]) = true
    ∧ memState.allows permR [(memState.addr 4 0 1, 1)] ∧ memState.allows permW [(memState.addr 4 0 8, 8)]
    ∧ laneState.allows permW (laneRanges (activeLanes (laneState.kreg 1)) (fun i => laneState.addr 4 0 256 + word (4 * i)))
    ∧ (memState.clear { src := gset [4, 2], dst := gset [1], la := some 0 } = true ∧ (memState.reg 4).toNat % 8 = 0 ∧ memState.allows permRW [(memState.reg 4, 8)])
    ∧ (∃ t, exec (.ld 1 4 0 0 true 0) memState = .next t) ∧ (∃ t, exec (.vst 1 4 1 0) laneState = .next t) ∧ ∃ t, exec (.amaxuD 1 4 2 0 .sys) memState = .next t := by
  unfold State.allows
  refine ⟨?_, ?_, ?_, ?_, ?_, ?_, ?_, goes_next _ ?_, goes_next _ ?_, goes_next _ ?_⟩ <;> decide +kernel

theorem witness_Atomics :
    (memState.clear { src := gset [4, 2], dst := gset [1], la := some 0 } = true ∧ (memState.reg 4).toNat % 16 = 0 ∧ memState.allows permRW [(memState.reg 4, 16)])
    ∧ (memState.reg 5).toNat % 4 ≠ 0 ∧ ((memState.reg 6).toNat % 16 = 0 ∧ memState.checkAccess 0 permRW [(memState.reg 6, 16)] = some (cLEASE, pad 0x100000))
    ∧ (0xFFFFFFFF < 2 ^ (8 * 4) ∧ atomicNew 2 4 0xFFFFFFFF 0 0 = some 0 ∧ atomicNew 5 4 0x80000000 0 0 = some 0x80000000 ∧ atomicNew 8 4 0x80000000 0 0 = some 0x80000000) := by
  unfold State.allows
  decide +kernel

/-- A thread with a touched bank group, or a store in its egress, or inside a fence. -/
def fenceState (tb : List (Nat × Nat)) (ents : List Entry) (b : Busy) : State :=
  { (tstCtx (fun c => { (c.setG 4 (pad 0x4000)).setG 8 noOwner with tb := tb, busy := b })) with ents := ents }

/-- An entry of the thread's egress, and a probe of it on its way. -/
def egEntry : Entry := { id := 7, src := .thr (.ctx 0 0), port := 0, tgt := 0, cls := .store, phase := .egress, kind := .store }
def probeEntry : Entry := { egEntry with id := 8, phase := .channel, kind := .probe }

/-- The same in supervisor mode, with some handle-table entries in use. -/
def supFence (handles : SMap Handle) : State :=
  let s := tstCtx (fun c => { c.setG 4 (pad 0x4000) with sup := true })
  s.setCore 0 { s.core 0 with handles := handles }

/-- Every handle-table entry pending. -/
def allPending : SMap Handle := (rangeFrom 0 64).map (fun i => (i, { st := .pending }))

/-- A cluster's invalidation command. -/
def invalCmd : Cmd := { id := 3, core := 0, ctx := 0, slot := 0, gang := 1, instr := .icinvG 1 4, epc := 0, env := {}, stage := .begun, aux := [0] }

theorem witness_FencesAndInvalidation :
    (let s := fenceState [] [] .none; s.clear {} = true ∧ (s.ctx s.cur).busy ≠ .fence ∧ s.egEmpty s.cur = true ∧ (s.ctx s.cur).tb = [] ∧ s.clear (useS [4]) = true
      ∧ s.allows permR [(s.reg 4, 1)] ∧ s.checkAccess 0 permR [(s.reg 8, 1)] = some (cBAD_OWNER, noOwner))
    ∧ (let s := fenceState [] [] .fence; (s.ctx s.cur).busy = .fence ∧ s.egEmpty s.cur = true ∧ s.probing s.cur = false)
    ∧ (let s := fenceState [] [egEntry, probeEntry] .fence; (s.ctx s.cur).busy = .fence ∧ s.egEmpty s.cur = false ∧ s.probing s.cur = true)
    ∧ (let s := fenceState [(0, 0)] [] .none; (s.ctx s.cur).busy ≠ .fence ∧ (s.ctx s.cur).tb ≠ [])
    ∧ (let s := supFence []; s.clear { useRR 1 4 with priv := true } = true ∧ s.allows permR [(s.reg 4, 1)] ∧ (s.ctx s.cur).busy ≠ .fence ∧ s.egEmpty s.cur = true
        ∧ (s.ctx s.cur).tb = [] ∧ (s.core s.cur.core).freeHandle = some 0)
    ∧ (let s := supFence allPending; s.clear { useRR 1 4 with priv := true } = true ∧ (s.core s.cur.core).freeHandle = none)
    ∧ (let s := { tst with cmds := [(3, invalCmd)], sel := { a := 3, b := 0 } }; SMap.find s.cmds s.sel.a = some invalCmd ∧ s.sel.b ∈ invalCmd.aux) := by
  unfold State.allows
  decide +kernel

theorem witness_FlagsAndFullBits :
    (let s := memState; s.clear (useS [4]) = true ∧ s.clear (useS [4]).waits = true ∧ s.clear (useRR 1 4) = true ∧ (s.ctx s.cur).busy ≠ .flag
      ∧ s.clear (useS [7, 4]) = true ∧ (s.reg 0).toNat = 0 ∧ (s.reg 7).toNat ≠ 0
      ∧ s.checkFull 0 [(s.reg 4 &&& ~~~ 15, 16)] = none ∧ s.allows permW [(s.reg 4 &&& ~~~ 15, 16)]
      ∧ s.checkFull 0 [(s.reg 8 &&& ~~~ 15, 16)] = some noOwner
      ∧ s.checkFull 0 [(s.reg 6 &&& ~~~ 15, 16)] = none ∧ s.checkAccess 0 permW [(s.reg 6 &&& ~~~ 15, 16)] = some (cLEASE, pad 0x100000)) := by
  unfold State.allows
  decide +kernel

/-- The address of flag word 0 of core 0, in g4; the next push of channel 3 is 2^31. -/
def flagState : State :=
  let s := tstG [(4, word (flagLoc 0 0)), (5, 0x80000000), (6, word (flagLoc 1 0)), (7, pad 0x4000)]
  s.setCore 0 { s.core 0 with xdone := [(3, 0x80000000)] }

theorem witness_PushWaits :
    (let s := flagState; s.clear (useS [5]) = true ∧ xwaitDone (SMap.get 0 (s.core s.cur.core).xdone 3) ((s.reg 0).toNat % 2 ^ 32) = true
      ∧ ¬ xwaitDone (SMap.get 0 (s.core s.cur.core).xdone 3) ((s.reg 5).toNat % 2 ^ 32) = true ∧ (0xFFFFFFFF < 2 ^ 32)
      ∧ s.clear (useS [1, 4]) = true ∧ s.reg 4 &&& ~~~ 7 ≠ 0 ∧ s.checkFlagAddr 0 (s.reg 4 &&& ~~~ 7) false = none
      ∧ s.reg 0 &&& ~~~ 7 = 0 ∧ s.checkFlagAddr 0 (s.reg 6 &&& ~~~ 7) false = some (cQUEUE, 1)
      ∧ s.checkFlagAddr 0 (s.reg 7 &&& ~~~ 7) false = some (cBAD_OWNER, pad 0x4000)) := by
  decide +kernel

/-- A queue entry of the vector engine, and a result in flight. -/
def flightOf (unit : Nat) (w : Writes) : Flight := { thr := .ctx 0 0, slot := 0, unit := unit, delay := 10, ready := 0, epc := 0, dest := RegSet.ofG 3, writes := w }

/-- Slot 0's vector queue full. -/
def vqFull : State := tstCore (fun k => { k with vq := [flightOf 0 {}, flightOf 1 {}] })

theorem witness_VectorLaneResults :
    tst.clear (useVec (RegSet.ofV 15) [0, 1] [] [0] 15) = true ∧ tst.vroom ∧ vqFull.clear (useVec (RegSet.ofV 15) [0, 1] [] [0] 15) = true ∧ ¬ vqFull.vroom
    ∧ tst.clear (useVec (RegSet.ofV 1) [1, 0, 2] [] [7] 0) = true ∧ maskBit 1 0 = true ∧ maskBit 1 63 = false := by
  unfold State.vroom
  decide +kernel

theorem witness_MaskMoveAndPermutationResults :
    tst.clear (useVec (RegSet.ofK 0) [1, 2] [] [7] 15) = true ∧ tst.clear (useVec (RegSet.ofK 1) [] [] [1, 0] 0) = true
    ∧ tst.clear (useVec (RegSet.ofV 1) [] [4] [] 0) = true ∧ tst.clear (useVec (RegSet.ofG 31) [1] [0] [] 0) = true ∧ tst.vroom ∧ ¬ vqFull.vroom
    ∧ vqFull.clear (useVec (RegSet.ofK 0) [1, 2] [] [7] 15) = true ∧ maskBit 0x8000000000000000 63 = true ∧ popCount 64 0x8000000000000000 ≤ 1 := by
  unfold State.vroom
  decide +kernel

theorem witness_ConversionResults :
    wf (.vcvt 2 4 1 0 0 .rup 12) = false ∧ wf (.vcvt 2 5 1 0 0 .rne 12) = true ∧ wf (.vcvt 1 4 3 0 15 .rup 4) = true ∧ wf (.vcvt 1 2 0 7 0 .rtz 14) = true
    ∧ tst.clear (useVec (useV [2, 3] [] []) [5] [] [0] 0) = true ∧ tst.vroom ∧ ¬ vqFull.vroom := by
  unfold State.vroom
  decide +kernel

theorem witness_ReductionsAndSorts :
    tst.clear (useVec (RegSet.ofV 0) [1] [] [2] 0) = true ∧ tst.clear (useVec (useV [14, 15] [] []) [1] [] [2] 0) = true
    ∧ tst.clear (useVec (useV [0, 1, 2] [] []) [4, 5, 2] [] [0] 0) = true ∧ tst.vroom ∧ ¬ vqFull.vroom
    ∧ vqFull.clear (useVec (useV [0, 1, 2] [] []) [4, 5, 2] [] [0] 0) = true := by
  unfold State.vroom
  decide +kernel

/-- A result due in flight, and a command whose unit accepts. -/
def unitState (unit : Nat) (w : Writes) : State :=
  { tstCore (fun k => { k with vq := [flightOf unit {}], flight := [flightOf unit w] }) with sel := { a := 0, b := unit } }

theorem witness_VectorUnits :
    (let s := unitState 2 {}; let k := s.core s.sel.a;
      ((rangeFrom 1 15).map (fun i => (SMap.get 14 k.vlast s.sel.b + i) % 15)).findSome?
        (fun sl => ((k.vqOf sl).head?).bind (fun f => if f.unit = s.sel.b then some f else none)) = some (flightOf 2 {})
      ∧ s.reached (SMap.get 0 k.vnext s.sel.b) = true ∧ s.turn.contains s.sel.a = true ∧ { s with turn := [] }.turn.contains s.sel.a = false)
    ∧ (∀ w : Writes, w = { g := [(31, 5)] } ∨ w = { v := [(15, 5)] } ∨ w = { k := [(7, 5)] } →
        let s := unitState 0 w;
        (s.core s.sel.a).flight[s.sel.b]? = some (flightOf 0 w) ∧ s.reached (flightOf 0 w).ready = true ∧ s.sel.flag = false ∧ (flightOf 0 w).thr.core = s.sel.a
          ∧ (s.ctx (flightOf 0 w).thr).live = true ∧ (flightOf 0 w).unit ≠ 17) := by
  refine ⟨?_, ?_⟩
  · decide +kernel
  · rintro w (rfl | rfl | rfl) <;> decide +kernel

/-- Core 0 with some tiles held, in single or twin mode. -/
def tileState (holders : SMap (Nat × Bool)) (twin : Bool) : State := tstCore (fun k => { k with holders := holders, twin := twin })

theorem witness_TileClaims :
    (let s := tileState [] false; s.clear {} = true ∧ (s.core s.cur.core).held 7 = false ∧ (s.core s.cur.core).shadowed 7 = false)
    ∧ (let s := tileState [] true; (s.core s.cur.core).held 3 = false ∧ (s.core s.cur.core).shadowed 3 = false ∧ (s.core s.cur.core).shadowed 4 = true
        ∧ (s.core s.cur.core).twin = true)
    ∧ (let s := tileState [(7, (0, false))] false; (s.core s.cur.core).held 7 = true ∧ (s.core s.cur.core).holds s.cur.id 7 = true
        ∧ (∀ m ∈ s.matrixCmds s.cur.core, 7 ∉ tilesOf m) ∧ (s.core s.cur.core).holds s.cur.id 0 = false) := by
  decide +kernel

/-- Core 0 with z1 and y0 held by thread 0, an image in g4, and one behind the lease in g6; matrix commands wait in its slot, and handle-table entries are in use. -/
def matState (mq : List Nat) (handles : SMap Handle) (twin : Bool) : State :=
  let s := memState.setCore 0 { memState.core 0 with holders := [(1, (0, false)), (8, (0, false))], mq := mq, handles := handles, twin := twin }
  { s with cmds := mq.map (fun i => (i, { id := i, core := 0, ctx := 0, slot := 0, gang := 1, instr := .rpass 0, epc := 0, env := {} })) }

/-- The same with the next core of the same gang and world. -/
def ringState : State := (matState [] [] false).setCore 1 { gang := some 1 }

theorem mayTake_of (s : State) (t : Nat) (h : (s.core s.cur.core).shadowed t = false) (h' : SMap.find (s.core s.cur.core).holders t = none) : s.mayTake t :=
  ⟨h, fun x up h'' => by rw [h'] at h''; cases h''⟩

theorem witness_MatrixCommands :
    (let s := matState [] [] false; s.clear (useMat 4 31) = true ∧ s.image permR (s.imageAt 4) (imageBytes 7) ∧ s.image permW (s.imageAt 4) (1024 * drainSize 9)
      ∧ s.mwaiting < 2 ∧ (s.core s.cur.core).freeHandle = some 0 ∧ s.mine 1 ∧ s.mine 8 ∧ ¬ s.mine 0 ∧ s.mayTake 9
      ∧ s.allows permR [(s.imageAt 9, imageBytes 0)] ∧ s.imageFirstOutside 0 (s.imageAt 9) (imageBytes 0) = some (pad 0x80000))
    ∧ (let s := matState [1, 2] [] false; s.clear (useMat 4 0) = true ∧ 2 ≤ s.mwaiting)
    ∧ (let s := matState [1] allPending false; s.mwaiting < 2 ∧ (s.core s.cur.core).freeHandle = none)
    ∧ ((matState [] [] true).core 0).shadowed 9 = true
    ∧ ((ringState.core (ringNext ringState.cur.core)).gang = (ringState.core ringState.cur.core).gang
      ∧ (ringState.core (ringNext ringState.cur.core)).secure = (ringState.core ringState.cur.core).secure)
    ∧ (tst.clear {} = true ∧ tst.mwaiting < 2 ∧ ∀ n ∈ [4, 5, 6, 7, 9], (tst.core 0).held n = false)
    ∧ (let s := tileState [(6, (1, false)), (9, (2, false))] true; s.clear {} = true ∧ [4, 5, 6, 7, 9].find? (s.core s.cur.core).held = some 6) := by
  unfold State.image State.mine State.allows
  refine ⟨⟨?_, ?_, ?_, ?_, ?_, ?_, ?_, ?_, mayTake_of _ _ ?_ ?_, ?_⟩, ?_⟩ <;> decide +kernel

/-- A command of thread 0 of core 0, under number 5. -/
def cmdOf (i : Instr) (st : Stage) : Cmd := { id := 5, core := 0, ctx := 0, slot := 0, gang := 1, instr := i, epc := 0, env := {}, stage := st }

/-- A state with commands, and core 0 and the arguments of the move given. -/
def cmdState (l : List Cmd) (sel : Sel) (f : Core → Core) : State := { tstCore f with cmds := l.map (fun c => (c.id, c)), sel := sel }

theorem witness_MatrixMoves :
    (let s := cmdState [cmdOf (.rpass 0) .queued] {} (fun k => { k with mq := [5] })
     (s.core s.sel.a).stream.length < 8 ∧ SMap.find s.cmds 5 = some (cmdOf (.rpass 0) .queued)
      ∧ ((rangeFrom 1 15).map (fun j => ((s.core s.sel.a).mlast + j) % 15)).findSome? (fun x => ((s.inSlot (s.core s.sel.a).mq s.sel.a x).head?).map (fun c => (x, c))) = some (0, 5))
    ∧ (let s := (cmdState [cmdOf (.rpass 0) .arrived] {} (fun k => { k with stream := [5], bl0Full := true })).setCore (ringNext 0) { bl0Full := true }
       s.rpassAt s.sel.a = some (cmdOf (.rpass 0) .arrived) ∧ (s.core s.sel.a).bl0Full = true ∧ (s.core s.sel.a).bl1Full = false
        ∧ (s.core (ringNext s.sel.a)).bl1Full = false ∧ (s.core (ringNext s.sel.a)).bl0Full = true)
    ∧ (∀ b : Bool, let m := { cmdOf (.mzero 7 0) .finished with rnr := if b then some 0 else none }
        let s := cmdState [m] {} (fun k => { k with stream := [5] })
        s.streamAt s.sel.a s.sel.b = some m ∧ (∀ rh, m.instr ≠ .rpass rh) ∧ (∀ z f ra rh, m.instr ≠ .mdrain z f ra rh) ∧ m.stage = .finished ∧ m.out = 0 ∧ (s.core s.sel.a).needsB m = false ∧ m.failed = b)
    ∧ (({ bl1Full := true } : Core).bl0Full = false) ∧ (tst.core 0).twin = false ∧ ({ twin := true } : Core).twin = true ∧ (3 : Fin 8).val < 4 ∧ 1023 / 1024 ≠ (7 : Fin 8).val
    ∧ (let e := { cmdOf (.mma 2 0 0) .arrived with id := 4 }; let m := cmdOf (.mdrain 2 0 4 0) .finished
       let s := { cmdState [e, m] { b := 1 } (fun k => { k with stream := [4, 5] }) with cmds := [(4, e), (5, m)] }
       (s.core s.sel.a).stream[s.sel.b]? = some 5 ∧ 4 ∈ (s.core s.sel.a).stream.takeWhile (fun i => i != 5) ∧ SMap.find s.cmds 5 = some m ∧ SMap.find s.cmds 4 = some e) := by
  refine ⟨by decide +kernel, by decide +kernel, ?_, by decide +kernel⟩
  intro b
  refine ⟨?_, nofun, nofun, rfl, rfl, rfl, ?_⟩ <;> cases b <;> decide +kernel

/-- A push whose block has been read, with a completion flag address. -/
def pushBlock (flag : Word) : Cmd := { cmdOf (.xpush 31 4 3) .block with rd := 31, block := leBytes 64 (2 ^ 256 * flag.toNat) }

/-- The thread that waits for the rest of its checks. -/
def blockState (c : Cmd) : State := { tstCtx (fun x => { x with busy := .block 5 }) with cmds := [(5, c)], sel := { a := 5 } }

/-- The data of checks that pass, or the fault of checks that fail. -/
def checked : Except (Nat × Word) (List Word) → Option (List Word)
  | .ok d => some d
  | .error _ => none
def refusedBy : Except (Nat × Word) (List Word) → Option (Nat × Word)
  | .ok _ => none
  | .error e => some e

theorem checked_ok (r : Except (Nat × Word) (List Word)) (d : List Word) (h : checked r = some d) : r = .ok d := by
  cases r <;> simp_all [checked]

theorem refusedBy_error (r : Except (Nat × Word) (List Word)) (e : Nat × Word) (h : refusedBy r = some e) : r = .error e := by
  cases r <;> simp_all [refusedBy]

theorem witness_BlockCommands :
    (memState.clear (useRR 31 4) = true ∧ (∀ n, (memState.ctx memState.cur).busy ≠ .block n) ∧ memState.inPad 0 (memState.reg 4 &&& ~~~ 63) 64 = true
      ∧ memState.allows permR [(memState.reg 4 &&& ~~~ 63, 64)] ∧ memState.inPad 0 (memState.reg 6 &&& ~~~ 63) 64 = false)
    ∧ (let s := memState.setCore 0 { memState.core 0 with lease := [] }
       s.inPad 0 (s.reg 4 &&& ~~~ 63) 64 = true ∧ s.checkAccess 0 permR [(s.reg 4 &&& ~~~ 63, 64)] = some (cLEASE, pad 0x4000))
    ∧ memState.clear { useRR 1 4 with dst := (gset [1]).union (useV [14, 15] [] []) } = true
    ∧ (let c := pushBlock (pad 8); let s := blockState c
       SMap.find s.cmds s.sel.a = some c ∧ c.stage = .block ∧ (s.ctx (.ctx c.core c.ctx)).busy = .block c.id ∧ c.failed = false ∧ c.block.length = 64
        ∧ s.blockChecks c = .error (cBAD_OWNER, pad 8))
    ∧ (let c := pushBlock 0; let s := blockState c
       SMap.find s.cmds s.sel.a = some c ∧ c.rd < 32 ∧ s.blockChecks c = .ok [] ∧ s.queueFull c = false ∧ s.behindOlder c = false ∧ (s.core c.core).freeHandle = some 0 ∧ c.channel = some 3) := by
  unfold State.allows
  refine ⟨⟨?_, ?_, ?_⟩, ?_, ?_, ⟨?_, ?_, ?_, ?_, ?_, refusedBy_error _ _ ?_⟩, ⟨?_, ?_, checked_ok _ _ ?_, ?_⟩⟩
  case refine_2 => rw [show (memState.ctx memState.cur).busy = .none by decide +kernel]; nofun
  all_goals decide +kernel

/-- A tray with commands in its queues. -/
def trayState (c : Cmd) (t : Tray) (sel : Sel) : State := (cmdState [c] sel id).setTray 0 t

theorem witness_EngineMoves :
    (let c := cmdOf (.trayGather 0 0 true 0) .queued; let s := cmdState [c] {} (fun k => { k with tq := [5, 6] })
     (s.core s.sel.a).tq = 5 :: [6] ∧ SMap.find s.cmds 5 = some c)
    ∧ (let c := cmdOf (.trayReduce 0 0 true 0) .arrived; let s := trayState c { rdq := [5] } { a := 0, flag := true }
       ((if s.sel.flag then (s.tray s.sel.a).rdq else (s.tray s.sel.a).gsq).head?).bind (SMap.find s.cmds) = some c ∧ c.stage = .arrived)
    ∧ (let c := { cmdOf (.trayScatter 0 0 true 0) .finished with block := leBytes 64 (2 ^ 448 * flagLoc 0 0) }; let s := trayState c { gsq := [5] } { a := 5 }
       SMap.find s.cmds s.sel.a = some c ∧ c.stage = .finished ∧ c.out = 0 ∧ c.failed = false ∧ (c.dw 0x38).toNat / 8 ≠ 0
        ∧ ∀ e ∈ s.ents, e.waitsAt (s.flagAt (c.dw 0x38)) = false)
    ∧ ({ cmdOf (.trayScatter 0 0 true 0) .finished with ecc := some 0 } : Cmd).failed = true
    ∧ (∀ i ∈ [Instr.trayScatter 0 0 true 0, .trayReduce 0 0 true 0, .xpush 0 0 3], let c := cmdOf i .flagging; let s := cmdState [c] { a := 5 } id
       SMap.find s.cmds s.sel.a = some c ∧ c.id = s.sel.a ∧ c.stage = .flagging ∧ c.out = 0)
    ∧ (let c := { cmdOf (.xpush 0 0 3) .finished with block := leBytes 64 (2 ^ 256 * flagLoc 0 0 + 2 ^ (8 * 0x28 + 10)) }
       c.failed = false ∧ (c.dw 0x20).toNat / 8 ≠ 0 ∧ (c.dw 0x28).toNat.testBit 10 = true)
    ∧ (let m := cmdOf (.xpush 0 0 3) .queued; let s := cmdState [m] { b := 3 } (fun k => { k with xq := [5] })
       SMap.find (s.core s.sel.a).channels s.sel.b = none ∧ m.ended = false ∧ (s.inSlot (s.core s.sel.a).xq s.sel.a m.slot).head? = some m.id
        ∧ ((s.core s.sel.a).xq.filterMap (SMap.find s.cmds)).find? (fun m => m.channel == some s.sel.b && m.num == SMap.get 0 (s.core s.sel.a).xdone s.sel.b) = some m)
    ∧ (∀ n, let c := { cmdOf (.xpush 0 0 3) .begun with out := n }; let s := cmdState [c] { a := 5 } id; SMap.find s.cmds s.sel.a = some c ∧ c.out = n)
    ∧ (let c := cmdOf (.xpush 0 0 3) .finished; let s := cmdState [c] { a := 5 } id; SMap.find s.cmds s.sel.a = some c ∧ c.out = 0) := by
  refine ⟨by decide +kernel, by decide +kernel, by decide +kernel, by decide +kernel, by decide +kernel, by decide +kernel, by decide +kernel, fun n => ⟨?_, rfl⟩, by decide +kernel⟩
  simp [cmdState, SMap.find, cmdOf]

/-- A command whose handle is entry 3 with a fault or none, and the state in which it resolves. -/
def resCmd (rnr : Option Word) (g0 : Bool) : Cmd := { cmdOf (.mzero 1 0) .resolving with hidx := 3, rnr := rnr, toG0 := g0 }

/-- Core 0 with handle-table entry 3 of generation 1 in a state, its handle in g4, and a command of it. -/
def handleState (st : HState) (m : Cmd) : State :=
  let s := { tstG [(4, handleWord 0 1 3)] with cmds := [(5, m)], sel := { a := 5 } }
  s.setCore 0 { s.core 0 with handles := [(3, { gen := 1, st := st, code := cBRK })] }

/-- The hypotheses of a handle's resolution. -/
abbrev Resolves (m : Cmd) (s : State) : Prop :=
  SMap.find s.cmds s.sel.a = some m ∧ m.id = s.sel.a ∧ m.stage = .resolving ∧ ((s.core m.core).handle m.hidx).st = .pending ∧ m.searchDst.empty = true

/-- The hypotheses of a HANDLE instruction on a valid handle in g4 in a state of its entry. -/
abbrev NamesHandle (s : State) (st : HState) : Prop :=
  s.clear { src := gset [4], dst := gset [1], bare := true } = true ∧ s.clear { src := gset [4], bare := true } = true
    ∧ (s.core s.cur.core).handleValid s.cur.core (s.reg 4) = true ∧ ((s.core s.cur.core).handle ((s.reg 4).toNat % 64)).st = st

theorem witness_Handles_resolution :
    Resolves (resCmd none false) (handleState .pending (resCmd none false)) ∧ Resolves (resCmd (some 0) false) (handleState .pending (resCmd (some 0) false))
    ∧ Resolves (resCmd (some 0) true) (handleState .pending (resCmd (some 0) true))
    ∧ (resCmd none false).failed = false ∧ (resCmd (some 0) false).failed = true ∧ (resCmd (some 0) false).toG0 = false ∧ (resCmd (some 0) true).toG0 = true := by
  decide +kernel

/-- A matrix command that waits in its slot's queue. -/
def waitingCmd : Cmd := { resCmd none false with stage := .queued }

theorem witness_Handles :
    NamesHandle (handleState .pending waitingCmd) .pending ∧ NamesHandle (handleState .resolved waitingCmd) .resolved ∧ NamesHandle (handleState .faulted waitingCmd) .faulted
    ∧ ((handleState .pending waitingCmd).core 0).handleValid 0 ((handleState .pending waitingCmd).reg 0) = false
    ∧ waitingCmd.cancellable = true ∧ waitingCmd.channel = none
    ∧ ((handleState .pending waitingCmd).cmds.map Prod.snd).find? (fun m => m.core == 0 && m.hidx == ((handleState .pending waitingCmd).reg 4).toNat % 64
        && m.stage != .block && !m.ended) = some waitingCmd := by
  decide +kernel

/-- Core 0 with mailboxes and kettle queues, for the thread's own instructions; the lease's last byte in g5. -/
def kettleState (f : Core → Core) : State := { memState.setCore 0 (f (memState.core 0)) with pos := 15 }

theorem witness_MailboxesAndKettleQueues :
    memState.pos ≠ 15 ∧ (kettleState id).pos = 15 ∧ (memState.clear (useS [4]) = true ∧ memState.clear (useD 1) = true ∧ (memState.here.box 3).send = none ∧ (memState.here.box 3).recv = none)
    ∧ (let s := kettleState (fun k => { k with mb := [(2, { send := some 1 }), (3, { send := some 2, recv := some 7 })] })
       (s.here.box 2).send ≠ none ∧ (s.here.box 3).recv = some 7 ∧ (s.here.box 2).recv = none ∧ (s.here.box (5 - 2)).ready = false)
    ∧ (let s := kettleState (fun k => { k with mb := [(0, { send := some 1 }), (1, { send := some 2 })], mbNextDown := 1, brew := { st := .bound } })
       (s.here.box 1).send = some 2 ∧ (s.here.box 1).recv = none ∧ s.here.mbNextDown = 1 ∧ s.here.brew.st ≠ .free ∧ s.here.draw.st = .free)
    ∧ (memState.here.drawq.length < 32 ∧ memState.allows permR [(memState.reg 5, 2 ^ 0)] ∧ memState.allows permW [(memState.reg 4, 2 ^ 3)])
    ∧ (let s := kettleState (fun k => { k with drawq := (rangeFrom 0 32).map (fun i => ⟨i, false, none, 0⟩), pourq := (rangeFrom 0 32).map word })
       32 ≤ s.here.drawq.length ∧ 32 ≤ s.here.pourq.length ∧ s.clear (useS [4]) = true ∧ s.here.pourq = 0 :: (rangeFrom 1 31).map word)
    ∧ (let s := kettleState (fun k => { k with drawq := [⟨1, true, none, 9⟩] }); s.here.drawq = [⟨1, true, none, 9⟩])
    ∧ (let s := kettleState (fun k => { k with drawq := [⟨1, true, some (true, 64), 9⟩] }); s.here.drawq = [⟨1, true, some (true, 64), 9⟩])
    ∧ memState.here.pourq.length < 32 ∧ memState.here.pourq = [] := by
  unfold State.allows
  decide +kernel

/-- The reply of a draw load, and the access it answers. -/
def drawReply : Entry := { egEntry with src := .thr (.draw 0), phase := .reply, kind := .load, acc := 9, bytes := [⟨0, 0, 0, 5, true⟩] }
def drawAccess : Access := { id := 9, dest := .draw 1 1, load := true, acq := false, epc := 0, left := 1, data := [], ecc := none, rnr := none }

theorem witness_MailboxesAndKettleQueues_reply :
    (let s := { tstCore (fun k => { k with draw := { iq := [drawAccess] }, drawq := [⟨1, false, none, 0⟩] }) with ents := [drawReply], sel := { a := 7 } }
     s.entry s.sel.a = some drawReply ∧ (s.ctx (.draw 0)).iq.find? (fun x => x.id == drawReply.acc) = some drawAccess
      ∧ drawReply.bytes.map (fun b => b.idx) = rangeFrom 0 1) := by
  decide +kernel

theorem witness_ThreadRegisters :
    (memState.clear { src := gset [4, 7], dst := gset [1] } = true ∧ (ownerOf (memState.reg 4) ≤ 31 ∧ (memState.reg 4).bits 29 16 = 0))
    ∧ ¬ (ownerOf (memState.reg 8) ≤ 31 ∧ (memState.reg 8).bits 29 16 = 0)
    ∧ (memState.clear (useD 1) = true ∧ memState.clear (useRR 1 7) = true ∧ (memState.reg 0).toNat < memState.here.blendSize ∧ memState.here.blendSize ≤ (memState.reg 7).toNat)
    ∧ ((2 : Fin 4).val ≠ 3 ∧ memState.clear (useS [4]) = true ∧ memState.here.gang = some 1 ∧ SMap.find memState.gangs 1 = some placedGang) := by
  decide +kernel

/-- A message's destination word in g1: core 0, slot 0. g2 names a slot that does not exist, g3 a core outside the gang, g7 a core of the other world; core 0 has messages out. -/
def sendState (sendq acks : Nat) : State :=
  let s := tstG [(1, 0), (2, word (15 * 2 ^ 16)), (3, 5), (7, 1)]
  (s.setCore 0 { s.core 0 with sendq := sendq, acks := acks }).setCore 1 { gang := some 1, secure := true }

/-- A block of KIND 2 at 0x2000, one that no sachet can land in, and the address of a byte of core 0 in g4. -/
def migrState : State :=
  let s := withBlock (withBlock tst 0x2000 1 2) 0x3000 1 2
  let s := s.writeLocs (mkLoc ownModule 0 0x3000) (leBytes 8 (encodeHeader { len := 1, liveg := 2 ^ 10, livev := 0, livek := 0, pf := 0, kind := 2 }).toNat)
  s.setCtx s.cur ((((s.ctx s.cur).setG 4 (pad 0x4000)).setG 1 (pad 0x2000)).setG 2 (pad 0x3000))

/-- The header that a look finds. -/
def headerOf : HdrLook → Option Header
  | .ok _ h => some h
  | _ => none

theorem look_ok (r : HdrLook) (h : Header) (e : headerOf r = some h) : ∃ s, r = .ok s h := by
  revert e
  cases r <;> simp [headerOf]

/-- A header of KIND 2 for a sachet, with live registers. -/
def sachetHeader (liveg : Nat) : Header := { len := 1, liveg := liveg, livev := 0, livek := 0, pf := 0, kind := 2 }

theorem witness_MessagesSentAndReceived_send :
    (let s := sendState 15 15; s.clear (useS (1 :: groupOf 28)) = true ∧ (s.reg 1).bits 16 4 ≠ 15 ∧ s.peerCore 0 ((s.reg 1).toNat % 2 ^ 14) = none
      ∧ s.here.sendq < 16 ∧ s.here.acks < 16 ∧ (s.reg 2).bits 16 4 = 15 ∧ (s.core ((s.reg 3).toNat % 2 ^ 14)).gang ≠ s.here.gang
      ∧ (s.core ((s.reg 7).toNat % 2 ^ 14)).gang = s.here.gang ∧ (s.core ((s.reg 7).toNat % 2 ^ 14)).secure ≠ s.here.secure ∧ s.clear (useS [1, 2, 3]) = true)
    ∧ (let s := sendState 16 16; s.clear (useS (1 :: groupOf 0)) = true ∧ 16 ≤ s.here.sendq ∧ 16 ≤ s.here.acks) := by
  decide +kernel

theorem witness_MessagesSentAndReceived_migr :
    migrState.clear (useS [1, 4]).waits = true ∧ migrState.ownerCore (migrState.reg 4) = some 0 ∧ migrState.allows permR [(migrState.reg 4, 1)] ∧ migrState.peerCore 0 0 = none
    ∧ (∃ s', migrState.lookHeader 0 (migrState.reg 1) = .ok s' (sachetHeader 0)) ∧ landable (sachetHeader 0) = true ∧ (migrState.ctx migrState.cur).sup = false
    ∧ (∃ s', migrState.lookHeader 0 (migrState.reg 2) = .ok s' (sachetHeader (2 ^ 10))) ∧ landable (sachetHeader (2 ^ 10)) = false
    ∧ (∃ s', migrState.lookHeader 0 placedHdr = .ok s' { sachetHeader 0 with kind := 0 }) ∧ migrState.ownerCore noOwner = none := by
  unfold State.allows
  refine ⟨?_, ?_, ?_, ?_, look_ok _ _ ?_, ?_, ?_, look_ok _ _ ?_, ?_, look_ok _ _ ?_, ?_⟩ <;> decide +kernel

/-- A message for thread 0, behind one for another; and an orphan. -/
def msg0 : Msg := { ctx := 0, w0 := 1, w1 := 2, payload := [3, 4, 5, 6] }
def recvState : State := tstCore (fun k => { k with rq := [{ msg0 with ctx := 1 }, msg0], orphans := [msg0] })

theorem witness_MessagesSentAndReceived_recv :
    wf (.recv 8 9 false) = true ∧ msg0.payload = [3, 4, 5, 6] ∧ recvState.clear { dst := gset (8 :: groupOf 9) } = true
    ∧ recvState.here.rq = [{ msg0 with ctx := 1 }] ++ msg0 :: [] ∧ msg0.ctx = recvState.cur.id ∧ (∀ x ∈ [{ msg0 with ctx := 1 }], x.ctx ≠ recvState.cur.id)
    ∧ recvState.here.orphans = msg0 :: [] ∧ (∀ x ∈ tst.here.rq, x.ctx ≠ tst.cur.id) ∧ tst.here.orphans = [] ∧ tst.clear { dst := gset (8 :: groupOf 9) } = true := by
  decide +kernel

/-- A thread inside a barrier, with its gang's state. -/
def barState (b : Busy) (st : CtxState) (torn : Option Nat) : State :=
  let s := tstCtx (fun c => { c with busy := b, st := st })
  { s.setGang 1 { placedGang with torn := torn } with sel := { a := 0, b := 0 } }

/-- A READY context beside the running one, of priority 3. -/
def twoThreads : State := tstCore (fun k => k.setCtx 1 { st := .ready, prio := 3 })

theorem witness_BarriersExitYield :
    (tst.clear { all := true } = true ∧ (tst.gangOf tst.cur.core).bind Gang.torn = none ∧ tst.cur = .ctx 0 0 ∧ (tst.ctx tst.cur).busy ≠ .fence
      ∧ tst.egEmpty tst.cur = true ∧ (tst.ctx tst.cur).tb = [] ∧ tst.clear {} = true ∧ (tst.core 0).readyAbove (tst.ctx tst.cur).prio = false)
    ∧ ((barState .none .bound (some 5)).gangOf 0).bind Gang.torn = some 5
    ∧ ((twoThreads.core 0).readyAbove (twoThreads.ctx twoThreads.cur).prio = true ∧ (twoThreads.ctx twoThreads.cur).pend.empty = true)
    ∧ (∀ b ∈ [BarKind.barc, .barg, .barb], let s := barState (.arriving b) .bound none
        (s.ctx (.ctx 0 0)).busy = .arriving b ∧ (s.ctx (.ctx 0 0)).stopped = false ∧ s.egEmpty (.ctx 0 0) = true ∧ s.probing (.ctx 0 0) = false
        ∧ (s.core s.sel.a).gang = some 1 ∧ SMap.find s.gangs 1 = some { placedGang with torn := none })
    ∧ ((barState (.released .barg) .waiting none).ctx (.ctx 0 0)).st = .waiting ∧ ((barState (.released .barg) .bound none).ctx (.ctx 0 0)).busy = .released .barg := by
  decide +kernel

/-! ### The ordering machine -/

/-- A state with entries, and entry 7 as the one that moves; core 0's thread has the accesses given. -/
def entState (l : List Entry) (iq : List Access) (sel : Sel) : State := { tstCtx (fun c => { c with iq := iq }) with ents := l, sel := sel, time := 5 }

/-- A byte of the first granule of core 0's scratchpad, and an access that awaits replies. -/
def byteAt (off idx : Nat) (done : Bool) : EByte := { va := pad off, loc := mkLoc ownModule 0 off, idx := idx, val := 9, done := done }
def waitAccess (acq : Bool) (d : Dest) : Access := { id := 3, dest := d, load := true, acq := acq, epc := 0, left := 1, data := [], ecc := none, rnr := none }

/-- A store of one byte, on its way. -/
def storeEntry (id : Nat) (p : Phase) : Entry := { egEntry with id := id, phase := p, bytes := [byteAt 0 0 false] }

theorem witness_DepartureAndChannelOrder :
    (let s := entState [storeEntry 7 .egress] [] { a := 7 }; s.entry 7 = some (storeEntry 7 .egress) ∧ s.mayDepart (storeEntry 7 .egress) = true)
    ∧ (let s := entState [storeEntry 6 .egress, storeEntry 7 .egress] [] { a := 7 };
       ∃ x ∈ olderThan 7 s.ents, x.inEgress (.thr (.ctx 0 0)) = true ∧ (storeEntry 7 .egress).meets x = true)
    ∧ (let e := { storeEntry 7 .egress with rel := 1 }; let s := entState [egEntry, e] [] { a := 7 }; e.rel = 1 ∧ e.cls ≠ .message ∧ s.ents ≠ [])
    ∧ (let e := storeEntry 7 .egress; let x := { storeEntry 4 .channel with kind := .load, acq := true, acc := 3 }; let s := entState [x, e] [] { a := 7 };
       e.cls ≠ .message ∧ ∃ x ∈ s.ents, x.acq = true ∧ x.src = .thr (.ctx 0 0) ∧ x.acc < e.id ∧ x.acc ≠ e.acc ∧ ¬ (e.kind = .probe ∧ e.id ∈ x.after))
    ∧ (∀ p ∈ [({ storeEntry 7 .egress with cls := .message, kind := .msg }, 0), ({ storeEntry 7 .egress with kind := .sachet }, 1)],
        let s := (entState [p.1] [] { a := 7 }).setCore 0 { tst.core 0 with sendq := 1 }; s.entry 7 = some p.1 ∧ s.mayDepart p.1 = true)
    ∧ (let e := { storeEntry 7 .egress with after := [8] }; let s := entState [e, probeEntry] [] { a := 7 }; s.entry 7 = some e ∧ s.echoed e = false)
    ∧ (let s := entState [storeEntry 6 .channel, storeEntry 7 .channel] [] { a := 7 };
       ∃ x ∈ olderThan 7 s.ents, sameChannel x (storeEntry 7 .channel) = true ∧ ∃ p ∈ x.pages, p ∈ (storeEntry 7 .channel).pages)
    ∧ (let m := { storeEntry 7 .channel with cls := .message }; let s := entState [{ m with id := 6 }, m] [] { a := 7 };
       ∃ x ∈ olderThan 7 s.ents, sameChannel x m = true) := by
  decide +kernel

/-- A load of an HBM byte with so many tries behind it, of at most 1. -/
def hbmLoad (tries : Nat) : Entry :=
  { egEntry with phase := .channel, kind := .load, acc := 3, bytes := [{ byteAt 0 0 false with loc := mkLoc ownModule 32 0 }], env := { rnrlimit := 1 }, tries := tries }

/-- An entry at flag word 0 of core 0 that performs whole. -/
def flagEntry (k : EKind) : Entry := { egEntry with phase := .ingress, kind := k, bytes := [{ va := 0, loc := flagLoc 0 0, idx := 0 }] }

/-- The refusal of an entry, on its way back. -/
def refusalEntry (e : Entry) : Entry := { e with id := 9, kind := .refusal e.id, cls := .reply, phase := .reply, bytes := [] }

/-- An entry whose bytes lie in two bank groups of one owner. -/
def twoBanks : Entry := { storeEntry 7 .channel with bytes := [byteAt 0 0 false, byteAt 0x80000 1 false] }

theorem witness_EntriesArrive :
    (let e := storeEntry 7 .channel; let s := entState [e] [] { a := 7 }; s.entry 7 = some e ∧ s.mayArrive e = true ∧ e.packet = false ∧ s.linkHeld e = false
      ∧ s.detachedPeer e = false ∧ s.flagClash e = false ∧ (∀ b ∈ e.bytes, s.xlat e.env b.loc = .ok b.loc)
      ∧ ∀ b ∈ translated e.bytes (s.xlats e), ∀ b' ∈ translated e.bytes (s.xlats e), bankOf b.loc = bankOf b'.loc)
    ∧ (let e := twoBanks; let s := entState [e] [] { a := 7 }; s.mayArrive e = true ∧ s.detachedPeer e = false ∧ s.flagClash e = false
      ∧ (∀ b ∈ e.bytes, s.xlat e.env b.loc = .ok b.loc)
      ∧ ∃ b ∈ translated e.bytes (s.xlats e), ∃ b' ∈ translated e.bytes (s.xlats e), bankOf b.loc ≠ bankOf b'.loc)
    ∧ (let e := hbmLoad 0; let s := entState [e] [] { a := 7 }; s.entry 7 = some e ∧ s.mayArrive e = true ∧ e.packet = false ∧ s.linkHeld e = false
      ∧ ∃ b ∈ e.bytes, s.xlat e.env b.loc = .miss 0)
    ∧ (let e := { flagEntry .flagSet with phase := .channel, src := .peer 1, env := { secure := true } }; let s := entState [e] [] { a := 7 };
       s.mayArrive e = true ∧ s.flagClash e = true)
    ∧ (let e := hbmLoad 0; let r := refusalEntry e; let s := entState [{ e with refused := true }, r] [] { a := 9 }; s.entry 9 = some r ∧ r.phase = .reply
      ∧ s.isDraw r = false ∧ s.entry 7 = some { e with refused := true } ∧ r.id ≠ e.id ∧ e.tries < e.env.tries)
    ∧ (let e := hbmLoad 1; let s := entState [e, refusalEntry e] [waitAccess false (.g 31 8 true)] { a := 9 }; e.env.tries ≤ e.tries ∧ e.src = .thr (.ctx 0 0)
      ∧ e.kind = .load ∧ (s.ctx (.ctx 0 0)).iq.find? (fun x => x.id == e.acc) = some (waitAccess false (.g 31 8 true)))
    ∧ (let e := { hbmLoad 1 with kind := .store }; let s := entState [e, refusalEntry e] [] { a := 9 }; e.env.tries ≤ e.tries ∧ e.src = .thr (.ctx 0 0)
      ∧ (s.ctx (.ctx 0 0)).live = true ∧ (s.ctx (.ctx 0 0)).iq.any (fun a => a.id == e.acc && a.load) = false
      ∧ (s.ctx (.ctx 0 0)).fails.any (fun f => f.acc == e.acc) = false)
    ∧ (locOwner (byteAt 0 0 false).loc ≤ 66)
    ∧ (let e := { storeEntry 7 .channel with due := 5 }; let s := entState [e] [] { a := 7 }; s.entry 7 = some e ∧ e.refused = false ∧ 0 < e.due ∧ e.due ≤ s.time.toNat)
    ∧ (let e := { storeEntry 7 .channel with due := 6 }; let s := entState [e] [] { a := 7 }; s.entry 7 = some e ∧ s.time.toNat < e.due) := by
  decide +kernel

theorem witness_BytesPerform :
    (∀ k ∈ [EKind.store, .stf, .feclr, .load], let e := { storeEntry 7 .ingress with kind := k }; let s := entState [e] [] { a := 7 };
      s.entry 7 = some e ∧ e.bytes[s.sel.b]? = some (byteAt 0 0 false) ∧ s.byteFree e (byteAt 0 0 false) = true)
    ∧ (hasFull (byteAt 0 0 false).loc = true ∧ ∀ x ∈ (storeEntry 7 .ingress).bytes, x.done = true ∨ (x.idx = (byteAt 0 0 false).idx ∧ x.loc = (byteAt 0 0 false).loc))
    ∧ (let e := { storeEntry 7 .ingress with kind := .stf, bytes := [byteAt 0 0 false, byteAt 15 1 false] }
       ∃ x ∈ e.bytes, x.loc / 16 = (byteAt 0 0 false).loc / 16 ∧ x.done = false ∧ x.loc ≠ (byteAt 0 0 false).loc) := by
  decide +kernel

/-- The same with the flag word's value given. -/
def flagEntState (k : EKind) (w : Word) : State := { entState [flagEntry k] [] { a := 7 } with flags := [(flagLoc 0 0 / 8, w)] }

/-- What the clauses of whole performances have in common. -/
abbrev PerformsWhole (s : State) (e : Entry) : Prop := s.entry s.sel.a = some e ∧ e.phase = .ingress ∧ ∀ b ∈ e.bytes, s.byteFree e b = true

theorem witness_WholePerforms_memory :
    (let e := { storeEntry 7 .ingress with kind := .atomic 10 1 5 0 }; let s := entState [e] [] { a := 7 };
      PerformsWhole s e ∧ e.bytes = byteAt 0 0 false :: [] ∧ s.eccOf e e.bytes = none ∧ atomicNew 10 1 (s.readNat (byteAt 0 0 false).loc 1) 5 0 = some 5)
    ∧ (let e := { storeEntry 7 .ingress with kind := .lds true }; let s := { entState [e] [] { a := 7 } with full := [((byteAt 0 0 false).loc / 16, true)] };
       PerformsWhole s e ∧ s.allFull e = true ∧ s.olderWaiter e 0 = false)
    ∧ (let e := { storeEntry 7 .ingress with kind := .lds false }; let s := entState [e] [] { a := 7 }; PerformsWhole s e ∧ s.allFull e = false) := by
  decide +kernel

theorem witness_WholePerforms_flags :
    (PerformsWhole (flagEntState .fset 0) (flagEntry .fset) ∧ ∀ x ∈ (flagEntState .fset 0).ents, x.waitsAt (flagEntry .fset).flagLoc = false)
    ∧ (PerformsWhole (flagEntState .flagSet 0) (flagEntry .flagSet) ∧ ∀ x ∈ (flagEntState .flagSet 0).ents, x.waitsAt (flagEntry .flagSet).flagLoc = false)
    ∧ (PerformsWhole (flagEntState .landing 1) (flagEntry .landing) ∧ ((flagEntState .landing 1).flag (flagLoc 0 0)).toNat / 2 ^ 32 % 2 ^ 20 = 0)
    ∧ PerformsWhole (flagEntState (.fwait true) 1) (flagEntry (.fwait true)) ∧ ((flagEntState (.fwait true) 1).flag (flagLoc 0 0)).toNat % 2 = 1
    ∧ ((flagEntState (.fwait false) 0).flag (flagLoc 0 0)).toNat % 2 = 0
    ∧ ((flagEntState (.expect 1) (word (2 ^ 32 * (2 ^ 20 - 2)))).flag (flagLoc 0 0)).toNat / 2 ^ 32 % 2 ^ 20 + 1 < 2 ^ 20
    ∧ 2 ^ 20 ≤ ((flagEntState (.expect 1) (word (2 ^ 32 * (2 ^ 20 - 1)))).flag (flagLoc 0 0)).toNat / 2 ^ 32 % 2 ^ 20 + 1
    ∧ ((flagEntState .landing (word (2 ^ 32))).flag (flagLoc 0 0)).toNat / 2 ^ 32 % 2 ^ 20 = 1
    ∧ 1 < ((flagEntState .landing (word (2 ^ 33))).flag (flagLoc 0 0)).toNat / 2 ^ 32 % 2 ^ 20 := by
  decide +kernel

/-- A waiting LDS; a probe at its bank group; a load's reply of one byte. -/
def ldsWaiter (due : Nat) : Entry := { storeEntry 7 .waitlist with kind := .lds true, due := due }
def probeThere : Entry := { probeEntry with phase := .ingress }
def loadReply : Entry := { egEntry with phase := .reply, kind := .load, acc := 3, bytes := [byteAt 0 0 true] }

theorem witness_AnswersReturn :
    (let s := { entState [ldsWaiter 4] [] { a := 7 } with full := [((byteAt 0 0 false).loc / 16, true)] };
      s.entry 7 = some (ldsWaiter 4) ∧ s.allFull (ldsWaiter 4) = true ∧ s.olderWaiter (ldsWaiter 4) 4 = false)
    ∧ (let s := entState [{ ldsWaiter 3 with id := 6 }, ldsWaiter 4] [] { a := 7 }; s.entry 7 = some (ldsWaiter 4) ∧ s.allFull (ldsWaiter 4) = false
        ∧ s.olderWaiter (ldsWaiter 4) 4 = true)
    ∧ (let s := entState [probeThere] [] { a := 8 }; s.entry 8 = some probeThere ∧ probeThere.kind = .probe ∧ s.echoHeld probeThere = false)
    ∧ (let s := entState [storeEntry 7 .ingress, probeThere] [] { a := 8 }; s.echoHeld probeThere = true)
    ∧ (let s := entState [loadReply] [waitAccess false (.g 31 1 true)] { a := 7 }; s.entry 7 = some loadReply ∧ s.isDraw loadReply = false
        ∧ (s.ctx (.ctx 0 0)).iq.find? (fun x => x.id == loadReply.acc) = some (waitAccess false (.g 31 1 true)) ∧ loadReply.bytes.map (fun b => b.idx) = rangeFrom 0 1) := by
  decide +kernel

/-! ### Scheduling, launches and gangs -/

/-- Core 0 with its slot 0 free, and contexts of given states beside thread 0. -/
def schedState (l : SMap Ctx) (sel : Sel) (f : Core → Core) : State :=
  { tstCore (fun k => f { k with slots := [], ctxs := l }) with sel := sel, ents := [] }

/-- A READY context, and one bound and blocked on a message. -/
def readyCtx (prio : Nat) : Ctx := { st := .ready, prio := prio, stamp := 3 }
def blockedCtx : Ctx := { st := .bound, wait := waitWord 1 0 0 0 0 0, name := some ⟨0, 0⟩ }

/-- A start message for core 0 of a gang, with two hops left. -/
def startEntry (gang : Nat) : Entry :=
  { id := 7, src := .none, port := 0, tgt := 0, cls := .message, phase := .channel, kind := .start (pad 0x1000) 9 5 2, gang := gang }

/-- A spilled context whose area holds its image. -/
def spilledCtx : Ctx := { st := .ready, prio := 2, spilled := some 0 }

theorem witness_SchedulerMoves :
    (let s := schedState [(1, readyCtx 3), (2, readyCtx 3)] {} id
     (s.core 0).gang ≠ none ∧ (SMap.get ({} : Slot) (s.core 0).slots 0).ctx = none
      ∧ pickReady ((s.core 0).ctxs.filter (fun p => p.2.st == CtxState.ready)) = some (1, readyCtx 3) ∧ s.ctx (.ctx 0 1) = readyCtx 3 ∧ (readyCtx 3).spilled = none)
    ∧ (let s := schedState [(1, readyCtx 3)] {} (fun k => { k with slots := (rangeFrom 0 14).map (fun i => (i, ⟨some 9, 0, none⟩)) })
       (14 < 15 ∧ (SMap.get ({} : Slot) (s.core 0).slots 14).ctx = none ∧ ∀ m, m < 14 → (SMap.get ({} : Slot) (s.core 0).slots m).ctx ≠ none))
    ∧ (let s := { schedState [] { a := 7 } id with ents := [startEntry 1] }
       s.mayArrive (startEntry 1) = true ∧ (s.core 0).gang = some (startEntry 1).gang
        ∧ ((s.core 0).ctxs.filter (fun p => p.2.st != CtxState.exited && p.2.spilled.isNone)).length < storeRoom)
    ∧ (let s := { schedState [] { a := 7 } id with ents := [startEntry 2] }; s.mayArrive (startEntry 2) = true ∧ (s.core 0).gang ≠ some (startEntry 2).gang)
    ∧ (let s := schedState [(0, blockedCtx), (1, readyCtx 0)] {} (fun k => { k with slots := [(0, ⟨some 0, 0, some 0⟩)] })
       s.boundIn 0 0 = some (.ctx 0 0) ∧ (s.ctx (.ctx 0 0)).stopped = false ∧ (s.ctx (.ctx 0 0)).trap = none ∧ s.pos = s.sel.b ∧ s.turn.contains s.sel.a = true
        ∧ s.stillBlocked (.ctx 0 0) = true ∧ (s.ctx (.ctx 0 0)).pend.empty = true ∧ (s.core 0).readyAbove 0 = true)
    ∧ (let s := schedState [(1, { readyCtx 125 with aged := 2 ^ 20 }), (2, { readyCtx 126 with aged := 2 ^ 20 }), (3, { readyCtx 0 with aged := 2 ^ 20 - 1 })] {} id
       2 ^ 20 ≤ (s.ctx (.ctx 0 1)).aged ∧ (s.ctx (.ctx 0 1)).prio < 126 ∧ ¬ (s.ctx (.ctx 0 2)).prio < 126 ∧ (s.ctx (.ctx 0 3)).aged < 2 ^ 20) := by
  decide +kernel

/-- The first entry of the first cluster's run-queue area is plain memory. -/
theorem area_data (i : Nat) (h : i < 4608) : ¬ (locOwner (areaLoc 0 0 + i) < 32 ∧ ctlBase ≤ locOff (areaLoc 0 0 + i)) := by
  have e : areaLoc 0 0 = 0xFFF0000011B80000 := by decide +kernel
  rw [e, locOff, ctlBase]
  omega

/-- The spilled context on core 0, its image in the area. -/
def spillState : State := (schedState [(1, spilledCtx)] { b := 1 } id).writeLocs (areaLoc 0 0) spilledCtx.image

theorem witness_SchedulerMoves_spill :
    pickReady ((spillState.core 0).ctxs.filter (fun p => p.2.st == CtxState.ready)) = some (1, spilledCtx)
    ∧ (spillState.ctx (.ctx 0 1)).spilled = some 0 ∧ (spillState.ctx (.ctx 0 1)).st = .ready ∧ (spillState.core 0).stored < storeRoom
    ∧ (spillState.core 0).topSpilled 1 (spillState.ctx (.ctx 0 1)) = true
    ∧ (let b := spillState.readLocs (areaLoc (clusterOf 0) 0) 4608; b = { spillState.ctx (.ctx 0 1) with aged := (imgDw b 0x140).bits 20 20 }.image) := by
  have hr : spillState.readLocs (areaLoc (clusterOf 0) 0) 4608 = spilledCtx.image := by
    have := State.readLocs_writeLocs (schedState [(1, spilledCtx)] { b := 1 } id) (areaLoc 0 0) spilledCtx.image
      (fun i h => area_data i (by rwa [Ctx.length_image] at h))
    rwa [Ctx.length_image] at this
  refine ⟨by decide +kernel, by decide +kernel, by decide +kernel, by decide +kernel, by decide +kernel, ?_⟩
  rw [hr]
  intro b
  rw [show (imgDw b 0x140).bits 20 20 = spilledCtx.aged by decide +kernel, show spillState.ctx (.ctx 0 1) = spilledCtx by decide +kernel]

/-- A message, a sachet, and core 0 as their target. -/
def msgEntry (w0 w1 : Word) (gang : Nat) : Entry := { startEntry gang with kind := .msg, pay := [w0, w1, 0, 0, 0, 0] }
def sachetEntry : Entry :=
  { startEntry 1 with src := .thr (.ctx 5 2), cls := .store, kind := .sachet, pay := List.replicate 12 0 ++ [0] }

/-- Thread 0 in slot 0 with incarnation 0, and a full receive queue or an empty one. -/
def inbox (n : Nat) : State :=
  { tstCore (fun k => { k with rq := List.replicate n msg0 }) with sel := { a := 7 } }

theorem witness_MessagesArrive_messages :
    (let e := msgEntry (word (2 ^ 44)) 0 1; let s := { inbox 31 with ents := [e] }
     s.entry 7 = some e ∧ s.mayArrive e = true ∧ (s.core 0).gang = some e.gang ∧ s.gangLeaving 0 = false ∧ s.gangHere 0 = true ∧ (s.core 0).named 0 0 = some 0
      ∧ (word (2 ^ 44)).bits 45 2 = 0 ∧ (word (2 ^ 44)).bits 44 1 = 1 ∧ (s.core 0).dataMessages < 32)
    ∧ (let e := msgEntry 0 (word (2 ^ 16)) 1; let s := { inbox 0 with ents := [e] }
       s.entry 7 = some e ∧ (s.core 0).named ((word (2 ^ 16)).bits 16 4) ((word (2 ^ 16)).bits 24 8) = none ∧ (s.core 0).orphans.length < 16)
    ∧ (let e := { msgEntry 0 0 1 with env := { rnrlimit := 1 } }; let s := { inbox 32 with ents := [e] }
       s.mayArrive e = true ∧ 32 ≤ (s.core 0).dataMessages ∧ e.tries < e.env.tries)
    ∧ (let e := msgEntry 0 0 9; let s := { inbox 0 with ents := [e] }; (s.core 0).gang ≠ some e.gang ∧ s.gangAway e.gang = false)
    ∧ (let e := msgEntry 0 0 9; let s := { (inbox 0).setGang 9 { placedGang with st := .saved } with ents := [e] }; (s.core 0).gang ≠ some e.gang ∧ s.gangAway e.gang = true)
    ∧ (let e := msgEntry 0 0 1; let s := { (inbox 0).setGang 1 { placedGang with halting := true } with ents := [e] }
       (s.core 0).gang = some e.gang ∧ s.gangLeaving 0 = false ∧ s.gangHere 0 = false)
    ∧ (let e := msgEntry 0 0 1; let s := { (inbox 0).setGang 1 { placedGang with halting := true, discarding := true } with ents := [e] }
       (s.core 0).gang = some e.gang ∧ s.gangLeaving 0 = true) := by
  decide +kernel

theorem witness_MessagesArrive_sachets :
    (let s := { inbox 0 with ents := [sachetEntry] }; let w := (sachetEntry.pay.drop 12).headD 0
     s.entry 7 = some sachetEntry ∧ s.mayArrive sachetEntry = true ∧ (Thr.ctx 5 2).core ≠ sachetEntry.tgt ∧ (s.core 0).gang ≠ none
      ∧ (s.core 0).gnum = w.bits 36 14 ∧ (s.core 0).ginc = w.bits 28 8 ∧ sachetEntry.env.secure = (s.core 0).secure ∧ (s.core 0).runLength ≤ (s.core 0).rqlimit
      ∧ ((s.core 0).ctxs.filter (fun p => p.2.st != CtxState.exited && p.2.spilled.isNone)).length < storeRoom)
    ∧ (let s := { twoThreads with ents := [sachetEntry], sel := { a := 7 } }; (s.core 0).rqlimit < (s.core 0).runLength)
    ∧ (∀ a ∈ [MigrAnswer.accepted, .bounced, .removed], ((tstCtx (fun c => { c with busy := .migr (some a) 0 })).ctx (.ctx 0 0)).busy = .migr (some a) 0) := by
  decide +kernel

/-- The bytes of a record: its control doubleword, masks of one core, one lease descriptor at 0x4000 of pot 0's first scratchpad, and its signal there too. -/
def recordBytes (dw0 : Nat) : List Byte :=
  leBytes 8 dw0 ++ (leBytes 16 0 ++ (leBytes 8 (pad 0x4100).toNat ++ (leBytes 8 (1 + 2 ^ 32) ++ (leBytes 8 1 ++ (leBytes 8 (pad 0x4000).toNat ++ leBytes 136 0)))))

/-- A module whose launch queue 0 has a ring of so many records with so many written, the first given; the lease descriptor covers the first scratchpad. -/
def queueState (size write : Nat) (r : List Byte) : State :=
  let s := State.reset.writeNat (queueLoc 0 0) 8 0x1B00800
  let s := s.writeNat (queueLoc 0 0 + 8) 2 size
  let s := s.writeNat (queueLoc 0 0 + 0x10) 4 write
  let s := s.writeLocs (rootLoc 0 + 0x800) r
  s.writeNat (mkLoc ownModule 0 0x4000) 24 ((pad 0).toNat + 2 ^ 64 * (0x80000 + 2 ^ 63 + 2 ^ 62))

/-- The hypotheses under which the next record is taken. -/
abbrev Takes (s : State) : Prop :=
  s.isPart 0 = true ∧ s.qSize 0 0 ≠ 0 ∧ s.qState 0 0 = 0 ∧ 0 < (2 ^ 32 + s.qWrite 0 0 - s.qRead 0 0) % 2 ^ 32

theorem witness_RecordsTaken :
    (Takes (queueState 1 2 []) ∧ (queueState 1 2 []).qSize 0 0 < (2 ^ 32 + (queueState 1 2 []).qWrite 0 0 - (queueState 1 2 []).qRead 0 0) % 2 ^ 32)
    ∧ (let s := queueState 1 1 (recordBytes (2 ^ 16)); let r := s.recordAt 0 0 (s.qRead 0 0)
       Takes s ∧ s.ringOk 0 0 = true ∧ s.poisoned (s.recLoc 0 0 0) 192 = false ∧ s.poisoned (queueLoc 0 0) 64 = false
        ∧ s.tablesReach r = true ∧ s.recordFault 0 r = none ∧ r.ndep = 0 ∧ s.queueWaits 0 0 = false)
    ∧ (let s := queueState 1 1 (recordBytes 0); Takes s ∧ s.recordFault 0 (s.recordAt 0 0 0) = some 0 ∧ (s.recordAt 0 0 0).nlease = 0)
    ∧ (let s := queueState 2 1 (recordBytes (2 ^ 16 + 2 ^ 24)); let r := s.recordAt 0 0 0
       Takes s ∧ s.tablesReach r = true ∧ s.recordFault 0 r = none ∧ 0 < r.ndep ∧ (s.part 0).pool.length < 64) := by
  decide +kernel

/-- A pooled record of one dependency, whose signal at address 0 reads a value. -/
def poolRec : Rec := { queue := 0, num := 0, bytes := recordBytes (2 ^ 16 + 2 ^ 24), lease := [], blend := [] }
def poolState (x : Nat) : State := { State.reset.setPart 0 { pool := [poolRec], irqs := [{ vec := 3 }] } with sel := {} }.writeNat (mkLoc ownModule 0 0) 8 x

theorem poolSignals (x : Nat) (h : x = 1 ∨ x = 2) : (poolState x).depSignals poolRec = [word x] := by
  rcases h with rfl | rfl <;> decide +kernel

theorem witness_RecordsTaken_dependencies :
    ((poolState 1).part 0).pool[0]? = some poolRec ∧ (∀ x ∈ (poolState 1).depSignals poolRec, x.bits 0 8 = 1) ∧ (poolState 1).qState 0 poolRec.queue = 0 ∧ (poolState 1).commandBusy 0 = false
    ∧ (let s := (poolState 1).setQState 0 0 2 true; s.qState 0 poolRec.queue = 2 ∧ s.qOverrun 0 poolRec.queue = true)
    ∧ (∃ x ∈ (poolState 2).depSignals poolRec, x ≠ 0 ∧ x.bits 0 8 ≠ 1) ∧ (poolState 1).sysLoc poolRec.env poolRec.signal = some (mkLoc ownModule 0 0x4100)
    ∧ ((poolState 1).part 0).irqs = { vec := 3, write := none } :: [] := by
  rw [poolSignals 1 (.inl rfl), poolSignals 2 (.inr rfl)]
  refine ⟨?_, fun x h => ?_, ?_, ?_, ?_, ⟨word 2, List.mem_singleton.2 rfl, ?_⟩, ?_⟩
  case refine_2 => rw [List.mem_singleton.1 h]; decide +kernel
  all_goals decide +kernel

/-- A gang of a record, waiting to be placed on core 3; its record has so many members and one range, in the blend window or none. -/
def recOf (size : Nat) (window : Bool) : Rec :=
  { queue := 0, num := 0, bytes := leBytes 192 (2 ^ (8 * 0x68 + 16) * (size - 1)),
    lease := if window then [(0, { base := 0xFFE0000000000000, r := true, w := true, secure := false, len := 16, map := 0 })] else [], blend := [] }
def readyGang (size : Nat) (window : Bool) : Gang := { record := recOf size window, cores := [3], st := .ready }
def launchState (g : Gang) : State := { State.reset.setGang 4 g with sel := { a := 4 } }

/-- The hypotheses of a dispatch. -/
abbrev Dispatches (g : Gang) : Prop :=
  SMap.find (launchState g).gangs 4 = some g ∧ g.st = .ready ∧ (launchState g).commandBusy g.part = false ∧ (launchState g).queueRuns g.part g.record.queue = true
    ∧ (launchState g).placeable 4 g = true ∧ (launchState g).outranked 4 g = false

/-- A gang with range 1 in another module, asked for or not. -/
def farGang (asked : Bool) (answers : SMap Bool) : Gang :=
  { readyGang 1 false with
    record := { recOf 1 false with lease := [(1, { base := word (5 * 2 ^ 52 + 32 * 2 ^ 45), r := true, w := true, secure := false, len := 2 ^ 21, map := 0 })] }
    asked := asked, answers := answers }

/-- Range 1 of that gang as the other module sees it. -/
def farRange : RemoteRange := { source := 0, gang := 0, base := word (5 * 2 ^ 52 + 32 * 2 ^ 45), length := 2 ^ 21, secure := false, asid := 0 }

/-- Page 0 of address space 0 of owner 32 has an entry. -/
def pageTables (e : Nat) : State :=
  ((State.reset.writeNat (mkLoc ownModule 32 0) 8 (2 ^ 63 + 2 ^ 15)).writeNat (mkLoc ownModule 32 0x8000) 8 (2 ^ 63 + 2 ^ 16)).writeNat (mkLoc ownModule 32 0x10000) 8 e

/-- A gang whose only range is page 0 of pot 0's HBM, which a caddy of the partition has. -/
def caddyGang : Gang := { readyGang 1 false with record := { recOf 1 false with lease := [(2, { farLease with len := 2 ^ 21 })] } }
def caddyState : State := { (pageTables (2 ^ 63)).setGang 4 caddyGang with sel := { a := 4 } }.setPart 0 { caddies := [(5, [word (2 ^ 63 + 4 * 2 ^ 46 + 2 * 2 ^ 39 + 2 ^ 30 + 2 ^ 24), word (2 ^ 48), 0, 0])] }

theorem witness_GangsDispatch_asks :
    (SMap.find caddyState.gangs 4 = some caddyGang ∧ caddyState.commandBusy 0 = false ∧ caddyState.queueRuns 0 0 = true ∧ caddyState.placeable 4 caddyGang = true
      ∧ caddyState.outranked 4 caddyGang = false ∧ caddyState.caddyFault caddyGang.record = some 2)
    ∧ (∀ g ∈ [farGang false [], farGang true [], farGang true [(1, false)], farGang true [(1, true)]], Dispatches g ∧ (launchState g).caddyFault g.record = none
        ∧ (launchState g).remoteRanges g.record = [(1, farRange)])
    ∧ SMap.find ([] : SMap Bool) 1 = none ∧ SMap.find [(1, false)] 1 = some false ∧ SMap.find [(1, true)] 1 = some true := by
  decide +kernel

theorem witness_GangsDispatch :
    (Dispatches (readyGang 1 false) ∧ (readyGang 1 false).record.size = 1 ∧ (readyGang 1 false).record.windowOk 0 = true
      ∧ ((launchState (readyGang 1 false)).core 3).prevWorld ≠ some (readyGang 1 false).record.secure)
    ∧ (Dispatches (readyGang 1 true) ∧ (readyGang 1 true).record.size = 1 ∧ (readyGang 1 true).record.windowOk 0 = false)
    ∧ (Dispatches (readyGang 2 false) ∧ 1 < (readyGang 2 false).record.size)
    ∧ (∀ p ∈ [(readyGang 1 false), readyGang 1 true, readyGang 2 false], (launchState p).caddyFault p.record = none ∧ (launchState p).remoteRanges p.record = []) := by
  decide +kernel

/-- A member of rank 1 of a blend of two that has reported, with a range in the blend window or none. -/
def memberGang (window : Bool) : Gang :=
  { readyGang 2 window with st := .reported, record := { recOf 2 window with bytes := leBytes 192 (2 ^ (8 * 0x68 + 16) + 2 ^ (8 * 0x68)) } }
def memberState (window : Bool) : State := { launchState (memberGang window) with sel := { a := 4, inp := .news .start } }

theorem witness_GangsDispatch_blend :
    (∀ b ∈ [false, true], SMap.find (memberState b).gangs 4 = some (memberGang b) ∧ (memberGang b).st = .reported ∧ (memberState b).commandBusy 0 = false
        ∧ (memberGang b).go = false ∧ (memberGang b).record.rank ≠ 0 ∧ (memberGang b).record.windowOk 0 = !b ∧ (memberState b).liveThreads (memberGang b) = [])
    ∧ (let r : BlendReport := { rank := 1, size := 2 }; let s := { tst with sel := { a := 0, inp := .news (.report 9 r) } }
       s.isPart 0 = true ∧ (SMap.get ({} : Book) (s.tray 0).blends 9).verdict = none ∧ blendVerdict ((SMap.get ({} : Book) (s.tray 0).blends 9).reports ++ [r]) = none)
    ∧ blendVerdict [{ rank := 1, size := 2 }, { rank := 0, size := 2 }] = some 0
    ∧ (let s := tstCore (fun k => { k with blend := [(1, ⟨false, 0, 5⟩)] }); (s.core 0).gang = some 1 ∧ SMap.find s.gangs 1 = some placedGang ∧ placedGang.record.rank ≠ 1
      ∧ SMap.get .unknown placedGang.peers 1 = .unknown ∧ SMap.find (s.core 0).blend 1 = some ⟨false, 0, 5⟩) := by
  decide +kernel

/-- A gang with a state on core 0 and nothing in flight, its commands word, and a free core. -/
def cmdWord (g : Gang) (w : Nat) : State :=
  { (State.reset.setGang 1 g).writeNat (commandLoc 0) 8 w with sel := { a := 0 } }
def runGang (halting : Bool) (st : GState) : Gang := { readyGang 1 false with cores := [0], st := st, halting := halting }

/-- The hypotheses of a partition command for the gang. -/
abbrev Commanded (op : Nat) (halting : Bool) (st : GState) : Prop :=
  let s := cmdWord (runGang halting st) op
  s.isPart 0 = true ∧ s.cmdOp 0 = op ∧ s.gangOfRecord 0 (s.cmdQueue 0) (s.cmdIndex 0) = some (1, runGang halting st)

theorem witness_GangsEndAndReturn :
    (let s := cmdWord (runGang false .running) 0; SMap.find s.gangs 1 = some (runGang false .running) ∧ (runGang false .running).discarding = false ∧ s.gangDone 1 (runGang false .running) = true
      ∧ (runGang false .running).released = true ∧ s.commandsDone 1 = true ∧ (runGang false .running).record.size = 1)
    ∧ (let g := { runGang false .running with record := recOf 2 false }
       let s := cmdWord g 0
       let s := { s with sel := { a := 1 } }
       SMap.find s.gangs s.sel.a = some g ∧ s.gangDone s.sel.a g = true ∧ g.record.size ≠ 1 ∧ g.told = false ∧ g.discarding = false)
    ∧ (fatalCode cECC_UNCORR = true ∧ (tst.core 0).gang = some 1 ∧ SMap.find tst.gangs 1 = some placedGang)
    ∧ (Commanded 3 true .running ∧ ((cmdWord (runGang true .running) 3).part 0).portBusy = false ∧ (cmdWord (runGang true .running) 3).gangQuiet 1 (runGang true .running) = true
      ∧ (cmdWord (runGang true .running) 3).saveReach (runGang true .running) = true)
    ∧ (let s := tst.writeNat (commandLoc 0) 8 3; s.cmdOp 0 = 3 ∧ s.gangOfRecord 0 (s.cmdQueue 0) (s.cmdIndex 0) = some (1, placedGang) ∧ s.gangDone 1 placedGang = false)
    ∧ Commanded 4 false .saved ∧ (Commanded 5 false .running ∧ (cmdWord (runGang false .running) 5).gangDone 1 (runGang false .running) = true)
    ∧ (let g := { runGang false .resumed with saved := [(0, { tvec := 8 })] }; let s := launchState g
       SMap.find s.gangs 4 = some g ∧ s.commandBusy g.part = false ∧ g.cores.all s.coreFree = true ∧ s.saveReach g = true ∧ s.outranked 4 g = false ∧ g.torn = none ∧ (s.restoreAll 4 g).2 = none)
    ∧ ((blockedCtx : Ctx).wait.bits 0 4 ≠ 0 ∧ (readyCtx 0).wait.bits 0 4 = 0) := by
  decide +kernel

/-- A resumed gang one of whose saved images has a reserved bit set. -/
def badSave : State :=
  let s := launchState { runGang false .resumed with saved := [(0, { ctxs := [(0, readyCtx 1)] })] }
  s.writeNat (mkLoc ownModule 0 0xA0138) 8 (2 ^ 5)

theorem witness_GangsEndAndReturn_bad :
    (let g := { runGang false .resumed with saved := [(0, { ctxs := [(0, readyCtx 1)] })] }
     SMap.find badSave.gangs badSave.sel.a = some g ∧ badSave.commandBusy g.part = false ∧ g.cores.all badSave.coreFree = true ∧ badSave.saveReach g = true ∧ badSave.outranked 4 g = false
      ∧ g.torn = none ∧ (badSave.restoreAll badSave.sel.a g).2 = some 0 ∧ 0 ∈ g.cores) := by
  decide +kernel

theorem witness_ReturnsAndGangMovesComplete :
    (∃ s', (retState placedHdr).returnTo = .header s' ⟨placedHdr, 1, 0, 0⟩) ∧ (∃ s', (retState (placedHdr + 8)).returnTo = .inside s' ⟨placedHdr, 1, 0, 0⟩ 0)
    ∧ (retState placedHdr).clear { priv := true, all := true } = true ∧ 0 < (⟨placedHdr, 1, 0, 0⟩ : Block).len
    ∧ (let s := cmdWord (runGang false .running) 0; SMap.find s.gangs 1 = some (runGang false .running) ∧ s.gangDone 1 (runGang false .running) = true
      ∧ (runGang false .running).released = true ∧ s.commandsDone 1 = true ∧ (runGang false .running).record.size = 1)
    ∧ (fatalCode cLEASE = true ∧ (tst.core 0).gang = some 1 ∧ SMap.find tst.gangs 1 = some placedGang)
    ∧ (Commanded 3 true .running ∧ ((cmdWord (runGang true .running) 3).part 0).portBusy = false ∧ (cmdWord (runGang true .running) 3).gangQuiet 1 (runGang true .running) = true
      ∧ (cmdWord (runGang true .running) 3).saveReach (runGang true .running) = true)
    ∧ Commanded 4 false .saved ∧ Commanded 5 false .running
    ∧ (let g := { runGang false .resumed with saved := [(0, { tvec := 8 })] }; let s := launchState g
       SMap.find s.gangs 4 = some g ∧ s.commandBusy g.part = false ∧ g.cores.all s.coreFree = true ∧ s.saveReach g = true ∧ s.outranked 4 g = false ∧ g.torn = none ∧ (s.restoreAll 4 g).2 = none) := by
  refine ⟨header_of _ _ ?_, inside_of _ _ _ ?_, ?_⟩ <;> decide +kernel

/-- Queue 0's state and the command word, with no gang. -/
def queueCmd (st op : Nat) : State := { (State.reset.setQState 0 0 st false).writeNat (commandLoc 0) 8 op with sel := { a := 0 } }

theorem witness_PartitionCommands :
    (∀ p ∈ [(0, 1), (2, 6), (0, 2), (3, 2), (0, 7), (1, 0)], (queueCmd p.1 p.2).isPart 0 = true ∧ (queueCmd p.1 p.2).cmdOp 0 = p.2
      ∧ (queueCmd p.1 p.2).qState 0 ((queueCmd p.1 p.2).cmdQueue 0) = p.1)
    ∧ (rangeFrom 0 16).find? (fun q => (queueCmd 1 0).qState 0 q == 1 && !(queueCmd 1 0).queueBusy 0 q) = some 0
    ∧ (queueCmd 3 2).gangs = [] ∧ ((queueCmd 3 2).part 0).abortTo < 2 ^ 32
    ∧ (∀ b : Bool, let g := { runGang b .running with discarding := b }; let s := (queueCmd 3 2).setGang 1 g
        SMap.find s.gangs 1 = some g ∧ s.gangQuiet 1 g = true
          ∧ s.gangs.filter (fun x => x.2.part == 0 && x.2.record.queue == s.cmdQueue 0 && x.2.st != .ended && !x.2.kept) = [(1, g)]) := by
  refine ⟨by decide +kernel, by decide +kernel, by decide +kernel, by decide +kernel, ?_⟩
  rintro (_ | _) <;> decide +kernel

/-- The table port with an operation at a target and its arguments. -/
def portState (op target a0 a1 a2 : Nat) : State :=
  { (pageTables (2 ^ 63)).writeLocs (portLoc 0) (leBytes 8 (op + 16 * target) ++ (leBytes 8 a0 ++ (leBytes 8 a1 ++ leBytes 8 a2))) with sel := { a := 0 } }

theorem witness_TablePort_tables :
    (let s := { (pageTables (2 ^ 63)).setOwner 32 { walks := [0] } with sel := { a := 32 } }
     (s.owner 32).walks = 0 :: [] ∧ (0 : Nat) < 2 ^ 60 ∧ pageValid 32 (s.walkPage 32 (0 / 2 ^ 24) (0 % 2 ^ 24)) = true)
    ∧ (let s := { (pageTables 0).setOwner 32 { walks := [0] } with sel := { a := 32 } }; pageValid 32 (s.walkPage 32 (0 / 2 ^ 24) (0 % 2 ^ 24)) = false)
    ∧ (let s := portState 1 32 (2 ^ 37) 5 0; s.isPart 0 = true ∧ s.tpOp 0 = 1 ∧ s.ownerIn 0 (s.tpTarget 0) = true
        ∧ s.pteSlot (s.tpTarget 0) (s.tpAsid 0) (s.tpArg 0 0) = some 0x10000)
    ∧ (let s := portState 1 33 (2 ^ 37) 5 0; s.ownerIn 0 (s.tpTarget 0) = true ∧ s.pteSlot (s.tpTarget 0) (s.tpAsid 0) (s.tpArg 0 0) = none)
    ∧ (let s := portState 1 66 0 5 0; s.ownerIn 0 (s.tpTarget 0) = false)
    ∧ (let s := portState 2 65 0 (2 ^ 24) 0; s.tpOp 0 = 2 ∧ (s.part 0).inval = none ∧ s.queueCommand 0 = false ∧ s.ownerIn 0 (s.tpTarget 0) = true ∧ 1 ≤ (s.tpArg 0 1).toNat ∧ (s.tpArg 0 1).toNat ≤ 2 ^ 24)
    ∧ (let s := { (portState 2 65 0 1 0).setPart 0 { inval := some [7] } with ents := [storeEntry 7 .ingress] }; (s.part 0).inval = some [7] ∧ ∃ i ∈ [7], s.stillIn i = true)
    ∧ (let s := (portState 2 65 0 1 0).setPart 0 { inval := some [7] }; ∀ i ∈ [7], s.stillIn i = false) := by
  decide +kernel

/-- A gang with a range, for REVOKE. -/
def leasedGang : Gang := { runGang false .running with record := { recOf 1 false with lease := [(2, placedLease)] } }

theorem witness_TablePort_revoke :
    (let s := (portState 3 0 0 2 0).setGang 1 leasedGang
     s.tpOp 0 = 3 ∧ (s.part 0).revoking = none ∧ s.queueCommand 0 = false ∧ s.gangOfRecord 0 ((s.tpArg 0 0).bits 4 4) ((s.tpArg 0 0).bits 16 32) = some (1, leasedGang)
      ∧ SMap.find leasedGang.record.lease ((s.tpArg 0 1).bits 0 4) = some placedLease)
    ∧ (let s := (portState 3 0 0 2 0).setPart 0 { revoking := some (1, 2, placedLease) }; (s.part 0).revoking = some (1, 2, placedLease) ∧ s.rangeBusy 1 placedLease = false
        ∧ SMap.find s.gangs 1 = none)
    ∧ (let g := { leasedGang with held := [(2, farRange)] }
       let s := ((portState 3 0 0 2 0).setGang 1 g).setPart 0 { revoking := some (1, 2, placedLease) }
       s.rangeBusy 1 placedLease = false ∧ SMap.find s.gangs 1 = some g ∧ g.held = [(2, farRange)])
    ∧ (let s := { tst with ents := [storeEntry 7 .ingress] }; s.rangeBusy 1 placedLease = true) := by
  decide +kernel

/-- A caddy descriptor of one shard and one page, for pot 0. -/
def caddyDesc0 : Desc := [word (2 ^ 63 + 4 * 2 ^ 46 + 2 * 2 ^ 39 + 2 ^ 30 + 2 ^ 24), word (2 ^ 48), 0, 0]

theorem witness_TablePort_names :
    (let s := portState 4 0 (7 + 2 ^ 16 * 9) 0 16; s.tpOp 0 = 4 ∧ s.potIn 0 (s.tpTarget 0) = true ∧ (s.tpArg 0 0).bits 16 4 ≤ 9 ∧ (s.tray 0).freeName = some 0
      ∧ (s.tray 0).nameKey ((s.tpArg 0 0).bits 0 16) (s.tpAsid 0) = none ∧ s.bufPlace 0 (s.tpArg 0 1) ((s.tpArg 0 2).bits 0 45) = true)
    ∧ (let s := (portState 5 0 7 0 0).setTray 0 { names := [(3, { secure := false, fmt := 0, asid := 0, name := 7, base := 0, len := 16 })] }
       s.tpOp 0 = 5 ∧ s.potIn 0 0 = true ∧ (s.tray 0).nameKey ((s.tpArg 0 0).bits 0 16) (s.tpAsid 0) = some 3)
    ∧ (let s := portState 5 0 7 0 0; (s.tray 0).nameKey ((s.tpArg 0 0).bits 0 16) (s.tpAsid 0) = none) := by
  decide +kernel

/-- A page of owner 32 that is mapped to frame 3, with MOVE clear or set, and where it is to go: frame `d`, or one of the second tier's. -/
def moveState (e : Nat) (d : Nat) (away : Bool) (ents : List Entry) : State :=
  { pageTables e with sel := { a := 32, b := 0, c := 0, d := d, flag := away }, ents := ents }

/-- The entry of that page with MOVE set. -/
def movingPage : Nat := 2 ^ 63 + 2 ^ 60 + 2 ^ 21 * 3

theorem witness_PagesMove :
    (let s := moveState (2 ^ 63 + 2 ^ 21 * 3) 0 false []; s.framed 32 0 0 s.sel.d = some (0x10000, word (2 ^ 63 + 2 ^ 21 * 3)) ∧ (word (2 ^ 63 + 2 ^ 21 * 3)).bits 60 1 = 0)
    ∧ (let s := moveState movingPage 5 false []; s.framed 32 0 0 s.sel.sub = some (0x10000, word movingPage) ∧ (word movingPage).bits 60 1 = 1
        ∧ s.frameUsed 32 (2 ^ 21 * 3) (2 ^ 21) = false ∧ frameSize (word movingPage) s.sel.sub = 2 ^ 21 ∧ (word movingPage).bits 0 45 = 2 ^ 21 * 3
        ∧ s.frameFree 32 (2 ^ 21 * 5) (2 ^ 21) = true ∧ s.frameFree 32 (2 ^ 21 * 3) (2 ^ 21) = false)
    ∧ (let x := { byteAt 0 0 false with loc := mkLoc ownModule 32 (2 ^ 21 * 3) }
       let s := moveState movingPage 5 false [{ egEntry with phase := .ingress, bytes := [x] }]; s.frameUsed 32 (2 ^ 21 * 3) (2 ^ 21) = true)
    ∧ (let s := moveState movingPage 5 true []; s.sel.flag = true ∧ s.sel.d < 2 ^ 20 ∧ s.pageLeased 32 0 0 = false
        ∧ s.frameFree (64 + s.sel.d / 2 ^ 19) (2 ^ 21 * (s.sel.d % 2 ^ 19)) (2 ^ 21) = true)
    ∧ (2 ^ 21 - 1 < 2 ^ 21) := by
  decide +kernel

/-- A range of pot 0's memory that another module asks for. -/
def range32 : RemoteRange := { source := 3, gang := 1, base := word (0xFFF * 2 ^ 52 + 32 * 2 ^ 45), length := 2 ^ 21, secure := false, asid := 0 }

theorem witness_PagesMove_remote :
    (let s := { pageTables (2 ^ 63) with sel := { inp := .remote range32 } }
     let l : Lease := { base := range32.base, r := true, w := true, secure := false, len := 2 ^ 21, map := 0 }
     s.sel.inp = .remote range32 ∧ s.remoteRefused l 0 = false ∧ s.pagesReady 0 (s.leasePages l) = true)
    ∧ (let l : Lease := { base := range32.base, r := true, w := true, secure := false, len := 2 ^ 21, map := 0 }
       State.reset.remoteRefused l 0 = false ∧ State.reset.pagesReady 0 (State.reset.leasePages l) = false)
    ∧ (let s := { launchState (farGang true []) with sel := { a := 5, b := 1, inp := .none } }
       SMap.find s.gangs 4 = some (farGang true []) ∧ (farGang true []).asked = true ∧ (farGang true []).st ≠ .ended
        ∧ (s.remoteRanges (farGang true []).record).find? (fun p => p.1 == s.sel.b) = some (s.sel.b, farRange))
    ∧ (let s := pageTables 0; s.remoteRefused { base := 0, r := true, w := true, secure := true, len := 16, map := 0 } 0 = true) := by
  decide +kernel

/-- A caddy descriptor installed through the port: V, the dimensions and one page. -/
theorem witness_TablePort_caddy :
    (let s := portState 6 0 5 (caddyDesc0.getD 0 0).toNat (2 ^ 48); let d : Desc := [s.tpArg 0 1, s.tpArg 0 2, 0, 0]
     s.tpOp 0 = 6 ∧ descV d = true ∧ descV (SMap.get [] (s.part 0).caddies ((s.tpArg 0 0).bits 0 6)) = false ∧ s.descRefused 0 d = false
      ∧ (s.part 0).clearing = [])
    ∧ (let s := portState 6 0 5 (2 ^ 63) 0; s.descRefused 0 [s.tpArg 0 1, s.tpArg 0 2, 0, 0] = true)
    ∧ (let s := (portState 6 0 5 (2 ^ 63) 0).setPart 0 { caddies := [(5, caddyDesc0)] }; descV (SMap.get [] (s.part 0).caddies 5) = true) := by
  decide +kernel

/-! ### Subscriptions, collectives and the caddy -/

/-- A subscription of two tiles of 16 bytes in the scratchpad, loading or storing, with so many tiles done. -/
def subCmd (st : Nat) (num : Nat) : Cmd :=
  { cmdOf (.traySub 0 0 true 0)   .begun with num := num, block := leBytes 8 (pad 0x4000).toNat ++ (leBytes 8 (2 ^ 33 + 16) ++ (leBytes 8 (pad 0x6000).toNat ++ (leBytes 8 (16 + 2 ^ 48 * st) ++ (leBytes 24 0 ++ leBytes 8 (flagLoc 0 0))))) }

/-- The state of the subscription, its slot's granules full or empty. -/
def subState (c : Cmd) (full : Bool) : State :=
  let s := cmdState [c] { a := 5 } id
  if full then { s with full := (rangeFrom 0 0x1000).map (fun i => (mkLoc ownModule 0 0 / 16 + i, true)) } else s

theorem witness_SubscriptionMoves :
    (∀ p ∈ [(0, false), (0, true), (1, false), (1, true)], let c := subCmd p.1 1; let s := subState c p.2
      SMap.find s.cmds s.sel.a = some c ∧ c.stage = .begun ∧ c.phase = 0 ∧ c.out = 0 ∧ c.ended = false ∧ c.num < c.ntiles ∧ 0 < c.slotBytes
        ∧ c.stores = (p.1 == 1) ∧ s.slotFull c = p.2)
    ∧ (let c := subCmd 0 2; let s := subState c false; c.ntiles ≤ c.num ∧ c.fresh = false ∧ (s.tray c.pot).subq = []) := by
  decide +kernel

/-- A collective of so many participants, of which this is the first. -/
def collCmd (n : Nat) (st : Stage) (phase : Nat) : Cmd :=
  { cmdOf (.allred 0 0 0) st with block := leBytes 64 1, data := [0, 0, 9, 0, word n], phase := phase }

theorem witness_CollectiveMoves :
    (let c := collCmd 1 .queued 0; let s := cmdState [c] { a := 5 } (fun k => { k with tq := [5] })
     SMap.find s.cmds s.sel.a = some c ∧ c.isColl = true ∧ (s.core c.core).tq.head? = some c.id ∧ (s.tray (potOf c.core)).join.length < 16)
    ∧ (let c := collCmd 1 .queued 0; let s := (cmdState [c] { a := 5 } (fun k => { k with tq := [5] })).setTray 0 { join := List.replicate 16 9 }
       16 ≤ (s.tray (potOf c.core)).join.length)
    ∧ (∀ n ∈ [1, 2], let c := collCmd n .arrived 0; let s := cmdState [c] { a := 5 } id; s.collMates c = [c] ∧ s.sel.inp = .none ∧ c.info.n = n ∧ c.info.q = 0)
    ∧ (∀ p ∈ [(3, 0), (1, 1)], let c := { collCmd 1 .begun p.1 with line := p.2 }; let s := cmdState [c] { a := 5 } id
        SMap.find s.cmds s.sel.a = some c ∧ c.isColl = true ∧ c.stage = .begun ∧ c.out = 0 ∧ c.ended = false ∧ s.sel.flag = false ∧ s.collTurn c = true)
    ∧ (let c := { collCmd 1 .begun 3 with num := 1 }; let s := cmdState [{ collCmd 1 .arrived 0 with id := 4 }, c] { a := 5 } id
      SMap.find s.cmds s.sel.a = some c ∧ s.collTurn c = false)
    ∧ srcElem 9 [some 0, some 0, some 0x80, some 0x3F] 0 = some 0x3F800000 := by
  decide +kernel

/-- A caddy command with an identifier, one shard, and an answer when given. -/
def caddyCmd (i : Instr) (st : Stage) (phase : Nat) (ident : Nat) (l : List Answer) : Cmd :=
  { cmdOf i st with phase := phase, block := leBytes 8 (pad 0x4000).toNat ++ (leBytes 8 ident ++ leBytes 48 0), data := caddyDesc0, answers := l }

/-- A shard with one live node and one dead one. -/
def shard0 : Shard := { desc := some caddyDesc0, nodes := [(3, { vec := leBytes 8 0 }), (4, { vec := leBytes 8 0, dead := true })], entry := some 3 }

theorem witness_CaddyMoves_home :
    (∀ i ∈ [Instr.stvec 0 0 5, .ixdel 0 0 5], let c := caddyCmd i .arrived 0 3 []; let s := trayState c { home := [5] } { a := 5 }
      SMap.find s.cmds s.sel.a = some c ∧ (s.tray (potOf c.core)).home.head? = some c.id ∧ c.stage = .arrived)
    ∧ ((caddyCmd (.stvec 0 0 5) .arrived 0 3 []).hasVector = true ∧ (caddyCmd (.ixdel 0 0 5) .arrived 0 3 []).hasVector = false)
    ∧ (let c := caddyCmd (.ixdel 0 0 5) .begun 2 3 []; let s := trayState c { fwd := [(5, 2, 5)] } { a := 2, b := 5, c := 1 }
       0 < s.sel.c ∧ (s.tray (s.sel.c - 1)).fwd.find? (fun x => x.2 == (s.sel.a, s.sel.b)) = some (5, 2, 5))
    ∧ (let c := caddyCmd (.ixdel 0 0 5) .begun 2 3 []; let s := trayState c { shards := [(5, { queue := [5] })] } { a := 0, b := 5 }
       s.sel.c = 0 ∧ (SMap.get {} (s.tray s.sel.a).shards s.sel.b).queue = 5 :: [] ∧ SMap.find s.cmds 5 = some c ∧ s.sel.flag = false)
    ∧ (let c := caddyCmd (.ixdel 0 0 5) .begun 2 3 [{ shard := 0, code := 0 }]; let s := cmdState [c] { a := 5 } id
       SMap.find s.cmds s.sel.a = some c ∧ c.caddy ≠ none ∧ c.answers.length = c.shards.length)
    ∧ ((caddyCmd (.ixdel 0 0 5) .begun 2 3 []).answers.length ≠ (caddyCmd (.ixdel 0 0 5) .begun 2 3 []).shards.length)
    ∧ (let s := { State.reset.setPart 0 { clearing := [(5, 0, 0)] } with sel := { a := 0, b := 5, c := 0 } }
       (s.part 0).clearing.find? (fun x => x.1 == s.sel.b && x.2.1 == s.sel.c) = some (5, 0, 0) ∧ ∀ y ∈ (s.part 0).clearing, y ≠ (5, 0, 0) → y.1 ≠ s.sel.b)
    ∧ (let s := (cmdState [caddyCmd (.ixdel 0 0 5) .begun 2 3 []] { a := 0, b := 5, c := 0 } id).setPart 0 { clearing := [(5, 0, 0), (5, 1, 1)] }
       (s.part 0).clearing.find? (fun x => x.1 == s.sel.b && x.2.1 == s.sel.c) = some (5, 0, 0) ∧ ∃ y ∈ (s.part 0).clearing, y ≠ (5, 0, 0) ∧ y.1 = s.sel.b) := by
  decide +kernel

theorem witness_CaddyMoves_shard :
    (({} : Shard).desc = none ∧ shard0.desc = some caddyDesc0 ∧ (caddyCmd (.stvec 0 0 5) .begun 2 3 []).num < ({ inst := 1 } : Shard).inst
      ∧ shard0.inst ≤ (caddyCmd (.stvec 0 0 5) .begun 2 3 []).num)
    ∧ ((caddyCmd (.stvec 0 0 5) .begun 2 0xFFFFFFFF []).ident = 0xFFFFFFFF ∧ (caddyCmd (.stvec 0 0 5) .begun 2 3 []).ident ≠ 0xFFFFFFFF
      ∧ (SMap.find shard0.nodes 3).isSome = true ∧ SMap.find shard0.nodes 0xFFFFFFFE = none ∧ shard0.nodes.length < descCapacity caddyDesc0)
    ∧ (descCapacity [] ≤ shard0.nodes.length) ∧ ({ desc := some caddyDesc0 } : Shard).entry = none
    ∧ (SMap.find shard0.nodes 3 = some { vec := leBytes 8 0 } ∧ SMap.find shard0.nodes 4 = some { vec := leBytes 8 0, dead := true }) := by
  decide +kernel

/-! ### Counters, time and the boundary -/

/-- Gang 1 with TMARKs in this cycle: a start on core `a`, a stop on core `b`. -/
def marksState (l : List Mark) : State := { tst with turn := [] }.setGang 1 { placedGang with active := 5, window := true, marks := l }

theorem test_marks_lower_core_first :
    ((marksState [⟨5, 0, 0, 1, 0, 0⟩, ⟨2, 0, 0, 2, 0, 0⟩]).nextCycle.gangs.map (fun p => (p.2.window, p.2.active))) = [(true, 1)]
    ∧ ((marksState [⟨5, 0, 0, 2, 0, 0⟩, ⟨2, 0, 0, 1, 0, 0⟩]).nextCycle.gangs.map (fun p => (p.2.window, p.2.active))) = [(false, 0)] := by
  decide +kernel

theorem witness_CountersAndTime :
    (tst.turn ≠ [] ∧ { tst with turn := [] }.turn = [] ∧ (unitState 0 {}).unitDue = true ∧ tst.pos < 15 ∧ tst.boundIn 0 0 = some (.ctx 0 0) ∧ tst.boundIn 0 1 = none ∧ tst.holdClass (.ctx 0 0) = none)
    ∧ (let s := tstCtx (fun c => { c with busy := .reply }); s.holdClass (.ctx 0 0) = some (.memory, .none))
    ∧ ((tst.core 0).gang ≠ none ∧ SMap.find tst.gangs 1 = some placedGang)
    ∧ (let s := State.reset.setPart 0 { traces := [leBytes 32 7] }; (s.part 0).traces = leBytes 32 7 :: []
        ∧ s.readNat (traceLoc 0 + 8) 4 ≤ (2 ^ 32 + s.readNat (traceLoc 0 + 0x10) 4 - s.readNat (traceLoc 0 + 0x18) 4) % 2 ^ 32)
    ∧ (let s := (State.reset.setPart 0 { traces := [leBytes 32 7] }).writeNat (traceLoc 0 + 8) 4 1
       (2 ^ 32 + s.readNat (traceLoc 0 + 0x10) 4 - s.readNat (traceLoc 0 + 0x18) 4) % 2 ^ 32 < s.readNat (traceLoc 0 + 8) 4)
    ∧ (let s := tst.writeNat (traceLoc 0 + 0x20) 8 10
       s.sampleDue 0 = true ∧ (s.samplePoints 0).find? (fun x => decide ((s.part 0).cursor ≤ x)) = some 0 ∧ (SMap.get ({} : Slot) (s.core 0).slots 0).ctx = some 0)
    ∧ (let s := (tst.writeNat (traceLoc 0 + 0x20) 8 10).setPart 0 { cursor := 1 }
       (s.samplePoints 0).find? (fun x => decide ((s.part 0).cursor ≤ x)) = some 1 ∧ (SMap.get ({} : Slot) (s.core 0).slots 1).ctx = none) := by
  decide +kernel

/-- A boot image of the wrong size; and a module in a boot state with management values. -/
def badImage : BootImage := { flash := leBytes 8 0x4E4C58494D470001, pufOk := true, linksDown := [], ucieOk := true }
def mgmtState (f : Mgmt → Mgmt) (sel : Sel) : State := { tst with mgmt := f tst.mgmt, sel := sel }

theorem witness_CountersAndTime_marks :
    SMap.find (marksState []).gangs 1 = some { placedGang with active := 5, window := true } ∧ (marksState []).turn = []
    ∧ (let m : Mark := ⟨5, 0, 0, 1, 0, 0⟩
       let n : Mark := ⟨2, 0, 0, 2, 0, 0⟩
       SMap.find (marksState [m]).gangs 1 = some { placedGang with active := 5, window := true, marks := [m] }
       ∧ SMap.find (marksState [n]).gangs 1 = some { placedGang with active := 5, window := true, marks := [n] }
       ∧ SMap.find (marksState [m, n]).gangs 1 = some { placedGang with active := 5, window := true, marks := [m, n] }
       ∧ m.kind = 1 ∧ n.kind = 2 ∧ n.core < m.core)
    ∧ (let m : Mark := ⟨2, 0, 0, 1, 0, 0⟩
       let n : Mark := ⟨5, 0, 0, 2, 0, 0⟩
       SMap.find (marksState [m, n]).gangs 1 = some { placedGang with active := 5, window := true, marks := [m, n] } ∧ m.core < n.core)
    ∧ (let s := mgmtState (fun m => { m with conf := { m.conf with potSecure := [(0, true)] } }) {}
       s.potSecure (locOwner (padLoc 0)) = true ∧ locOwner (padLoc 0) < 32 ∧ s.mgmt.conf.secureRead = false ∧ tst.potSecure (locOwner (padLoc 0)) = false) := by
  decide +kernel

/-- The later boot steps depend on opaque values (log 7): no concrete image meets them. -/
theorem witness_ManagementAndDebugger_boot :
    bootFail badImage = some 1 ∧ flashFits badImage = false ∧ tst.bootState = 1 ∧ State.reset.bootState ≠ 1
    ∧ (mgmtState (fun m => { m with mstate := mstateWord 3 0 0 }) {}).bootState = 3
    ∧ (mgmtState (fun m => { m with nonce := leBytes 64 5 }) {}).mgmt.nonce.length = 64
    ∧ (let s := mgmtState (fun m => { m with conf := { m.conf with cap := 100 } }) { a := 101 }; s.mgmt.conf.cap < s.sel.a)
    ∧ (let s := mgmtState (fun m => { m with conf := { m.conf with cap := 100 } }) { a := 89 }; s.sel.a ≤ s.mgmt.conf.cap ∧ 10 * s.sel.a < 9 * s.mgmt.conf.cap)
    ∧ (let s := mgmtState (fun m => { m with below := 10, clock := 1 }) {}; 10 ≤ s.mgmt.below ∧ 0 < s.mgmt.clock)
    ∧ tst.mgmt.below < 10 ∧ (7 < 8 ∧ 0x138 = 0x100 + 8 * 7) := by
  refine ⟨?_, ?_, ?_, ?_, ?_, ?_, ?_, ?_, ?_, ?_, ?_⟩
  case refine_1 => simp [bootFail, show flashFits badImage = false by decide +kernel]
  all_goals decide +kernel

/-- A debugger command for slot 0 of core 0, the thread's state changed. -/
def dbgState (op : Nat) (f : Ctx → Ctx) (buf : List Byte) (sel : Sel) : State :=
  let s := tstCtx f
  { s with mgmt := { s.mgmt with dbgctl := word op, dbgbuf := buf }, sel := sel }

theorem witness_ManagementAndDebugger_debugger :
    (let s := dbgState 1 id [] {}; s.mgmt.dbgOp = 1 ∧ s.dbgThread = some 0 ∧ (s.ctx (.ctx 0 0)).stopped = false ∧ (s.core s.mgmt.dbgCore).secure = false
      ∧ (s.ctx (.ctx 0 0)).atBoundary = true)
    ∧ ((dbgState 1 (fun c => { c with stopped := true }) [] {}).ctx (.ctx 0 0)).stopped = true
    ∧ (let s := { (dbgState 1 id [] {}).setCore 0 { tst.core 0 with secure := true } with sel := {} }
       (s.core s.mgmt.dbgCore).secure = true ∧ s.mgmt.conf.secureRead = false)
    ∧ ((dbgState (1 + 2 ^ 24) id [] {}).dbgThread = none ∧ (dbgState (2 + 2 ^ 24) id [] {}).mgmt.dbgOp = 2)
    ∧ (let s := dbgState 2 (fun c => { c with stopped := true }) [] {}; s.mgmt.dbgOp = 2 ∧ s.dbgThread = some 0 ∧ imgOk s.mgmt.dbgbuf = true)
    ∧ (let c := { tst.ctx (.ctx 0 0) with stopped := true }; imgOk c.image = true)
    ∧ imgOk (leBytes 4608 (2 ^ (8 * 0x138 + 5))) = false := by
  decide +kernel

theorem witness_ErrorsAndLinks :
    (State.reset.link 0).failed = false ∧ (State.reset.link 0).retraining = false ∧ (State.reset.link 0).fails < 15
    ∧ 15 ≤ (({ State.reset with links := [(0, { fails := 15 })] } : State).link 0).fails ∧ (({ State.reset with links := [(36, { retraining := true })] } : State).link 36).retraining = true
    ∧ (tst.boundIn 0 0 = some (.ctx 0 0) ∧ { tst with sel := { inp := .err (.register 0 0 false 3) } }.sel.inp = .err (.register 0 0 false 3))
    ∧ (let s := tstCtx (fun c => { c with bad := RegSet.ofV 3 }); let u := useVec (RegSet.ofV 1) [3, 0] [] [0] 0
       (s.ctx s.cur).bad.meets u.src = true ∧ s.dueAt s.cur (u.src.union u.dst) u.all = none ∧ (s.ctx s.cur).hazard u = false ∧ (s.ctx s.cur).hpend = 0
        ∧ (s.ctx s.cur).pend.meets (u.src.union u.dst) = false)
    ∧ (State.reset.isPart 0 = true ∧ State.reset.hostAll 0 (State.reset.hostEnv 0 0) (3 / 2 ^ 21 + 2) (pad 0) 3 = true
      ∧ State.reset.hostAll 0 (State.reset.hostEnv 0 0) (3 / 2 ^ 21 + 2) noOwner 3 = false) := by
  decide +kernel

/-! ### Further clauses of the statements -/

/-- CLZ with rb = 1. -/
theorem witness_UnaryImmediateAndBitForms_rb :
    (let w : Lane := 0b000100_00000_00000_00001_00000110000
     bits w.toNat 26 6 = 4 ∧ 0x30 ≤ bits w.toNat 0 7 ∧ bits w.toNat 0 7 ≤ 0x38 ∧ bits w.toNat 7 9 ≠ 0) := by
  decide +kernel

theorem witness_ControlTransfers_refused :
    (let s := tstCtx (fun c => { c with enter := .refused cBAD_TARGET 0 })
     s.mayIssue (.ctx 0 0) = true ∧ (s.ctx (.ctx 0 0)).enter = .refused cBAD_TARGET 0 ∧ s.dueAt (.ctx 0 0) (s.ctx (.ctx 0 0)).pend true = none
      ∧ (s.ctx (.ctx 0 0)).pend = {}) := by
  decide +kernel

theorem witness_BreakAndIllegal_word : (tst.withWord 0).clear {} = true := by decide +kernel

theorem witness_PrivAndHazard_messages :
    (∀ u ∈ [useS (3 :: groupOf 4), { dst := gset (3 :: groupOf 4) }, { dst := gset (1 :: groupOf 2) }, useS [1, 2, 3], (useS [1, 3]).waits],
      (windowOnG3.ctx windowOnG3.cur).hazard u = true ∧ u.priv = false ∧ windowOnG3.dueAt windowOnG3.cur (u.src.union u.dst) u.all = none) := by
  decide +kernel

theorem witness_SystemRegisterAccess_counters :
    ((0x035 : Fin 4096).val < 0x040 ∧ 0x040 ≤ (0x042 : Fin 4096).val)
    ∧ (let f : Flight := { flightOf 17 { g := [(3, 5)] } with ready := 0 }
       let s := { tstCore (fun k => { k with flight := [f] }) with sel := { a := 0, b := 0 } }
       (s.core s.sel.a).flight[s.sel.b]? = some f ∧ s.reached f.ready = true ∧ f.unit = 17 ∧ (s.ctx f.thr).live = true ∧ f.writes = { g := [(3, 5)] } ∧ (3 : GReg).val ≠ 0) := by
  decide +kernel

theorem witness_AccessesEnterAndFrame_more :
    ((memState.addr 4 0 8).toNat % 8 = 0 ∧ memState.checkFull memState.cur.core [(memState.addr 4 0 8, 8)] = none ∧ memState.allows permR [(memState.addr 4 0 8, 8)]
      ∧ memState.allows permW [(memState.addr 4 0 8, 8)] ∧ memState.clear (useRR 1 4).waits = true)
    ∧ ((memState.reg 4).toNat % 16 = 0 ∧ memState.allows permRW [(memState.reg 4, 16)] ∧ memState.allows permRW [(memState.reg 4, 4)])
    ∧ (laneState.clear (useVLoad 1 [2] [4, 6] 1 0) = true ∧ laneState.clear { src := useV [1, 2] [4, 6] [2] } = true
      ∧ laneState.allows permRW (laneRanges (activeLanes (laneState.kreg 2)) (fun i => laneState.reg 4 + word i * laneState.reg 0))
      ∧ laneState.allows permRW (laneRanges (activeLanes (laneState.kreg 2)) (fun i => laneState.reg 4 + 4 * (VWord.lane (laneState.vreg 2) i).signExtend 64)))
    ∧ (∃ t, exec (.lds 1 4 0 0 true 0) memState = .next t) ∧ (∃ t, exec (.ldf 1 4 0 0) memState = .next t) ∧ (∃ t, exec (.stf 1 4 0 0) memState = .next t)
    ∧ (∃ t, exec (.afadd 1 4 2 0 .sys) memState = .next t) ∧ (∃ t, exec (.acasQ 1 4 0 0 .sys) memState = .next t)
    ∧ (∃ t, exec (.vlds 1 4 0 0 2) laneState = .next t) ∧ (∃ t, exec (.vsti 1 4 2 2) laneState = .next t) := by
  unfold State.allows
  refine ⟨?_, ?_, ?_, goes_next _ ?_, goes_next _ ?_, goes_next _ ?_, goes_next _ ?_, goes_next _ ?_, goes_next _ ?_, goes_next _ ?_⟩ <;> decide +kernel

theorem witness_MatrixCommands_mdrain :
    (let s := (matState [] [] false).setCtx (.ctx 0 0) (((matState [] [] false).ctx (.ctx 0 0)).setG 10 farHdr)
     s.clear (useMat 10 31) = true ∧ s.mine 1 ∧ s.checkFull s.cur.core [(s.imageAt 10, 1024 * drainSize 9)] = some farHdr)
    ∧ (let s := matState [] [] false; s.checkFull s.cur.core [(s.imageAt 4, 1024 * drainSize 9)] = none) := by
  unfold State.mine
  decide +kernel

theorem witness_EntriesArrive_peer :
    (let b : EByte := { va := pad 0x4000, loc := 0, idx := 0, val := 7 }
     let s := { tst with sel := { inp := .foreign 5 0 9 .engWrite {} [b] } }
     s.sel.inp = .foreign 5 0 9 .engWrite {} (b :: []) ∧ locOwner b.loc ≤ 66 ∧ EKind.engWrite ≠ .msg ∧ EKind.engWrite ≠ .sachet ∧ EKind.engWrite ≠ .ack) := by
  decide +kernel

theorem witness_SchedulerMoves_poison :
    (let s := { spillState with poison := [(areaLoc 0 0 / 16, true)] }
     s.poisoned (areaLoc (clusterOf 0) 0) 4608 = true ∧ (s.core 0).gang = some 1 ∧ SMap.find s.gangs 1 = some placedGang)
    ∧ spillState.poisoned (areaLoc (clusterOf 0) 0) 4608 = false := by
  decide +kernel

theorem witness_GangsEndAndReturn_saved :
    (let g := { runGang false .resumed with saved := [(0, { tvec := 8 })] }; (launchState g).savePoisoned g = none) := by
  decide +kernel

theorem witness_PartitionCommands_drain :
    ((queueCmd 2 1).cmdOp 0 = 1 ∧ (queueCmd 2 1).qState 0 ((queueCmd 2 1).cmdQueue 0) = 2)
    ∧ (let s := (queueCmd 1 1).setPart 0 { drained := [0] }; 0 ∈ (s.part 0).drained ∧ s.qState 0 0 ≠ 0) := by
  decide +kernel

theorem witness_CountersAndTime_parks :
    (tst.parkDue = false)
    ∧ (let s := { schedState [(0, blockedCtx), (1, readyCtx 0)] {} (fun k => { k with slots := [(0, ⟨some 0, 0, some 0⟩)] }) with turn := [] }; s.parkDue = true)
    ∧ (let s := (tst.writeNat (traceLoc 0 + 0x20) 8 10).setCore 0 { (tst.core 0) with posClass := [(0, 0)] }
       (s.samplePoints 0).find? (fun x => decide ((s.part 0).cursor ≤ x)) = some 0 ∧ (SMap.get ({} : Slot) (s.core 0).slots 0).ctx = some 0
        ∧ SMap.get 3 (s.core 0).posClass 0 % 4 ≠ 3)
    ∧ SMap.get 3 (tst.core 0).posClass 0 % 4 = 3
    ∧ (let s := (State.reset.setPart 0 { traces := [leBytes 32 7] }).writeNat (traceLoc 0) 12 (2 ^ 64 + farHdr.toNat)
       s.readNat (traceLoc 0 + 8) 4 = 1 ∧ s.sysLoc { secure := s.potSecure 0, asid := s.readNat (traceLoc 0 + 0xC) 2 } (word (s.readNat (traceLoc 0) 8 + 32 * (0 % 1))) = none)
    ∧ (let s := (State.reset.setPart 0 { traces := [leBytes 32 7] }).writeNat (traceLoc 0) 12 (2 ^ 64 + (pad 0x4000).toNat)
       s.sysLoc { secure := s.potSecure 0, asid := s.readNat (traceLoc 0 + 0xC) 2 } (word (s.readNat (traceLoc 0) 8 + 32 * (0 % 1))) = some (mkLoc ownModule 0 0x4000)) := by
  decide +kernel

theorem witness_ManagementAndDebugger_more :
    (({ a := 1050 } : Sel).a ≥ 1050 ∧ ({ a := 1049 } : Sel).a < 1050) ∧ word 0xF5EE0001 = 0xF5EE0001 ∧ word 0x1F5EE0001 ≠ 0xF5EE0001 ∧ 0x49 % 2 = 1
    ∧ (let s := mgmtState (fun m => { m with conf := { m.conf with potSecure := [(0, true)] } }) {}
       s.coreHidden 0 = true ∧ s.potHidden 0 = true ∧ s.mgmt.conf.secureRead = false ∧ s.potHidden (locOwner (padLoc 512 / 16 * 16)) = false)
    ∧ (mgmtState (fun m => { m with conf := { m.conf with secureRead := true } }) {}).mgmt.conf.secureRead = true
    ∧ (dbgState 1 id [] {}).dbgThread = some 0 ∧ ((dbgState 1 id [] {}).ctx (.ctx 0 0)).spilled = none
    ∧ ((421 : Nat) ∈ [321, 322, 421, 422] ∧ 64 ≤ 64 ∧ (5999 < 6000 ∧ 13500 < 13501)) := by
  decide +kernel

/-- The bytes of the boot image: MAGIC, VERSION, BODYLEN and the body's place, from a flash written out. -/
theorem test_boot_fields :
    (let i : BootImage := { flash := leBytes 8 0x4E4C58494D470001 ++ (leBytes 8 3 ++ (leBytes 8 2 ++ (leBytes 7224 (2 ^ (8 * 7223)) ++ leBytes 16 0x0908070605040302))), pufOk := true, linksDown := [], ucieOk := true }
     flashMagic i = bootMagic ∧ flashVersion i = 3 ∧ flashBodyLen i = 2 ∧ (flashKey i).length = 2592 ∧ (flashSig i).length = 4627 ∧ flashBody i = [2, 3] ∧ flashFits i = true) := by
  decide +kernel

theorem test_host_writes :
    (let s := (mgmtState (fun m => { m with mstate := 1, dbgctl := 0x10 }) {}).hostWrite 0x50 0xF5EE0001; s.isFrozen = true ∧ s.mgmt.freezecmd = 0xF5EE0001)
    ∧ (let s := (mgmtState (fun m => { m with mstate := 1 }) {}).hostWrite 0x50 7; s.isFrozen = false ∧ s.mgmt.freezecmd = 0)
    ∧ (let s := (mgmtState (fun m => { m with dbgctl := 0x10 }) {}).hostWrite 0x2000 0x302000501; s.mgmt.dbgctl = 0x302000511) := by
  decide +kernel

theorem witness_ErrorsAndLinks_host :
    (let s := { State.reset with sel := { inp := .host (.write noOwner 0 [1, 2, 3] false) } }
     s.isPart s.sel.a = true ∧ s.hostAll s.sel.a (s.hostEnv s.sel.a 0) (3 / 2 ^ 21 + 2) noOwner 3 = false) := by
  decide +kernel

/-- Lanes 0 and 63 of a row whose last byte lies in another module than its first. -/
theorem witness_VectorAccesses_row :
    laneState.rowOutside 2 (laneState.addr 4 0 256) = none ∧ (∃ b, laneState.rowOutside 2 (word (2 ^ 64 - 4)) = some b)
    ∧ (let s := laneState.setCtx laneState.cur ((laneState.ctx laneState.cur).setG 9 (word (2 ^ 64 - 4)))
       s.clear (useVLoad 1 [] [9] 2 0) = true ∧ s.clear { src := useV [1] [9] [2] } = true ∧ s.addr 9 0 256 = word (2 ^ 64 - 4)) := by
  refine ⟨by decide +kernel, ⟨(laneState.rowOutside 2 (word (2 ^ 64 - 4))).getD 0, ?_⟩, by decide +kernel⟩
  decide +kernel

theorem witness_FlagsAndFullBits_woken :
    (let s := tstCtx (fun c => { c with woken := some c.pc }); s.clear (useS [1]).waits = true ∧ (s.ctx s.cur).busy ≠ .flag ∧ (s.ctx s.cur).woken = some (s.ctx s.cur).pc)
    ∧ (let s := tstCtx (fun c => { c with busy := .flag }); s.clear (useS [1]).waits = true ∧ (s.ctx s.cur).busy = .flag) := by
  decide +kernel

theorem witness_BarriersExitYield_torn :
    (let s := barState (.arriving .barb) .bound (some 5)
     (s.ctx (.ctx s.sel.a s.sel.b)).busy = .arriving .barb ∧ (s.ctx (.ctx s.sel.a s.sel.b)).stopped = false ∧ s.egEmpty (.ctx s.sel.a s.sel.b) = true
      ∧ s.probing (.ctx s.sel.a s.sel.b) = false ∧ (s.core s.sel.a).gang ≠ none ∧ (s.gangOf s.sel.a).bind Gang.torn = some 5)
    ∧ (let g := { readyGang 2 false with peers := [(1, .gone)] }; 1 < g.record.size ∧ 1 ≠ g.record.rank ∧ SMap.get .unknown g.peers 1 = .gone ∧ 1 ∉ ({} : Bar).peers) := by
  decide +kernel

theorem witness_EntriesArrive_elsewhere :
    (let e := storeEntry 7 .channel; let s := entState [e] [] { a := 7, flag := true }
     s.sel.inp = .none ∧ s.entry 7 = some e ∧ s.mayArrive e = true ∧ e.packet = false ∧ s.linkHeld e = false ∧ s.sel.flag = true ∧ e.tgt / 2 ^ 20 ≠ ownModule ∧ e.kind ≠ .probe) := by
  decide +kernel

/-- Four bytes of one word, for an engine's addition. -/
def addBytes : List EByte := (rangeFrom 0 4).map (fun i => byteAt i i false)

theorem witness_BytesPerform_engine :
    (∀ k ∈ [EKind.engRead, .engClear, .engWrite], let e := { storeEntry 7 .ingress with kind := k }; let s := entState [e] [] { a := 7 };
      s.entry 7 = some e ∧ e.bytes[s.sel.b]? = some (byteAt 0 0 false) ∧ s.byteFree e (byteAt 0 0 false) = true ∧ s.isPoison (byteAt 0 0 false).loc = false)
    ∧ (let s := { entState [] [] {} with poison := [((byteAt 0 0 false).loc / 16, true)] }; s.isPoison (byteAt 0 0 false).loc = true)
    ∧ (let e := { storeEntry 7 .ingress with kind := .engAdd, bytes := addBytes }; let s := entState [e] [] { a := 7 }
       s.entry 7 = some e ∧ e.bytes[s.sel.b]? = some (byteAt 0 0 false) ∧ e.bytes.filter (fun x => x.idx / 4 == 0) = [byteAt 0 0 false, byteAt 1 1 false, byteAt 2 2 false, byteAt 3 3 false]
        ∧ (byteAt 3 3 false).loc = (byteAt 0 0 false).loc + 3 ∧ (∀ x ∈ addBytes, s.byteFree e x = true) ∧ s.eccOf e addBytes = none) := by
  decide +kernel

/-- An FWAIT that waits at flag word 0 of core 0, clearing or not. -/
def flagWaiter (cl : Bool) (due : Nat) : Entry := { flagEntry (.fwait cl) with id := 10 + due, phase := .waitlist, due := due }

theorem witness_WholePerforms_wakes :
    (let s := { entState [flagWaiter false 1, flagWaiter true 2, flagWaiter false 3, flagEntry .fset] [] { a := 7 } with flags := [] }
     PerformsWhole s (flagEntry .fset) ∧ (∀ d ∈ [flagWaiter false 1, flagWaiter true 2, flagWaiter false 3], d ∈ s.ents ∧ d.waitsAt (flagEntry .fset).flagLoc = true ∧ d.id ≠ 7))
    ∧ (let e := { storeEntry 7 .ingress with kind := .atomic 10 1 5 1 }; let s := entState [e] [] { a := 7 };
       PerformsWhole s e ∧ e.bytes = byteAt 0 0 false :: [] ∧ atomicNew 10 1 (s.readNat (byteAt 0 0 false).loc 1) 5 1 = none)
    ∧ (∀ k ∈ [EKind.ftst, .fwait true, .expect 1], let e := flagEntry k; let s := { flagEntState k 1 with poison := [(flagLoc 0 0 / 16, true)] }
       PerformsWhole s e ∧ ∃ va, s.eccOf e e.bytes = some va) := by
  refine ⟨by decide +kernel, by decide +kernel, ?_⟩
  intro k hk
  simp only [List.mem_cons, List.not_mem_nil, or_false] at hk
  rcases hk with rfl | rfl | rfl <;> exact ⟨by decide +kernel, 0, by decide +kernel⟩

theorem witness_SchedulerMoves_since :
    (let s := { schedState [(0, { blockedCtx with wait := waitWord 6 0 0 0 0 0, since := 4, busy := .reply }), (1, readyCtx 0)] {} (fun k => { k with slots := [(0, ⟨some 0, 0, some 0⟩)] }) with time := 5 }
     s.stillBlocked (.ctx 0 0) = true ∧ (s.ctx (.ctx 0 0)).since ≠ s.time ∧ s.boundIn 0 0 = some (.ctx 0 0) ∧ (s.core 0).readyAbove 0 = true) := by
  decide +kernel

/-- An acknowledgement for thread 0 in slot 0. -/
def ackEntry : Entry := { startEntry 1 with kind := .ack, pay := [word (2 ^ 45), 0, 0, 0, 0, 0] }

theorem witness_MessagesArrive_acks :
    (let s := { inbox 0 with ents := [ackEntry] }
     s.entry 7 = some ackEntry ∧ s.mayArrive ackEntry = true ∧ (word (2 ^ 45)).bits 45 2 ≠ 0 ∧ (word (2 ^ 45)).bits 44 1 = 0 ∧ (s.core 0).gang = some ackEntry.gang
      ∧ s.gangLeaving 0 = false ∧ s.gangHere 0 = true ∧ (s.core 0).named 0 0 = some 0)
    ∧ (let s := { (inbox 0).setGang 1 { placedGang with halting := true } with ents := [ackEntry] }; s.mayArrive ackEntry = true ∧ s.gangLeaving 0 = false ∧ s.gangHere 0 = false) := by
  decide +kernel

theorem witness_MatrixCommands_images :
    (let s := matState [] [] false
     s.clear (useMat 9 31) = true ∧ s.mine 1 ∧ s.mine 8 ∧ s.mayTake 8 ∧ s.checkFull s.cur.core [(s.imageAt 9, 1024 * drainSize 9)] = none
      ∧ s.allows permW [(s.imageAt 9, 1024 * drainSize 9)] ∧ s.imageFirstOutside 0 (s.imageAt 9) (1024 * drainSize 9) = some (pad 0x80000)
      ∧ s.allows permR [(s.imageAt 9, 256)] ∧ s.allows permR [(s.imageAt 9, 64)] ∧ s.imageFirstOutside 0 (s.imageAt 9) 256 = some (pad 0x80000)
      ∧ s.imageFirstOutside 0 (s.imageAt 9) 64 = some (pad 0x80000) ∧ s.allows permR [(s.imageAt 9, imageBytes 7)] ∧ s.imageFirstOutside 0 (s.imageAt 9) (imageBytes 7) = some (pad 0x80000)) := by
  unfold State.mine State.allows
  refine ⟨?_, ?_, ?_, ?_, ?_, ?_, ?_, ?_, ?_, ?_, ?_, ?_, ?_⟩
  case refine_4 => exact ⟨by decide +kernel, fun x up h => by
    rw [show SMap.find ((matState [] [] false).core (matState [] [] false).cur.core).holders 8 = some (0, false) by decide +kernel] at h
    cases h; decide +kernel⟩
  all_goals decide +kernel

theorem witness_MatrixMoves_ring :
    (let s := (cmdState [cmdOf (.rpass 0) .arrived] {} (fun k => { k with stream := [5], bl0Full := true })).setCore (ringNext 0) {}
     s.rpassAt s.sel.a = some (cmdOf (.rpass 0) .arrived) ∧ (s.core s.sel.a).bl0Full = true ∧ (s.core (ringNext s.sel.a)).bl1Full = false ∧ (s.core (ringNext s.sel.a)).bl0Full = false) := by
  decide +kernel

theorem witness_MatrixMoves_drain :
    (∀ b : Bool, let m := cmdOf (.mdrain 1 9 4 0) .finished
       let s := cmdState [m] {} (fun k => { k with stream := [5], twin := b, tiles := [(1024, 7)] })
       s.streamAt s.sel.a s.sel.b = some m ∧ m.out = 0 ∧ m.failed = false ∧ (s.core s.sel.a).twinMismatch 1 = b)
    ∧ (let m := cmdOf (.mdrain 1 9 4 0) .arrived; let s := cmdState [m] { a := 5 } (fun k => { k with stream := [5] })
       SMap.find s.cmds s.sel.a = some m ∧ m.out = 0 ∧ m.line = 0 ∧ m.id ∈ (s.core m.core).stream ∧ s.matFree m.core m = true ∧ (s.core m.core).twinMismatch 1 = false)
    ∧ (let e := { cmdOf (.mdrain 2 0 4 0) .arrived with id := 4 }; let m := cmdOf (.mma 2 0 0) .finished; let k := tst.core 0
       (matResource (.mlda 0 1 0) ≠ 0 ∧ matResource (.mldb 0 1 0) = matResource (.mlda 0 1 0)) ∧ (∃ x ∈ k.matReads e, x ∈ k.matWrites m)
        ∧ (∃ x ∈ k.matWrites m, x ∈ k.matReads e ∨ x ∈ k.matWrites e) ∧ k.twin = false) := by
  refine ⟨?_, by decide +kernel, ?_⟩
  · intro b; cases b <;> decide +kernel
  · exact ⟨by decide +kernel, ⟨2, by decide +kernel⟩, ⟨2, by decide +kernel⟩, by decide +kernel⟩

theorem witness_MatrixMoves_msca : (let m := { cmdOf (.msca 1 0 0 4 0) .finished with buf := List.replicate 64 (some 127) }
    (∀ i, i < 32 → ((m.buf.getD i none).getD 0).toNat ≠ 255 ∧ ((m.buf.getD i none).getD 0).toNat + ((m.buf.getD (32 + i) none).getD 0).toNat = 254))
    ∧ (((List.replicate 64 (some (255 : Byte))).getD 0 none).getD 0).toNat = 255 := by
  decide +kernel

theorem witness_BlockCommands_failed :
    (let c := { pushBlock 0 with ecc := some 4 }; let s := blockState c
     SMap.find s.cmds s.sel.a = some c ∧ c.stage = .block ∧ (s.ctx (.ctx c.core c.ctx)).busy = .block c.id ∧ c.failed = true) := by
  decide +kernel

/-- The command at the head of core 0's tray queue, behind a command that holds its SID or none. -/
def departState (c : Cmd) (holder : Option Cmd) : State :=
  (cmdState ([c] ++ holder.toList) {} (fun k => { k with tq := [5, 6] })).setTray 0 { subs := holder.toList.map (fun m => (0, m.id)) }

theorem witness_EngineMoves_departs :
    (∀ i ∈ [Instr.trayReduce 0 0 true 0, .stvec 0 0 0, .allred 0 0 0], let c := cmdOf i .queued; let s := departState c none
       (s.core s.sel.a).tq = 5 :: [6] ∧ SMap.find s.cmds 5 = some c ∧ c.pot = 0)
    ∧ ((cmdOf (.stvec 0 0 0) .queued).caddy ≠ none ∧ (cmdOf (.allred 0 0 0) .queued).isColl = true)
    ∧ (∀ i ∈ [Instr.traySub 0 0 true 0, .trayUnsub 0 0 true 0], ∀ g ∈ [1, 2], let c := cmdOf i .queued; let m := { cmdOf (.traySub 0 0 true 0) .begun with id := 4, gang := g }
       let s := departState c (some m)
       c.sid = 0 ∧ (SMap.find (s.tray c.pot).subs c.sid).bind (SMap.find s.cmds) = some m ∧ m.id ≠ 5 ∧ (m.gang = c.gang ∨ m.gang ≠ c.gang)
        ∧ ((SMap.find ((departState c none).tray c.pot).subs c.sid).bind (SMap.find (departState c none).cmds)) = none) := by
  decide +kernel

theorem witness_EngineMoves_completes :
    (∀ i ∈ [Instr.traySub 0 0 true 0, .trayUnsub 0 0 true 0, .allred 0 0 0, .stvec 0 0 0], isTrayInstr i = true)
    ∧ (let c := cmdOf (.traySub 0 0 true 0) .flagging; let m := { cmdOf (.trayUnsub 0 0 true 0) .arrived with id := 4, aux := [5] }
       let s := cmdState [c, m] { a := 5 } id
       SMap.find s.cmds 5 = some c ∧ SMap.find s.cmds m.id = some m ∧ m.id ≠ c.id ∧ m.aux = [c.id] ∧ m.stage = .arrived ∧ c.out = 0)
    ∧ (∀ p ∈ [Stage.finished, .flagging], let c := cmdOf (.xpushr 0 0 3) p; let s := cmdState [c] { a := 5 } id; SMap.find s.cmds s.sel.a = some c ∧ c.out = 0)
    ∧ (∀ i ∈ [Instr.xpush 0 0 3, .trayGather 0 0 true 0, .trayScatter 0 0 true 0, .trayReduce 0 0 true 0], let c := cmdOf i .begun; let s := cmdState [c] { a := 5 } id
        SMap.find s.cmds s.sel.a = some c ∧ c.out = 0 ∧ c.stage = .begun)
    ∧ (let c := { cmdOf (.trayGather 0 0 true 0) .begun with buf := [none], out := 1 }
       let e := { egEntry with src := .cmd 5, phase := .reply, kind := .engRead, bytes := [byteAt 0 0 true] }
       let s := { cmdState [c] { a := 7 } id with ents := [e] }
       s.entry s.sel.a = some e ∧ SMap.find s.cmds c.id = some c ∧ e.ecc = none ∧ (∀ x ∈ e.bytes, x.idx < c.buf.length)) := by
  decide +kernel

/-- A block that gives a push one row of 16 bytes, a gather or scatter one element of 4 bytes below the limit, and a reduction one element of two buffers. -/
def planBlock (i : Instr) (line : Nat) : Cmd :=
  { cmdOf i .begun with line := line, block := leBytes 8 (pad 0x4000).toNat ++ (leBytes 8 64 ++ (leBytes 8 (2 ^ 37 + 16) ++ (leBytes 8 (2 ^ 44 + 2 ^ 32 + 16) ++ leBytes 32 1))) }

theorem witness_EngineMoves_plans :
    (∀ c ∈ [planBlock (.xpush 0 0 3) 1, planBlock (.xpushr 0 0 3) 0], (c.dw 0x18).toNat % 2 ^ 24 / 16 * 16 ≠ 0 ∧ 0 < (c.dw 0x18).toNat / 2 ^ 44)
    ∧ (let c := { planBlock (.xpushr 0 0 3) 1 with buf := (leBytes 8 (2 ^ 32 * 16)).map some }; c.num' 0 4 = some 0 ∧ c.num' 4 4 = some 16 ∧ c.line = 3 * 0 + 1)
    ∧ (let c := { planBlock (.xpushr 0 0 3) 2 with aux := [5], buf := List.replicate 5 (some 1) }; c.aux = [5] ∧ 5 ≤ (c.dw 0x18).toNat % 2 ^ 24 / 16 * 16 ∧ c.buf.length = 5)
    ∧ (let c := { planBlock (.trayGather 0 0 true 0) 1 with buf := (leBytes 4 3).map some }
       0 < (c.dw 0x20).toNat % 2 ^ 32 ∧ c.num' 0 4 = some 3 ∧ (3 + 1) * (4 * 2 ^ ((c.dw 0x20).toNat / 2 ^ 32 % 8)) ≤ (c.dw 8).toNat % 2 ^ 45)
    ∧ (let c := { planBlock (.trayScatter 0 0 true 0) 1 with buf := (leBytes 8 3).map some }
       (c.dw 0x20).toNat.testBit 40 = false ∧ c.num' 0 4 = some 3 ∧ c.at 4 = some 0)
    ∧ (let c := { planBlock (.trayReduce 0 0 true 0) 1 with buf := List.replicate 512 (some 0) }
       0 < (c.dw 0x18).toNat % 2 ^ 32 ∧ (c.dw 0x18).toNat / 2 ^ 32 % 8 + 1 = 2 ∧ c.num' 256 4 = some 0) := by
  decide +kernel

/-- LDNEAR and IXSNAP at their resolution, with one shard's answer. -/
def searchCmd (i : Instr) (code : Nat) : Cmd := { cmdOf i .resolving with hidx := 3, data := caddyDesc0, answers := [{ shard := 0, code := code, stamp := 9, found := [(0x3F800000, 4)] }] }

theorem witness_Handles_search :
    (∀ i ∈ [Instr.ldnear 0 0 1 0, .ixsnap 0 0 1 0], ∀ k ∈ [0, 4], let m := searchCmd i k
      let s := { (handleState .pending m) with cmds := [(5, m)] }
      SMap.find s.cmds s.sel.a = some m ∧ m.id = s.sel.a ∧ ((s.core m.core).handle m.hidx).st = .pending ∧ SMap.find (s.core m.core).ctxs m.ctx ≠ none
        ∧ (s.core m.core).gang = some m.gang ∧ m.caddyCode = k)
    ∧ (0 < descShards caddyDesc0 ∧ (searchCmd (.ixsnap 0 0 1 0) 0).answers.find? (fun a => a.shard == 0) = some { shard := 0, code := 0, stamp := 9, found := [(0x3F800000, 4)] }) := by
  decide +kernel

theorem witness_TablePort_block :
    (let c := { cmdOf (.stvec 0 0 5) .begun with block := leBytes 64 1, ra := pad 0x4000 }; let s := cmdState [c] {} id
     (5, c) ∈ s.cmds ∧ c.gang = 1 ∧ c.stage ≠ .block ∧ c.block.length = 64 ∧ s.meetsRange placedLease (c.ra, 64) = true) := by
  decide +kernel

theorem witness_CollectiveMoves_joined :
    (let c := { collCmd 1 .queued 0 with fresh := true }; let s := cmdState [c] { a := 5 } (fun k => { k with tq := [5] })
     SMap.find s.cmds s.sel.a = some c ∧ (s.core c.core).tq.head? = some c.id ∧ c.fresh = true)
    ∧ (let c := collCmd 2 .arrived 0; let d := { c with id := 6, data := [0, 0, 9, 1, 2] }; let s := cmdState [c, d] { a := 5 } id
       c.info.n = 2 ∧ c.info.q = 0 ∧ d.info.q = 1 ∧ d.header = c.header ∧ s.collMates c = [c, d] ∧ ((s.collMates c).map Cmd.id).Nodup) := by
  decide +kernel

theorem witness_CaddyMoves_order :
    (let c := caddyCmd (.ixdel 0 0 5) .arrived 0 3 []; let d := { c with id := 4, core := 1 }; let s := (cmdState [c, d] { a := 5 } id).setTray 0 { home := [4, 5] }
     SMap.find s.cmds s.sel.a = some c ∧ (s.tray (potOf c.core)).home = [4] ++ c.id :: [] ∧ c.id ∉ [4] ∧ SMap.find s.cmds 4 = some d ∧ d.core ≠ c.core)
    ∧ (let c := caddyCmd (.ixdel 0 0 5) .arrived 0 3 []; let d := { c with id := 4 }; let s := (cmdState [c, d] { a := 5 } id).setTray 0 { home := [4, 5] }
       SMap.find s.cmds 4 = some d ∧ d.core = c.core)
    ∧ (∀ b : Bool, let c := { caddyCmd (.stvec 0 0 5) .begun 1 3 [] with line := 1, rnr := if b then some 0 else none }; let s := trayState c { home := [5] } { a := 5 }
       SMap.find s.cmds s.sel.a = some c ∧ (s.tray (potOf c.core)).home = [] ++ c.id :: [] ∧ c.out = 0 ∧ c.failed = b) := by
  refine ⟨by decide +kernel, by decide +kernel, ?_⟩
  intro b; cases b <;> decide +kernel

theorem witness_CaddyMoves_result :
    (let c := caddyCmd (.stvec 0 0 5) .begun 2 3 [{ shard := 0, code := 0, evals := 7 }]; c.phase ≠ 3 ∧ (∀ a ∈ c.answers, a.code = 0) ∧ (c.answers.map Answer.evals).sum = 7)
    ∧ (let c := caddyCmd (.stvec 0 0 5) .begun 2 3 [{ shard := 0, code := 0 }, { shard := 1, code := 4 }]; (∀ a ∈ c.answers, a.code ≠ 6) ∧ ∃ a ∈ c.answers, a.code ≠ 0)
    ∧ (∃ a ∈ (caddyCmd (.stvec 0 0 5) .begun 2 3 [{ shard := 0, code := 6 }]).answers, a.code = 6)
    ∧ (let c := caddyCmd (.stvec 0 0 5) .begun 2 3 []
       let s := (trayState c { shards := [(5, { shard0 with queue := [5] })] } { a := 0, b := 5, c := 0 }).setPart 0 { clearing := [(5, 0, 0)] }
       (s.part 0).clearing.find? (fun x => x.1 == s.sel.b && x.2.1 == s.sel.c) = some (5, 0, 0) ∧ 5 ∈ (SMap.get {} (s.tray 0).shards s.sel.b).queue ∧ SMap.find s.cmds 5 = some c) := by
  decide +kernel

/-- Gang 1's spilled context, waiting in the first cluster's run-queue area with its image there, and no position left in the cycle. -/
def spillCycle : State :=
  let s := (schedState [(1, { spilledCtx with aged := 6 })] {} (fun k => { k with slots := (rangeFrom 0 15).map (fun i => (i, ⟨some 9, 0, none⟩)) })).writeLocs (areaLoc 0 0 + 0x140) (leBytes 8 (2 ^ 20 * 6 + 3))
  { s with turn := [] }

theorem witness_CountersAndTime_cycle :
    (spillCycle.turn = [] ∧ spillCycle.queueDue = false ∧ spillCycle.unitDue = false ∧ spillCycle.memoryWf
      ∧ spillCycle.cores.flatMap (fun p => (p.2.ctxs.filter (fun q => q.2.spilled.isSome && q.2.st == .ready)).map (fun q => 0x140 + areaLoc (clusterOf p.1) (q.2.spilled.getD 0))) = [0x140 + areaLoc 0 0]
      ∧ ∀ o < 8, ¬ (locOwner (0x140 + areaLoc 0 0 + o) < 32 ∧ ctlBase ≤ locOff (0x140 + areaLoc 0 0 + o)))
    ∧ (schedState [(1, readyCtx 0)] {} id).queueDue = true := by
  unfold State.memoryWf
  decide +kernel

theorem witness_ManagementAndDebugger_view :
    (let g := { placedGang with record := { placedGang.record with bytes := leBytes 192 0 } }
     let s := { (mgmtState (fun m => { m with conf := { m.conf with potSecure := [(1, true)] } }) {}).setGang 1 g with owners := [(33, {}), (32, {})] }
     s.potHidden 0 = false ∧ s.potHidden 1 = true ∧ (SMap.find s.owners (32 + 1)).isSome = true ∧ (s.debugView.gangs.map Prod.fst).contains 1 = true
      ∧ s.debugView.owners.map Prod.fst = [32])
    ∧ (let s := dbgState 2 (fun c => { c with stopped := true }) (({ (tst.ctx (.ctx 0 0)) with pc := pad 0x2008 } : Ctx).image) {}
       s.dbgThread = some 0 ∧ (s.ctx (.ctx 0 0)).st = .bound ∧ imgDw s.mgmt.dbgbuf 0 ≠ (s.ctx (.ctx 0 0)).pc ∧ imgOk s.mgmt.dbgbuf = true) := by
  decide +kernel

theorem witness_StepRunsDecodedOrStops_outside : ∀ i ∈ [Instr.reset, .attreq, .freeze, .freezecmd, .registerWrite, .powerSample, .thermalTrip, .clockStepUp],
    outside i = true ∧ eventRow i = true ∧ placeOf i {} = none := by
  decide +kernel

/-! ### The whole machine -/

/-- A module whose next move is the attempt of thread 0 at ADD g1, g2, g3. -/
def addState : State :=
  let s := State.reset.place 0b000100_00001_00010_00011_00000000000
  (s.setCtx (.ctx 0 0) { s.ctx (.ctx 0 0) with pc := placedHdr + 8, blk := ⟨placedHdr, 1, 0, 0⟩, enter := .none })

/-- What a fetch reads at the program counter. -/
def fetched (s : State) (t : Thr) : Option Lane := (s.fetchLine t.core (s.ctx t).pc).2.map (fun c => BitVec.ofNat 32 (c.at (s.ctx t).pc 4))

theorem fetched_line (s : State) (t : Thr) (w : Lane) (h : fetched s t = some w) :
    ∃ s1 c, s.fetchLine t.core (s.ctx t).pc = (s1, some c) ∧ BitVec.ofNat 32 (c.at (s.ctx t).pc 4) = w := by
  unfold fetched at h
  rcases hf : s.fetchLine t.core (s.ctx t).pc with ⟨s1, _ | c⟩
  · rw [hf] at h; cases h
  · rw [hf] at h; exact ⟨s1, c, rfl, Option.some.inj h⟩

theorem witness_StepRunsDecodedOrStops :
    (addState.agenda = .issue (.ctx 0 0) :: [] ∧ addState.running = true ∧ tst.mayIssue (.ctx 0 0) = true ∧ (addState.ctx (.ctx 0 0)).enter = .none
      ∧ addState.dueFirst (.ctx 0 0) = none ∧ addState.itsTurn (.ctx 0 0) = true ∧ addState.turn.contains (turnOf (.ctx 0 0)) = true ∧ addState.resultDue 0 = false ∧ (unitState 0 {}).resultDue 0 = true ∧ (addState.ctx (.ctx 0 0)).openWaits.meets (addState.ctx (.ctx 0 0)).pend = false
      ∧ tst.checkAccess 0 fetchPerm [((addState.ctx (.ctx 0 0)).pc, 4)] = none)
    ∧ (∃ s1 c, addState.fetchLine 0 (addState.ctx (.ctx 0 0)).pc = (s1, some c) ∧ BitVec.ofNat 32 (c.at (addState.ctx (.ctx 0 0)).pc 4) = (0x10221800 : Lane))
    ∧ (decode 0x10221800 = .ok (.add 1 2 3) ∧ legalInKind (addState.ctx (.ctx 0 0)).blk.kind (.add 1 2 3) = true) := by
  refine ⟨by decide +kernel, fetched_line addState (.ctx 0 0) _ ?_, by decide +kernel⟩
  decide +kernel

theorem witness_StepRunsDecodedOrStops_rest :
    (ownerOf placedHdr < 32 ∧ tst.icache = [] ∧ (tst.fetchLoc 0 placedHdr).2 = some (mkLoc ownModule 0 0x1000))
    ∧ ((tstCtx (fun c => { c with enter := .start, pc := placedHdr })).ctx (.ctx 0 0)).enter = .start
    ∧ okBlock (tst.checkTarget 0 placedHdr (admits (.ctx 0 0) .start)) = some ⟨placedHdr, 1, 0, 0⟩ ∧ (⟨placedHdr, 1, 0, 0⟩ : Block).legal = true
    ∧ (tst.running = true ∧ tst.agenda = [] ∧ tst.autoMove = none ∧ tst.turn = 0 :: [] ∧ (0 : Nat) < 2 ^ 16 ∧ tst.pos < 15 ∧ tst.boundIn 0 tst.pos = some (.ctx 0 0) ∧ tst.holdClass (.ctx 0 0) = none)
    ∧ (eventRow .depart = true ∧ placeOf .depart {} = none ∧ { addState with pos := 1 }.itsTurn (.ctx 0 0) = false ∧ { addState with turn := [] }.turn.contains (turnOf (.ctx 0 0)) = false)
    ∧ (mgmtState (fun m => { m with mstate := mstateWord 3 0 0 }) {}).bootState = 3
    ∧ (State.reset.bootState ≠ 1 ∧ State.reset.bootState ≠ 3 ∧ State.reset.agenda = [] ∧ outside .depart = false) := by
  decide +kernel

theorem witness_StepKeepsMemoryWf : tst.memoryWf ∧ ∃ t, step addState = .next t := by
  refine ⟨by unfold State.memoryWf; decide +kernel, goes_next _ ?_⟩
  decide +kernel

theorem witness_RoundTrip : wf (.vcvt 2 5 1 0 0 .rne 12) = true ∧ encode (.vcvt 2 5 1 0 0 .rne 12) = some 0b100111_0010_0101_00_01_000_0000_00_01100 := by decide +kernel

/-! ## Single steps, with results taken from the rules by hand -/

/-- The state after an instruction. -/
def after (i : Instr) (s : State) : State :=
  match exec i s with
  | .next t => t
  | _ => s

/-- g1 after an instruction on g2 and g3. -/
def g1After (i : Instr) (a b : Word) : Word := (after i (tstG [(2, a), (3, b)])).reg 1

/-- R97: the sum wraps; R93: a word result is sign-extended. -/
theorem test_add_wraps : g1After (.add 1 2 3) 0xFFFFFFFFFFFFFFFF 1 = 0 ∧ g1After (.addw 1 2 3) 0x7FFFFFFF 1 = 0xFFFFFFFF80000000 := by decide +kernel

/-- R79: a write of g0 is discarded, and the program counter advances. -/
theorem test_add_g0 : (after (.add 0 2 3) (tstG [(2, 5), (3, 6)])).reg 0 = 0 ∧ ((after (.add 0 2 3) (tstG [(2, 5)])).ctx (.ctx 0 0)).pc = placedHdr + 16 := by decide +kernel

/-- R98: shifts by register use the low six bits of the count. -/
theorem test_shift_counts : g1After (.shl 1 2 3) 1 64 = 1 ∧ g1After (.sra 1 2 3) 0x8000000000000000 63 = 0xFFFFFFFFFFFFFFFF ∧ g1After (.ror 1 2 3) 1 1 = 0x8000000000000000 := by
  decide +kernel

/-- R99: SELNZ and SELZ choose by rd's old value. -/
theorem test_selnz : (after (.selnz 1 2 3) (tstG [(1, 7), (2, 5), (3, 6)])).reg 1 = 5 ∧ (after (.selnz 1 2 3) (tstG [(2, 5), (3, 6)])).reg 1 = 6 := by decide +kernel

/-- R101: the high halves of a product. -/
theorem test_mulh : g1After (.mulh 1 2 3) 0xFFFFFFFFFFFFFFFF 0xFFFFFFFFFFFFFFFF = 0 ∧ g1After (.mulhu 1 2 3) 0xFFFFFFFFFFFFFFFF 0xFFFFFFFFFFFFFFFF = 0xFFFFFFFFFFFFFFFE := by
  decide +kernel

/-- R102, R436: the result of a divide is in flight, due 40 cycles later. -/
theorem test_div : (((after (.div 1 2 3 0) (tstG [(2, 0x8000000000000000), (3, 0xFFFFFFFFFFFFFFFF)])).core 0).flight.map (fun f => (f.writes.g, f.ready))) =
    [([(1, 0x8000000000000000)], 40)] := by decide +kernel

/-- R103: leading zeros of 0, and the bytes of a word reversed. -/
theorem test_bits : g1After (.clz 1 2) 0 0 = 64 ∧ g1After (.bswap 1 2) 0x0102030405060708 0 = 0x0807060504030201 := by decide +kernel

/-- R107: INSH replaces one halfword of rd. -/
theorem test_insh : (after (.insh 1 2 0xABCD) (tstG [(1, 0x1111222233334444)])).reg 1 = 0x1111ABCD33334444 := by decide +kernel

/-- R109, R30: a branch not taken falls behind its one-word block, to the next header. -/
theorem test_branch_not_taken : ((after (.bne 0 0 1) tst).ctx (.ctx 0 0)).pc = placedHdr + 16 ∧ ((after (.beq 0 0 0) tst).ctx (.ctx 0 0)).pc = placedHdr := by decide +kernel

/-- R111: JAL links the header behind the block. -/
theorem test_jal : (after (.jal 1 0) tst).reg 1 = placedHdr + 16 := by decide +kernel

/-- R116: 1.5 + 2.25 = 3.75, and 1 / 3 is inexact. -/
theorem test_fadd : g1After (.fadd 1 2 3 .rne) 0x3FC00000 0x40100000 = 0x40700000 ∧ (fdiv32 .rne 0x3F800000 0x40400000).1 = 0x3EAAAAAB := by decide +kernel

/-- R119: -1.5 converts to -1 toward zero. -/
theorem test_fcvt : g1After (.fcvtLS 1 2 .rtz) 0xBFC00000 0 = 0xFFFFFFFFFFFFFFFF := by decide +kernel

/-- R121, R215, R220: a load leaves one entry for its bank group in the egress and its register pending. -/
theorem test_load_issues : ((after (.ld 1 4 0 3 false 1) memState).ents.map (fun e => e.bytes.map (fun b => b.va))) =
    [(rangeFrom 0 8).map (fun i => pad (0x4008 + i))] ∧ ((after (.ld 1 4 0 3 false 1) memState).ctx (.ctx 0 0)).pend = RegSet.ofG 1 := by decide +kernel

/-- R217: a store byte performs in memory. -/
theorem test_store_performs : (let s := after (.st 7 4 0 0) memState
    (after .perform (after .arrive (after .depart { s with sel := { a := (s.ents.map Entry.id).headD 0 } }))).readLoc (mkLoc ownModule 0 0x4000)) = 1 := by decide +kernel


/-- R143: BRK enters the handler in supervisor mode with its word's field as the datum. -/
theorem test_brk : (let c := (after (.brk 5) trapState).ctx (.ctx 0 0); (c.cause, c.vaddr, c.epc, c.sup, c.pc)) = (word cBRK, 5, placedHdr + 8, true, pad 0x2000) := by
  decide +kernel

/-- R158, R153: a vector sum goes to unit 0 with every lane computed. -/
theorem test_vfadd : (((after (.vfadd 1 2 2 0 0 .rne) (tstCtx (fun c => c.setV 2 (vOfLanes (List.replicate 64 0x3F800000))))).core 0).vq.map (fun f => f.writes.v)) =
    [[(1, vOfLanes (List.replicate 64 0x40000000))]] := by decide +kernel

/-- R335: PRIO gives the old priority; a supervisor thread takes the new one. -/
theorem test_prio : (after (.prio 1 2) (tstG [(2, 9)])).reg 1 = 0 ∧ ((after (.prio 1 2) (tstCtx (fun c => { c.setG 2 9 with sup := true }))).ctx (.ctx 0 0)).prio = 9 := by decide +kernel

/-- R383: LDNEAR's result registers take what was found, with the fill behind it. -/
theorem test_ldnear_registers :
    (let m := { searchCmd (.ldnear 0 0 1 0) 0 with block := leBytes 64 (2 ^ 65) }
     let t := after .handleResolution { (handleState .pending m) with cmds := [(5, m)] }
     (VWord.lane ((t.ctx (.ctx 0 0)).vr 2) 0, VWord.lane ((t.ctx (.ctx 0 0)).vr 3) 0, VWord.lane ((t.ctx (.ctx 0 0)).vr 2) 1, VWord.lane ((t.ctx (.ctx 0 0)).vr 3) 1)) =
    (0x3F800000, 4, 0x7FC00000, 0xFFFFFFFF) := by
  decide +kernel

/-- R376: RESULT of an insertion: the code, the shard and the evaluations. -/
theorem test_result_word : (caddyCmd (.stvec 0 0 5) .begun 2 3 [{ shard := 0, code := 0, evals := 7 }]).resultWord = 7 * 2 ^ 32 := by decide +kernel

/-- R315, R88: one more cycle counts in the image of a spilled READY context. -/
theorem test_cycle_counts_in_image : (spillCycle.nextCycle).readNat (areaLoc 0 0 + 0x140) 8 = 2 ^ 20 * 7 + 3 := by decide +kernel

/-! ## Witnesses of the waits and of what is left behind -/

/-- A result due for a thread that is gone. -/
theorem witness_VectorUnits_gone :
    (let s := unitState 0 {}
     let s := s.setCtx (.ctx 0 0) { s.ctx (.ctx 0 0) with st := .exited }
     (s.core s.sel.a).flight[s.sel.b]? = some (flightOf 0 {}) ∧ (s.ctx (flightOf 0 {}).thr).live = false)
    ∧ ((0 : Nat) / 2 ^ 16 ≠ 1 ∧ (0 : Nat) % 2 ^ 16 = (unitState 0 {}).sel.a) := by
  decide +kernel

/-- A record whose lease table lies in a page without translation; one in a granule of uncorrectable data. -/
def farRecord : List Byte := (recordBytes (2 ^ 16)).take 0x30 ++ (leBytes 8 (32 * 2 ^ 45) ++ (recordBytes (2 ^ 16)).drop 0x38)

theorem witness_RecordsTaken_tables :
    (let s := queueState 1 1 farRecord; let r := s.recordAt 0 0 0
     Takes s ∧ s.ringOk 0 0 = true ∧ s.poisoned (s.recLoc 0 0 0) 192 = false ∧ s.poisoned (queueLoc 0 0) 64 = false
      ∧ (r.firstBad (s.partOf 0).2).isNone = true ∧ s.tablesReach r = false)
    ∧ (let s := queueState 1 1 (recordBytes 0); ((s.recordAt 0 0 0).firstBad (s.partOf 0).2).isNone = false)
    ∧ (let s := { queueState 1 1 farRecord with poison := [((queueState 1 1 []).recLoc 0 0 0 / 16, true)] }
       Takes s ∧ s.ringOk 0 0 = true ∧ s.poisoned (s.recLoc 0 0 0) 192 = true) := by
  decide +kernel

/-- A record whose signal lies in a page without translation, and the interrupt that owes it. -/
def farSignal : Rec := { poolRec with bytes := leBytes 192 (2 ^ (8 * 0x18) * (32 * 2 ^ 45)) }
def lateIrq (a : Word) : Irq := { vec := 3, write := some ({}, a, 1) }

theorem witness_RecordsTaken_late :
    State.reset.sysLoc farSignal.env farSignal.signal = none
    ∧ (let s := State.reset.setPart 0 { irqs := [lateIrq (pad 0x4100)] }; (s.part 0).irqs = lateIrq (pad 0x4100) :: [] ∧ s.sysLoc {} (pad 0x4100) = some (mkLoc ownModule 0 0x4100))
    ∧ State.reset.sysLoc {} (word (32 * 2 ^ 45)) = none := by
  decide +kernel

/-- A gang whose save area lies in pages without translation, halted and quiet; and a port that is busy. -/
def farSave : Gang := { runGang true .running with record := { recOf 1 false with bytes := leBytes 192 (2 ^ (8 * 0x98) * (32 * 2 ^ 45)) } }

theorem witness_GangsEndAndReturn_waits :
    (let s := cmdWord farSave 3
     s.isPart 0 = true ∧ s.cmdOp 0 = 3 ∧ (s.part 0).portBusy = false ∧ s.gangOfRecord 0 (s.cmdQueue 0) (s.cmdIndex 0) = some (1, farSave) ∧ s.gangQuiet 1 farSave = true
      ∧ s.saveReach farSave = false)
    ∧ ({ inval := some [7] } : Part).portBusy = true ∧ (recOf 1 false).size = 1
    ∧ (let k : Core := { handles := [(5, { st := .pending, gen := 2 })] }
       let c : Ctx := { ({} : Ctx).setG 3 (word (5 + 2 ^ 8 * 2)) with hpend := 8 }
       (k.handle 5).st = .pending ∧ (k.handle ((c.gr 3).bits 0 6)).st = .pending ∧ (k.handle ((c.gr 3).bits 0 6)).gen = (c.gr 3).bits 8 8 ∧ c.hpend.getLsbD 3 = true) := by
  decide +kernel

theorem witness_TablePort_waits :
    (let s := (portState 2 65 0 1 0).setGang 1 (runGang true .running); s.isPart 0 = true ∧ s.tpOp 0 = 2 ∧ (s.part 0).inval = none ∧ s.queueCommand 0 = true)
    ∧ (let s := (portState 3 0 0 2 0).setQState 0 5 3 false; s.tpOp 0 = 3 ∧ (s.part 0).revoking = none ∧ s.queueCommand 0 = true)
    ∧ (let s := portState 2 65 0 0 0; s.queueCommand 0 = false ∧ s.tpArg 0 1 = 0)
    ∧ (let s := portState 2 65 0 (2 ^ 24 + 1) 0; 2 ^ 24 < (s.tpArg 0 1).toNat) := by
  decide +kernel

/-- A stopped context that waits for flag word 5, and DBGBUF with its program counter, a k register changed, and a wait word. -/
def fwaiter : Ctx := { st := .waiting, stopped := true, name := some ⟨0, 0⟩, pc := pad 0x2000, wait := waitWord 7 0 0 0 5 0 }
def waitBuf (w : Word) : List Byte := leBytes 4608 ((pad 0x2000).toNat + 2 ^ (8 * 0x110) * 9 + 2 ^ (8 * 0x1E0) * w.toNat)

theorem waitBuf_ne (w : Word) (h : imgDw (waitBuf w) 0x110 = 9) : waitBuf w ≠ fwaiter.image := fun e =>
  absurd (h.symm.trans (congrArg (imgDw · 0x110) e)) (by decide +kernel)

theorem witness_ManagementAndDebugger_waiting :
    (let s := dbgState 2 (fun _ => fwaiter) (waitBuf 0) {}; s.dbgThread = some 0 ∧ s.ctx (.ctx 0 0) = fwaiter)
    ∧ (imgOk (waitBuf 0) = true ∧ imgDw (waitBuf 0) 0x110 = 9 ∧ imgDw (waitBuf 0) 0x1E0 = 0 ∧ imgDw (waitBuf 0) 0 = fwaiter.pc)
    ∧ (imgOk (waitBuf fwaiter.wait) = true ∧ imgDw (waitBuf fwaiter.wait) 0x110 = 9 ∧ imgDw (waitBuf fwaiter.wait) 0x1E0 = fwaiter.wait ∧ imgDw (waitBuf fwaiter.wait) 0 = fwaiter.pc)
    ∧ (let s := mgmtState (fun m => { m with mstate := mstateWord 3 0 0, seed := [1] }) {}; s.bootState = 3 ∧ s.mgmt.seed ≠ [])
    ∧ fwaiter.wait.bits 0 4 = 7 := by
  decide +kernel

theorem witness_EntriesArrive_host :
    (let e := { storeEntry 7 .channel with bytes := [{ byteAt 0 0 false with loc := mkLoc ownModule 66 0 }] }; let s := entState [e] [] { a := 7, flag := true }
     s.entry 7 = some e ∧ s.mayArrive e = true ∧ e.packet = false ∧ s.linkHeld e = false ∧ ∃ b ∈ e.bytes, locOwner b.loc = 66) := by
  decide +kernel

/-! ## Single steps of what an earlier gang leaves, and of the boundary -/

/-- R286: a push of a command issued before its gang ended is refused. -/
theorem test_push_after_end :
    (let g := { runGang false .ended with endNum := 9 }
     let e := { storeEntry 7 .channel with kind := .engWrite, src := .cmd 5 }
     ((State.reset.setGang 1 g).awayAt e (padLoc 0), (State.reset.setGang 1 g).awayAt { e with src := .cmd 9 } (padLoc 0))) = (true, false) := by
  decide +kernel

/-- R289: a held message of one network stops the later ones of that network, and none of the other. -/
theorem test_leaving :
    leaving (fun m => m == .release farRange) false false [.release farRange, .residency 1 0 true, .answer farRange true] =
      ([.residency 1 0 true], [.release farRange, .answer farRange true]) := by
  decide +kernel

/-- R90: what a save holds of a handle not yet resolved. -/
theorem test_saving_handles :
    (let k : Core := { handles := [(5, { st := .pending, gen := 2 })], ctxs := [(0, { ({} : Ctx).setG 3 (word (5 + 2 ^ 8 * 2)) with st := .ready, hpend := 24 })] }
     ((k.saving.handle 5).st, (k.saving.ctxs.map (fun p => (p.2.hpend, p.2.held, p.2.regained.hpend))))) = (.resolved, [(16, 8, 24)]) := by
  decide +kernel

end Sys2Proof
end

section
/-! PROOFS. The results of the scalar register and immediate forms (R97-R107): an instruction that runs an operand form completes with the value that the form's function gives, and each function of the model is the one that its rule states. -/

namespace Sys2Proof.Machine

/-! ## An instruction that runs an operand form completes -/

theorem completes_aluRRR {i : Instr} {rd ra rb : GReg} {f : Word → Word → Word} (hi : ∀ s, exec i s = aluRRR s rd ra rb f) :
    Completes i (useRRR rd ra rb) always (fun s => s.putG rd (f (s.reg ra) (s.reg rb))) :=
  fun s hs _ => (hi s).trans (aluRRR_clear hs f)

theorem completes_aluRRRd {i : Instr} {rd ra rb : GReg} {f : Word → Word → Word → Word} (hi : ∀ s, exec i s = aluRRRd s rd ra rb f) :
    Completes i (useRRRd rd ra rb) always (fun s => s.putG rd (f (s.reg rd) (s.reg ra) (s.reg rb))) :=
  fun s hs _ => (hi s).trans (aluRRRd_clear hs f)

theorem completes_aluRR {i : Instr} {rd ra : GReg} (f : Word → Word) (hi : ∀ s, exec i s = aluRR s rd ra f) :
    Completes i (useRR rd ra) always (fun s => s.putG rd (f (s.reg ra))) :=
  fun s hs _ => (hi s).trans (aluRR_clear hs f)

/-! The function `g` that the model runs is the stated one, `f`. -/

theorem formRRR_of_eq {i : GReg → GReg → GReg → Instr} {f g : Word → Word → Word} (hg : ∀ a b, g a b = f a b)
    (hi : ∀ rd ra rb s, exec (i rd ra rb) s = aluRRR s rd ra rb g := by intros; rfl) : FormRRR i f :=
  (funext₂ hg : g = f) ▸ fun rd ra rb => completes_aluRRR (hi rd ra rb)

theorem formRRRd_of_eq {i : GReg → GReg → GReg → Instr} {f g : Word → Word → Word → Word} (hg : ∀ d a b, g d a b = f d a b)
    (hi : ∀ rd ra rb s, exec (i rd ra rb) s = aluRRRd s rd ra rb g := by intros; rfl) : FormRRRd i f :=
  (funext₃ hg : g = f) ▸ fun rd ra rb => completes_aluRRRd (hi rd ra rb)

theorem formRR_of_eq {i : GReg → GReg → Instr} {f g : Word → Word} (hg : ∀ a, g a = f a) (hi : ∀ rd ra s, exec (i rd ra) s = aluRR s rd ra g := by intros; rfl) :
    FormRR i f :=
  (funext hg : g = f) ▸ fun rd ra => completes_aluRR g (hi rd ra)

theorem formImm_of_eq {i : GReg → GReg → BitVec 16 → Instr} {f g : Word → BitVec 16 → Word} (hg : ∀ a imm, g a imm = f a imm)
    (hi : ∀ rd ra imm s, exec (i rd ra imm) s = aluRR s rd ra (g · imm) := by intros; rfl) : FormImm i f :=
  (funext₂ hg : g = f) ▸ fun rd ra imm => completes_aluRR (g · imm) (hi rd ra imm)

theorem formCount_of_eq {i : GReg → GReg → Fin 64 → Instr} {f g : Word → Nat → Word} (hg : ∀ a c, c < 64 → g a c = f a c)
    (hi : ∀ rd ra c s, exec (i rd ra c) s = aluRR s rd ra (g · c.val) := by intros; rfl) : FormCount i f := fun rd ra c =>
  completes_aluRR (f · c.val) fun s => (hi rd ra c s).trans (congrArg (aluRR s rd ra) (funext fun a => hg a c.val c.isLt))

/-! ## The functions of the additive, shift, comparison and multiply forms (R93, R97-R101) -/

theorem boolWord_decide (p : Prop) [Decidable p] : boolWord (decide p) = if p then 1 else 0 := by
  by_cases h : p <;> simp [boolWord, h]

theorem boolWord_decide_ne (a b : Word) : boolWord (decide (a ≠ b)) = if a = b then 0 else 1 := by
  rw [boolWord_decide, ite_not]

theorem lo32_eq_setWidth (x : Word) : lo32 x = x.setWidth 32 := BitVec.ofNat_toNat 32 x

theorem sext32_lo32_add (a b : Word) : sext32 (lo32 a + lo32 b) = sextOf 32 (a + b) := by
  simp only [sext32, sextOf, lo32_eq_setWidth, BitVec.setWidth_add _ _ (by decide : 32 ≤ 64)]

theorem sext32_lo32_mul (a b : Word) : sext32 (lo32 a * lo32 b) = sextOf 32 (a * b) := by
  simp only [sext32, sextOf, lo32_eq_setWidth, BitVec.setWidth_mul _ _ (by decide : 32 ≤ 64)]

theorem lo32_sub (a b : Word) : lo32 (a - b) = lo32 a - lo32 b := by
  apply BitVec.eq_of_toNat_eq
  simp only [lo32, BitVec.toNat_ofNat, BitVec.toNat_sub]
  omega

theorem sext32_lo32_sub (a b : Word) : sext32 (lo32 a - lo32 b) = sextOf 32 (a - b) := by
  rw [← lo32_sub, sext32, sextOf, lo32_eq_setWidth]

theorem shiftLeft_eq_mul_two_pow (x : Word) (n : Nat) : x <<< n = x * BitVec.ofNat 64 (2 ^ n) := by
  apply BitVec.eq_of_toNat_eq
  simp [Nat.shiftLeft_eq]

theorem shiftCount_eq_countOf (x : Word) : shiftCount x = countOf x := by
  simp [shiftCount, countOf, Word.bits, bits]

theorem countOf_lt (x : Word) : countOf x < 64 := Nat.mod_lt _ (by decide)

theorem sra64_eq_asr (x : Word) (c : Nat) : sra64 x c = asr x c := by
  rw [sra64, asr, BitVec.sshiftRight_eq, Int.shiftRight_eq_div_pow]
  norm_cast

theorem rol64_eq_rotl (x : Word) {c : Nat} (h : c < 64) : rol64 x c = rotl x c := by
  rw [rol64, rotl, BitVec.rotateLeft_def, Nat.mod_eq_of_lt h]

theorem ror64_eq_rotr (x : Word) {c : Nat} (h : c < 64) : ror64 x c = rotr x c := by
  rw [ror64, rotr, BitVec.rotateRight_def, Nat.mod_eq_of_lt h]

/-- Two shifts that agree on the counts below 64 agree by register. -/
theorem apply_shiftCount_eq_apply_countOf (f g : Word → Nat → Word) (h : ∀ x c, c < 64 → f x c = g x c) (a b : Word) :
    f a (shiftCount b) = g a (countOf b) := by
  rw [shiftCount_eq_countOf, h a _ (countOf_lt b)]

/-- The low half of a product is that of the signed product. -/
theorem mul_eq_ofInt (a b : Word) : a * b = BitVec.ofInt 64 (a.toInt * b.toInt) := by
  rw [BitVec.ofInt_mul, BitVec.ofInt_toInt, BitVec.ofInt_toInt]

theorem mulHigh_toNat (a b : Word) : mulHigh a.toNat b.toNat = BitVec.ofNat 64 (a.toNat * b.toNat / 2 ^ 64) := by
  rw [mulHigh, ← BitVec.ofInt_natCast]
  norm_cast

/-! ## The functions of the unary and immediate forms (R93, R103, R105-R107) -/

theorem sextLow_eq_sextOf (n : Nat) (a : Word) : sextLow n a = sextOf n a := by
  rw [sextLow, sextOf, BitVec.ofNat_toNat]

theorem zext32_lo32 (a : Word) : zext32 (lo32 a) = BitVec.ofNat 64 (a.toNat % 2 ^ 32) := by
  apply BitVec.eq_of_toNat_eq
  simp [zext32, lo32]

theorem slti_eq (a : Word) (imm : BitVec 16) : boolWord (decide (a.toInt < imm.toInt)) = if a.toInt < (imm.signExtend 64).toInt then 1 else 0 := by
  rw [boolWord_decide, BitVec.toInt_signExtend_of_le (by decide)]

theorem word_mul_two_pow (m n : Nat) : word (m * 2 ^ n) = word m <<< n := by
  apply BitVec.eq_of_toNat_eq
  simp [word, Nat.shiftLeft_eq]

theorem insQuarter_eq (x : Word) (q : Nat) (v : BitVec 16) :
    insQuarter x q v = (x &&& ~~~ (0xFFFF#64 <<< (16 * q))) ||| (v.setWidth 64 <<< (16 * q)) := by
  rw [insQuarter, word_mul_two_pow, word_mul_two_pow, word, word, BitVec.ofNat_toNat]

/-! ## Runs of zero bits and set bits (R103) -/

theorem lt_two_pow_bitLen (n : Nat) : n < 2 ^ bitLen n := by
  unfold bitLen
  split
  · omega
  · exact Nat.lt_log2_self

theorem testBit_bitLen_sub_one {n : Nat} (h : n ≠ 0) : n.testBit (bitLen n - 1) = true := by
  simpa [bitLen, h] using Nat.testBit_log2 h

theorem bitLen_le {n k : Nat} (h : n < 2 ^ k) : bitLen n ≤ k := by
  unfold bitLen
  split
  case isTrue => exact Nat.zero_le k
  case isFalse hn => exact (Nat.log2_lt hn).mpr h

theorem toNat_clz64 (a : Word) : (clz64 a).toNat = 64 - bitLen a.toNat := by
  simp only [clz64, word, BitVec.toNat_ofNat]
  omega

/-- CLZ is the length of the run of zero bits at the top. -/
theorem clz64_run (a : Word) : (clz64 a).toNat ≤ 64 ∧ (∀ i, 64 - (clz64 a).toNat ≤ i → a.getLsbD i = false)
    ∧ ((clz64 a).toNat < 64 → a.getLsbD (63 - (clz64 a).toNat) = true) := by
  have hle : bitLen a.toNat ≤ 64 := bitLen_le a.isLt
  rw [toNat_clz64]
  refine ⟨by omega, fun i hi => ?_, fun h => ?_⟩
  · rw [← BitVec.testBit_toNat]
    exact Nat.testBit_lt_two_pow ((lt_two_pow_bitLen _).trans_le (Nat.pow_le_pow_right (by decide) (by omega)))
  · have hne : a.toNat ≠ 0 := fun h0 => by simp [h0, bitLen] at h
    rw [← BitVec.testBit_toNat, show 63 - (64 - bitLen a.toNat) = bitLen a.toNat - 1 by omega]
    exact testBit_bitLen_sub_one hne

/-- CTZ is the length of the run of zero bits at the bottom. -/
theorem ctzFrom_run (n x : Nat) : ctzFrom n x ≤ n ∧ (∀ i, i < ctzFrom n x → x.testBit i = false) ∧ (ctzFrom n x < n → x.testBit (ctzFrom n x) = true) := by
  induction n generalizing x with
  | zero => simp [ctzFrom]
  | succ n ih =>
    obtain ⟨hle, hzero, hone⟩ := ih (x / 2)
    by_cases hx : x % 2 = 1
    · simp [ctzFrom, hx]
    · simp only [ctzFrom, if_neg hx, Nat.add_comm 1]
      refine ⟨by omega, fun i hi => ?_, fun h => ?_⟩
      · cases i with
        | zero => simpa using hx
        | succ i => rw [Nat.testBit_succ]; exact hzero i (by omega)
      · rw [Nat.testBit_succ]; exact hone (by omega)

theorem rangeFrom_succ (a n : Nat) : rangeFrom (a + 1) n = (rangeFrom a n).map (· + 1) := by
  induction n generalizing a with
  | zero => rfl
  | succ n ih => simp only [rangeFrom, List.map_cons, ih]

/-- POPC counts the set bits. -/
theorem popCount_eq_length_filter (n x : Nat) : popCount n x = ((rangeFrom 0 n).filter (x.testBit ·)).length := by
  induction n generalizing x with
  | zero => rfl
  | succ n ih =>
    have hshift : (x.testBit ·) ∘ (· + 1) = ((x / 2).testBit ·) := funext fun i => Nat.testBit_succ x i
    rw [popCount, ih, rangeFrom, List.filter_cons, rangeFrom_succ, List.filter_map, hshift]
    rcases Nat.mod_two_eq_zero_or_one x with h | h <;> simp [h, Nat.add_comm]

/-! ## Mirrored bits and bytes (R103) -/

theorem getLsbD_brev64 (a : Word) {i : Nat} (h : i < 64) : (brev64 a).getLsbD i = a.getLsbD (63 - i) := by
  rw [brev64, BitVec.getLsbD_reverse, BitVec.getMsbD_eq_getLsbD]
  simp [h]

theorem getElem_leBytes (n x i : Nat) (h : i < (leBytes n x).length) : (leBytes n x)[i] = BitVec.ofNat 8 (x / 2 ^ (8 * i)) := by
  induction n generalizing x i with
  | zero => simp [leBytes] at h
  | succ n ih =>
    cases i with
    | zero => simp [leBytes]
    | succ i =>
      simp only [leBytes, List.getElem_cons_succ, ih, Nat.div_div_eq_div_mul]
      rw [Nat.mul_succ, Nat.pow_add, Nat.mul_comm]

/-- Bit j of byte i is bit 8 i + j of the number. -/
theorem testBit_ofLeBytes (l : List Byte) (i j : Nat) (hi : i < l.length) (hj : j < 8) : (ofLeBytes l).testBit (8 * i + j) = l[i].getLsbD j := by
  induction l generalizing i with
  | nil => simp at hi
  | cons b t ih =>
    rw [ofLeBytes, Nat.add_comm, show 256 = 2 ^ 8 by rfl, Nat.testBit_two_pow_mul_add _ b.isLt]
    cases i with
    | zero => rw [Nat.mul_zero, Nat.zero_add, if_pos hj, BitVec.testBit_toNat]; rfl
    | succ i =>
      rw [if_neg (by omega), show 8 * (i + 1) + j - 8 = 8 * i + j by omega, ih i (by simpa using hi)]
      rfl

theorem getLsbD_bswap64 (a : Word) {i j : Nat} (hi : i < 8) (hj : j < 8) : (bswap64 a).getLsbD (8 * i + j) = a.getLsbD (8 * (7 - i) + j) := by
  have hlt : 8 * i + j < 64 := by omega
  rw [bswap64, word, BitVec.getLsbD_ofNat, testBit_ofLeBytes _ i j (by simpa using hi) hj, List.getElem_reverse, getElem_leBytes, BitVec.getLsbD_ofNat, length_leBytes,
    Nat.testBit_div_two_pow, BitVec.testBit_toNat, Nat.add_comm j]
  simp [hlt, hj]

/-! ## Words of the unary forms with a bit of rb or la set (R52, R103) -/

/-- The function value of a unary form with other bits of [15:0] set meets none of the decoder's comparisons. -/
theorem decodeOp04_eq_none {n : Nat} (hlo : 0x30 ≤ bits n 0 7) (hhi : bits n 0 7 ≤ 0x38) (h : bits n 7 9 ≠ 0) : decodeOp04 n = none := by
  have h11 : bits n 0 11 = bits n 0 7 + 2 ^ 7 * bits n 7 4 := Laws.bits_join n 0 7 4
  have h16 : bits n 0 16 = bits n 0 7 + 2 ^ 7 * bits n 7 9 := Laws.bits_join n 0 7 9
  unfold decodeOp04
  simp (disch := omega) only [if_neg]

theorem decode_error_of_raw {w : Lane} (h : decodeRaw w.toNat = none) : ∃ r, decode w = .error r := by
  unfold decode
  rw [h]
  dsimp only
  split <;> exact ⟨_, rfl⟩

/-! ## The obligations -/

/-- Settles O1: each form runs the function that its rule states, or one equal to it. -/
theorem integerResults : Obligations.IntegerResults := by
  unfold Obligations.IntegerResults
  refine ⟨?add, ?sub, ?addw, ?subw, ?and, ?or, ?xor, ?andn, ?orn, ?xnor, ?shadd1, ?shadd2, ?shadd3, ?shadd4, ?shl, ?shr, ?sra, ?rol, ?ror,
    ?slt, ?sltu, ?seq, ?sne, ?min, ?max, ?minu, ?maxu, ?selnz, ?selz, ?mul, ?mulh, ?mulhu, ?mulw⟩
  case addw => exact formRRR_of_eq sext32_lo32_add
  case subw => exact formRRR_of_eq sext32_lo32_sub
  case shadd1 => exact formRRR_of_eq (fun a b => congrArg (· + b) (shiftLeft_eq_mul_two_pow a 1))
  case shadd2 => exact formRRR_of_eq (fun a b => congrArg (· + b) (shiftLeft_eq_mul_two_pow a 2))
  case shadd3 => exact formRRR_of_eq (fun a b => congrArg (· + b) (shiftLeft_eq_mul_two_pow a 3))
  case shadd4 => exact formRRR_of_eq (fun a b => congrArg (· + b) (shiftLeft_eq_mul_two_pow a 4))
  case shl => exact formRRR_of_eq (apply_shiftCount_eq_apply_countOf shl64 _ fun _ _ _ => rfl)
  case shr => exact formRRR_of_eq (apply_shiftCount_eq_apply_countOf shr64 _ fun _ _ _ => rfl)
  case sra => exact formRRR_of_eq (apply_shiftCount_eq_apply_countOf sra64 asr fun x c _ => sra64_eq_asr x c)
  case rol => exact formRRR_of_eq (apply_shiftCount_eq_apply_countOf rol64 rotl @rol64_eq_rotl)
  case ror => exact formRRR_of_eq (apply_shiftCount_eq_apply_countOf ror64 rotr @ror64_eq_rotr)
  case slt => exact formRRR_of_eq (fun a b => boolWord_decide (a.toInt < b.toInt))
  case sltu => exact formRRR_of_eq (fun a b => boolWord_decide (a.toNat < b.toNat))
  case seq => exact formRRR_of_eq (fun a b => boolWord_decide (a = b))
  case sne => exact formRRR_of_eq boolWord_decide_ne
  case selnz => exact formRRRd_of_eq (fun d a b => ite_not (d = 0) a b)
  case selz => exact formRRRd_of_eq (fun _ _ _ => rfl)
  case mul => exact formRRR_of_eq mul_eq_ofInt
  case mulhu => exact formRRR_of_eq mulHigh_toNat
  case mulw => exact formRRR_of_eq sext32_lo32_mul
  case add | sub | and | or | xor | andn | orn | xnor | min | max | minu | maxu | mulh => exact formRRR_of_eq (fun _ _ => rfl)

/-- Settles O2: the forms run the functions that the rules state, the bit functions by their runs and bytes, and the decoder's comparisons over all of bits [15:0]. -/
theorem unaryImmediateAndBitForms : Obligations.UnaryImmediateAndBitForms := by
  unfold Obligations.UnaryImmediateAndBitForms
  refine ⟨⟨?clz, ?ctz, ?popc, ?brev, ?bswap, ?sextb, ?sexth, ?sextw, ?zextw, ?addi, ?andi, ?ori, ?xori, ?slti, ?sltiu, ?muli, ?shli, ?shri, ?srai, ?rori, ?insh⟩,
    fun a => ⟨clz64_run a, ?run, ?count, fun _ => getLsbD_brev64 a, fun _ _ => getLsbD_bswap64 a⟩, fun w hop hlo hhi h => ?refused⟩
  case clz | ctz | popc | brev | bswap => exact formRR_of_eq (fun _ => rfl)
  case sextb => exact formRR_of_eq (sextLow_eq_sextOf 8)
  case sexth => exact formRR_of_eq (sextLow_eq_sextOf 16)
  case sextw => exact formRR_of_eq (sextLow_eq_sextOf 32)
  case zextw => exact formRR_of_eq zext32_lo32
  case addi | andi | ori | xori => exact formImm_of_eq (fun _ _ => rfl)
  case slti => exact formImm_of_eq slti_eq
  case sltiu => exact formImm_of_eq (fun a imm => boolWord_decide (a.toNat < (imm.signExtend 64).toNat))
  case muli => exact formImm_of_eq (fun a imm => mul_eq_ofInt a (imm.signExtend 64))
  case shli | shri => exact formCount_of_eq (fun _ _ _ => rfl)
  case srai => exact formCount_of_eq (fun a c _ => sra64_eq_asr a c)
  case rori => exact formCount_of_eq @ror64_eq_rotr
  case insh =>
    intro rd q imm
    simp only [← insQuarter_eq]
    exact completes_aluRR (insQuarter · q imm) (fun _ => rfl)
  case run => simpa only [BitVec.testBit_toNat] using ctzFrom_run 64 a.toNat
  case count => simpa only [BitVec.testBit_toNat] using popCount_eq_length_filter 64 a.toNat
  case refused => exact decode_error_of_raw ((Laws.raw hop).trans (decodeOp04_eq_none hlo hhi h))

end Sys2Proof.Machine
end
